-- ==== Sys2Proof/Word.lean ====
section
/-! DEFINITION. The word, the byte and the sparse table of the model: types only. -/

namespace Sys2Proof

/-- A register's value (R34). -/
abbrev Word := BitVec 64
/-- A byte of a packet, a store or a structure (R7). -/
abbrev Byte := BitVec 8
/-- Bytes in ascending address order. -/
abbrev Bytes := List Byte
/-- A sparse table: keys strictly rising, no entry equal to what an unlisted key reads as. -/
abbrev Tbl (α : Type) := List (Nat × α)

end Sys2Proof
end

