-- ==== Sys2Proof/Syntax.lean ====
section
/-! DEFINITION. The commands of the TQ16: one constructor per row of the operation table, with the operands
that the sender gives or the event brings. Actors are actor IDs (R17), addresses BAR0 offsets (R40), `l` a
link (0 HA0 … 3 HB1), `th` a Hive thread by number (Hive × 64 + core × 8 + thread). -/

namespace Sys2Proof

/-- A register of a function's configuration space (R106, R107): those of the PCIe header, and the control
and status registers of its capabilities. `bar k` is the 32-bit register k of BAR0–BAR5. -/
inductive CfgReg where
  | id | command | classRev | headerType | bar (k : Nat) | subsystem | rom | intPin
  | devCap | devCtl | devCap2 | devCtl2 | linkCap | linkCtl | msixCtl | msixTable | msixPba
  | atsCap | ats | ptmCap | ptm | pasidCap | pasid | pmc | pmcsr
  | aerUnc | aerUncMask | aerSev | aerCor | aerCorMask | aerCtl | aerLog (k : Nat) | aerPrefix (k : Nat)
  | dataLink | phy16 | phy32 | phy64 | margin | l1Cap | l1Ctl
  | capPtr | capHdr (k : Nat)
  deriving DecidableEq, Repr

/-- The commands. -/
inductive Instr where
  /-- A write to a register that has no row of its own takes effect under the access, claim and power rules (R34). -/
  | registerWrite (actor addr : Nat) (wide : Bool) (v : Word)
  /-- A host write TLP is applied as aligned 32- or 64-bit accesses in ascending order, or dropped if its byte enables are irregular (R35). -/
  | hostWriteTlp (l bar off requester : Nat) (be : List Bool) (data : Bytes)
  /-- A host read TLP that is not an aligned 4- or 8-byte read completes with Unsupported Request (R35). -/
  | hostReadTlp (l bar off len requester tag : Nat)
  /-- A read of an RC field returns its value and clears it, keeping any hardware increment of the same cycle (R10). -/
  | rcRead (actor addr : Nat) (wide : Bool)
  /-- A write to UNIT_SVC.REQ requests a service-state transition, or is ignored with ERROR (R49). -/
  | svcReqWrite (actor unit req : Nat)
  /-- A QUIESCING unit finishes all accepted work and becomes OUT_OF_SERVICE (R49). -/
  | quiesceComplete (unit : Nat)
  /-- An OUT_OF_SERVICE unit whose return checks pass returns to IN_SERVICE (R470). -/
  | returnChecksPass (unit : Nat)
  /-- The self-test of a FAILED unit ends and the unit enters UPDATING or stays FAILED (R470). -/
  | entryChecksDone (unit : Nat) (pass : Bool)
  /-- A write of 1 to a common UNIT_EVT bit of a parent clears it in the parent and its whole subtree (R47). -/
  | evtClear (actor unit : Nat) (v : Word)
  /-- A write of REARM signals the device event vector again if the condition still holds (R123). -/
  | devEvtRearm (actor l : Nat) (v : Word)
  /-- A write of CLEAR to UNIT_FAULT clears CODE, COUNT and SRC (R46). -/
  | faultClear (actor unit : Nat)
  /-- A CLAIM to a claim word takes the resource for the writer or fails with CONFLICT (R57). -/
  | claim (actor word : Nat)
  /-- A RELEASE from the holder frees the claim word; from others it is ignored with ERROR (R57). -/
  | claimRelease (actor word : Nat)
  /-- A FORCE from the owner physical function or the Keeper releases whoever holds the claim (R46). -/
  | claimForce (actor word : Nat)
  /-- A write to TAP_ADDR sets the table address and binds the port to the writer if it is free (R55). -/
  | tapAddrWrite (actor unit : Nat) (v : Word)
  /-- A write to TAP_DATAk sets chunk data and binds the port to the writer if it is free (R55). -/
  | tapDataWrite (actor unit k : Nat) (v : Word)
  /-- TAP READ loads the addressed chunk into the data registers (R56). -/
  | tapRead (actor unit : Nat)
  /-- TAP WRITE stores the data registers into the live table under the unit's checks (R56). -/
  | tapWrite (actor unit : Nat)
  /-- TAP STAGE stores the data registers into the unit's staged copy under its checks (R56). -/
  | tapStage (actor unit : Nat)
  /-- TAP INVALIDATE marks the addressed entry invalid under the unit's rules (R56). -/
  | tapInvalidate (actor unit : Nat)
  /-- TAP RELEASE from the holder frees the table access port (R55). -/
  | tapRelease (actor unit : Nat)
  /-- After 1 ms without a command or holder access, the TAP HOLDER returns to free (R55). -/
  | tapHoldExpire (unit : Nat)
  /-- A TAP command in progress ends, writing its status and clearing BUSY (R56). -/
  | tapCommandComplete (unit : Nat)
  /-- A 64-bit read of EDRYN.TIME_NS returns Edryn time and latches the reader's fraction (R63). -/
  | timeRead (actor : Nat) (wide : Bool)
  /-- A 64-bit read of TAI_NS on a time page returns live time and latches the page's fraction (R82). -/
  | timePageRead (inst : Nat) (wide : Bool)
  /-- A write to ADJ_FREQ changes Edryn's rate within 8 ns (R75). -/
  | adjFreqWrite (actor : Nat) (v : Word)
  /-- A write to ADJ_PHASE starts or replaces a slew, or cancels it with RATE 0 (R75). -/
  | adjPhaseWrite (actor : Nat) (v : Word)
  /-- A slew finishes applying its amount and AMOUNT reads 0 (R75). -/
  | slewDone
  /-- A write to STEP adds an offset to Edryn time in one cycle, with its effects on traceability, triggers and Beeline (R76). -/
  | edrynStep (actor : Nat) (v : Word)
  /-- A write of SERVO_CTL.ACQ moves traceability toward ACQUIRING or out of it (R78). -/
  | servoAcq (actor : Nat) (v : Word)
  /-- A write of SERVO_CTL.LOCK moves traceability between ACQUIRING, LOCKED and HOLDOVER (R78). -/
  | servoLock (actor : Nat) (v : Word)
  /-- A write of HEARTBEAT restarts the servo timeout count (R78). -/
  | heartbeat (actor : Nat) (v : Word)
  /-- A write of EDRYN.BOUND takes effect only in ACQUIRING or LOCKED (R78). -/
  | boundWrite (actor : Nat) (v : Word)
  /-- TIMEOUT ms pass without a heartbeat, so ACQ and LOCK clear and the traceability state may change (R78). -/
  | servoTimeout
  /-- Every 1 ms in HOLDOVER the hardware regrows BOUND from the holdover formula (R79). -/
  | holdoverTick
  /-- At LEAP_AT the device adjusts UTC.OFFSET by one second and clears LEAP (R64). -/
  | leapApply
  /-- After 1 s of good TREF_IN edges, Edryn moves to TREF_IN without a phase step (R66). -/
  | trefQualify
  /-- No TREF_IN edge for 500 ns moves Edryn to its internal oscillator and enters UNTRACEABLE (R66). -/
  | trefLoss
  /-- The SyncE lane loses CDR lock and the DPLL holds its last rate (R67). -/
  | synceCdrLoss (lane : Nat)
  /-- A rising edge on PPS_INn is captured, compensated and flagged, or ignored if too early (R68). -/
  | ppsEdge (pin : Nat)
  /-- A time-of-day message received on TOD_RX is checked, paired with a PPS edge, or rejected (R70). -/
  | todMessageRx (msg : Bytes) (framingOk : Bool) (durNs : Nat)
  /-- 100 ms after a Firefly PPS edge, the device sends a time-of-day message on TOD_TX (R71). -/
  | todMessageTx
  /-- The device rewrites the time page snapshot, bracketed by SEQ increments (R82). -/
  | timePageUpdate (inst : Nat)
  /-- Every INTERVAL ms the device starts a PTM dialog as requester on each PTM-enabled link (R83). -/
  | ptmDialog (l : Nat)
  /-- A PTM response completes a dialog and updates the link's PTM pair (R83). -/
  | ptmResponse (l master delay : Nat)
  /-- A PTM dialog without response within 1 ms is abandoned (R83). -/
  | ptmAbandon (l : Nat)
  /-- When Edryn time passes a multiple of 60 s, the Keeper writes and signs a time evidence record (R84). -/
  | evidenceRecord
  /-- A write to a Firefly register takes effect at the first edge instant at least 1 µs later, or holds the output with FF_ERROR (R87). -/
  | ffConfigWrite (actor n reg : Nat) (v : Word)
  /-- A PULSE or CLOCK output emits an edge at its computed Edryn instant (R86). -/
  | fireflyPeriodicEdge (n : Nat)
  /-- A write setting ARM arms a comparator, or is refused with ERROR (R91). -/
  | trigArm (actor n : Nat) (v : Word)
  /-- A write clearing ARM disarms a comparator (R91). -/
  | trigDisarm (actor n : Nat) (v : Word)
  /-- An armed comparator reaches its instant, fires once, and delivers its action (R92). -/
  | trigFire (n : Nat)
  /-- Assertion of a link's PERST_N begins a conventional reset and seals the link (R108). -/
  | perstAssert (l : Nat)
  /-- Release of PERST_N lets the link train toward the end of its conventional reset (R108). -/
  | perstDeassert (l : Nat)
  /-- Receipt of a Hot Reset begins a conventional reset and seals the link (R108). -/
  | hotReset (l : Nat)
  /-- Entry to the Disabled state begins a conventional reset and seals the link (R108). -/
  | linkDisable (l : Nat)
  /-- DL_Down begins a conventional reset and seals the link with LINK_DOWN or RESET (R116). -/
  | dlDown (l : Nat)
  /-- DL_Up sets DL_UP, sets LINK_CHANGE and releases HOST_WAKE_N for the link (R119). -/
  | dlUp (l : Nat)
  /-- A link finishes training at its negotiated rate and width, ending its conventional reset (R104). -/
  | linkTrained (l rates widths : Nat) (flit : Bool)
  /-- A configuration request is answered with RRS during boot and normally afterwards (R108). -/
  | configRequest (l : Nat) (write : Bool) (r : CfgReg) (v : Nat)
  /-- BME going from 1 to 0 holds new DMA and stalls the rings of bound instances (R112). -/
  | bmeClear (l : Nat)
  /-- BME returning to 1 sends held writes, then pending messages, then unstalls the rings (R112). -/
  | bmeSet (l : Nat)
  /-- A read whose completion has not arrived within CPL_TO.MS times out and its tag is quarantined (R113). -/
  | cplTimeout (l tag : Nat)
  /-- A quarantined tag's 2 x MS period ends and the tag may be reused (R113). -/
  | quarantineEnd (l tag : Nat)
  /-- A completion TLP arrives and is used for its read or discarded as unexpected (R114). -/
  | completionRx (l tag : Nat) (idOk : Bool) (status bc la : Nat) (data : Bytes)
  /-- A TLP with the EP bit set is dropped and seals the link (R116). -/
  | poisonedTlp (l : Nat) (cpl : Option Nat)
  /-- A malformed TLP is dropped and seals the link (R116). -/
  | malformedTlp (l : Nat) (cpl : Option Nat)
  /-- A write to HOSTIF.SEAL_RELEASE releases a link's seal, or is refused (R118). -/
  | sealRelease (actor : Nat) (v : Word)
  /-- A COMMIT checks the shadow peer windows and applies all of them, or refuses the commit (R121). -/
  | peerwinCommit (actor l : Nat) (v : Word)
  /-- A TLP in the peer-window aperture reaches its target, or misses (R120). -/
  | peerWindowTlp (l rid tag off len : Nat) (pasid write : Bool) (data : Bytes)
  /-- An ATS Invalidate Request removes matching translation cache entries (R152). -/
  | atsInvalidate (l itag : Nat) (pasid : Option Nat) (all : Bool) (va size : Nat)
  /-- Once entries are removed and their requests done, the device sends the Invalidate Completion (R152). -/
  | atsInvalidateComplete (l : Nat)
  /-- A Translation Completion fills the translation cache, or faults (R151): `status` 0 to 7 is its completion status,
  8 more where its Requester ID, byte count or lower address contradicts the request (R114). -/
  | translationCompletion (l tag status pa log2 : Nat) (rd wr : Bool)
  /-- A read of RING.ORDER_PROBE is accepted and waits behind earlier posted writes for its link (R133): `inst` below
  2048 names an instance, read through its own link, 2048 · (l + 1) more through the BAR2 of link l. -/
  | orderProbe (inst rid tag : Nat)
  /-- The probe's completion enters the transmit queue behind the covered writes (R133). -/
  | orderProbeComplete (l : Nat)
  /-- CREATE allocates an instance's ranges from its staged record and makes it ACTIVE (R144). -/
  | instCreate (actor inst : Nat)
  /-- RESET puts an instance in RESETTING to drain or squash its work (R154). -/
  | instReset (actor inst mode us : Nat)
  /-- DESTROY puts an instance in DESTROYING, or ends at once with BUSY (R158). -/
  | instDestroy (actor inst mode us : Nat)
  /-- SET_SHARES applies staged chunk 1 of an instance record (R146). -/
  | instSetShares (actor inst : Nat)
  /-- A drain reaches its deadline or stuck condition and becomes a squash (R155). -/
  | drainConvert (inst : Nat)
  /-- All reference counts except NAMED reach 0 and the RESET or DESTROY finishes (R157). -/
  | instCmdDone (inst : Nat)
  /-- A WQ doorbell write advances PROD, is dropped, or causes DOORBELL_OVERRUN (R165). -/
  | wqDoorbell (inst w p : Nat)
  /-- A CR consumer doorbell advances CONS and may unmask, or is dropped (R166). -/
  | crDoorbell (inst c : Nat) (wide hi : Bool) (v : Word)
  /-- The device reserves a completion slot and issues the read of a WQ entry (R163). -/
  | entryFetch (w n : Nat)
  /-- A fetched entry whose fence and resources permit it starts its work (R168). -/
  | entryStart (w : Nat)
  /-- COAL_NS passes since the oldest unshadowed completion and the shadow is written (R176). -/
  | coalTimer (c : Nat)
  /-- START makes a valid IDLE ring ACTIVE (R179). -/
  | ringStart (actor : Nat) (cr : Bool) (n : Nat)
  /-- STOP halts a WQ's fetching and aborts its unstarted entries, or stops a CR (R180). -/
  | ringStop (actor : Nat) (cr : Bool) (n : Nat)
  /-- RESET zeroes a ring's indices and errors (R181). -/
  | ringReset (actor : Nat) (cr : Bool) (n : Nat)
  /-- A write to CLASS.COMMIT makes a new version current, or is refused (R212). -/
  | classCommit (actor v : Nat)
  /-- The oldest live version is held by no packet and retires, killing rules of that version (R211). -/
  | versionRetire
  /-- The ager visits a context and frees or refreshes it if idle (R242). -/
  | ageVisit (idx : Nat)
  /-- The packet at an admission queue head is admitted to its destinations, or waits (R248). -/
  | admission (q : Nat)
  /-- The Comb grants the cells of a waiting NET_TX entry, letting it start (R257). -/
  | cellReserveGrant
  /-- A packet waiting 1 ms on an instance limit is recorded in COMB.STUCK (R248). -/
  | stuckDetect (q : Nat)
  /-- An egress paused for WATCHDOG.MS without a break is reported as a pause storm (R256). -/
  | pauseStorm (p t : Nat)
  /-- An egress that can take a packet selects and dispatches the next packet through its hierarchy (R268). -/
  | dispatch (e : Nat)
  /-- A node's shaper buckets are refilled on the rate clock (R270). -/
  | shaperRefill (kind n : Nat)
  /-- Beeline holds preemptible traffic HOLD_NS before a timed launch (R277). -/
  | beelineHold (p : Nat)
  /-- Edryn time reaches a slot and Beeline launches its timed packets (R277). -/
  | beelineLaunch (p : Nat)
  /-- A write of VERIFY hands the staged mode-program image to the Keeper (R289). -/
  | progVerify (actor : Nat)
  /-- The Keeper finishes checking the image and writes PROG_STAT.RESULT (R289). -/
  | progVerifyDone
  /-- A write of ROLL starts reloading the sequencers one at a time (R290). -/
  | progRoll (actor : Nat)
  /-- A sequencer finishes its old operations, loads the new image and returns (R290). -/
  | sequencerReloadDone
  /-- A write of DISCARD empties the staged image (R289). -/
  | progDiscard (actor : Nat)
  /-- SLOT_CTL.OP 1 erases all material of the selected slot (R295). -/
  | slotErase (actor : Nat)
  /-- SLOT_CTL.OP 2 makes the selected slot's pending generation current (R294). -/
  | slotSwitch (actor : Nat)
  /-- A Scarab operation ends and reports its result (R288). -/
  | scarabOpDone (k : Nat)
  /-- A tamper condition or lasting mismatch fault erases all key material and alarms Scarab (R302). -/
  | scarabAlarm (cause : Nat)
  /-- A pair's mask generator is reseeded from the DRBG (R287). -/
  | maskReseed (pair : Nat)
  /-- A write of 1 to a PAIR_FAULT bit returns the pair to use (R301). -/
  | pairFaultClear (actor mask : Nat)
  /-- A write of GO sets a flow's TLS tracking state (R309). -/
  | tlsSync (actor : Nat) (v : Word)
  /-- An inline session operation on a packet finishes, succeeding or failing (R308). -/
  | inlineSessionDone (k : Nat)
  /-- A part gets a command slot on its connection and its remote command is sent (R317). -/
  | partIssue (r : Nat)
  /-- A remote response or data PDU arrives and ends or advances a part (R321). -/
  | remoteResponse (c : Nat)
  /-- A remote command unanswered after IO_TIMEOUT_MS fails its part and its connection (R321). -/
  | remoteIoTimeout (c : Nat)
  /-- A retransmission timeout on a connection retransmits under RFC 6298 (R319). -/
  | tcpRto (c : Nat)
  /-- A write of MAP_FENCE.REQ marks every part already split (R325). -/
  | mapFence (actor : Nat) (v : Word)
  /-- START checks a Forager channel record and makes it RUNNING (R330). -/
  | foragerChStart (actor c : Nat)
  /-- ABORT puts a RUNNING or WAITING channel in ABORTING (R342). -/
  | foragerChAbort (actor c : Nat)
  /-- RESET zeroes a channel's indices and makes it IDLE (R333). -/
  | foragerChReset (actor c : Nat)
  /-- A write to CH_DBc advances a ring-fed channel's PROD, or puts it in ERROR (R332). -/
  | foragerChDoorbell (actor c : Nat) (v : Word)
  /-- A channel's next descriptor is checked and starts on an engine (R339). -/
  | descriptorStart (c : Nat)
  /-- Edryn time reaches START_NS and a WAITING timed descriptor starts (R340). -/
  | timedDescriptorStart (c : Nat)
  /-- A descriptor ends its last burst and reports its status (R338). -/
  | descriptorFinish (c : Nat)
  /-- A change of INTERLEAVED takes effect when the group has nothing in flight (R328). -/
  | groupModeSwitch (g : Nat)
  /-- THREAD_CTL START puts an OFF thread in RUN at ENTRY (R362). -/
  | threadStart (actor th entry : Nat)
  /-- THREAD_CTL RESET zeroes a thread and releases its staging, windows, claims and locks (R349). -/
  | threadReset (actor th : Nat)
  /-- A long access or accelerator call completes and the thread returns to RUN (R348). -/
  | accessComplete (th : Nat)
  /-- Edryn time reaches a thread's timer deadline and sets TIMER pending (R369). -/
  | threadTimer (th : Nat)
  /-- All 64 threads wait with no external wake source for 4,096 cycles (R352). -/
  | hiveStall (h : Nat)
  /-- The supervisor declares migration complete (R360). -/
  | migrateDone (actor h : Nat) (v : Word)
  /-- TIMEOUT_MS passes in QUIESCING and the Hive force-releases and goes OUT_OF_SERVICE (R360). -/
  | migrateTimeout (h : Nat)
  /-- The Keeper finishes checking a service image supplied through a unit's TAP (R426). -/
  | imageVerifyDone (unit : Nat)
  /-- A debugger halt stops the named threads (R355). -/
  | debugHalt (threads : List Nat)
  /-- A debugger resume returns a HALTED thread to RUN (R349). -/
  | debugResume (threads : List Nat)
  /-- ALU ADD (R364). -/
  | add (th rd rs1 rs2 : Nat)
  /-- ALU SUB (R364). -/
  | sub (th rd rs1 rs2 : Nat)
  /-- ALU AND (R364). -/
  | and (th rd rs1 rs2 : Nat)
  /-- ALU OR (R364). -/
  | or (th rd rs1 rs2 : Nat)
  /-- ALU XOR (R364). -/
  | xor (th rd rs1 rs2 : Nat)
  /-- ALU shift left logical (R364). -/
  | sll (th rd rs1 rs2 : Nat)
  /-- ALU shift right logical (R364). -/
  | srl (th rd rs1 rs2 : Nat)
  /-- ALU shift right arithmetic (R364). -/
  | sra (th rd rs1 rs2 : Nat)
  /-- ALU signed set-less-than (R364). -/
  | slt (th rd rs1 rs2 : Nat)
  /-- ALU unsigned set-less-than (R364). -/
  | sltu (th rd rs1 rs2 : Nat)
  /-- ALU low 64 bits of product (R364). -/
  | mul (th rd rs1 rs2 : Nat)
  /-- ALU high 64 bits of unsigned product (R364). -/
  | mulhu (th rd rs1 rs2 : Nat)
  /-- ALU unsigned minimum (R364). -/
  | minu (th rd rs1 rs2 : Nat)
  /-- ALU unsigned maximum (R364). -/
  | maxu (th rd rs1 rs2 : Nat)
  /-- ALU count leading zeros (R364). -/
  | clz (th rd rs1 rs2 : Nat)
  /-- ALU count trailing zeros (R364). -/
  | ctz (th rd rs1 rs2 : Nat)
  /-- ALU population count (R364). -/
  | popc (th rd rs1 rs2 : Nat)
  /-- ALU reverse 8 bytes (R364). -/
  | bswap (th rd rs1 rs2 : Nat)
  /-- ALU reverse low 4 bytes (R364). -/
  | bswap32 (th rd rs1 rs2 : Nat)
  /-- ALU reverse low 2 bytes (R364). -/
  | bswap16 (th rd rs1 rs2 : Nat)
  /-- Add sign-extended immediate (R364). -/
  | addi (th rd rs1 imm : Nat)
  /-- AND with zero-extended immediate (R364). -/
  | andi (th rd rs1 imm : Nat)
  /-- OR with zero-extended immediate (R364). -/
  | ori (th rd rs1 imm : Nat)
  /-- XOR with zero-extended immediate (R364). -/
  | xori (th rd rs1 imm : Nat)
  /-- Shift left logical by immediate (R364). -/
  | slli (th rd rs1 z cnt : Nat)
  /-- Shift right logical by immediate (R364). -/
  | srli (th rd rs1 z cnt : Nat)
  /-- Shift right arithmetic by immediate (R364). -/
  | srai (th rd rs1 z cnt : Nat)
  /-- Signed set-less-than immediate (R364). -/
  | slti (th rd rs1 imm : Nat)
  /-- Unsigned set-less-than immediate (R364). -/
  | sltiu (th rd rs1 imm : Nat)
  /-- Load sign-extended 21-bit constant (R364). -/
  | lic (th rd k : Nat)
  /-- Shift RD left 21 bits and append an immediate (R364). -/
  | appi (th rd k : Nat)
  /-- Extract a bit field (R364). -/
  | bfx (th rd rs1 z : Nat) (sx : Bool) (pos len : Nat)
  /-- Insert a bit field (R364). -/
  | bfi (th rd rs1 z : Nat) (sx : Bool) (pos len : Nat)
  /-- Ones'-complement add of four 16-bit fields (R373). -/
  | csumAdd (th rd rs1 rs2 : Nat)
  /-- Ones'-complement sum over a block of memory (R373). -/
  | csumBlk (th rd rs1 rs2 : Nat)
  /-- CRC-32C update with one byte (R373). -/
  | crcB (th rd rs1 rs2 : Nat)
  /-- CRC-32C update with eight bytes (R373). -/
  | crcD (th rd rs1 rs2 : Nat)
  /-- Load sign-extended byte (R370). -/
  | lb (th rd rs1 imm : Nat)
  /-- Load zero-extended byte (R370). -/
  | lbu (th rd rs1 imm : Nat)
  /-- Load sign-extended halfword (R370). -/
  | lh (th rd rs1 imm : Nat)
  /-- Load zero-extended halfword (R370). -/
  | lhu (th rd rs1 imm : Nat)
  /-- Load sign-extended word (R370). -/
  | lw (th rd rs1 imm : Nat)
  /-- Load zero-extended word (R370). -/
  | lwu (th rd rs1 imm : Nat)
  /-- Load doubleword (R370). -/
  | ld (th rd rs1 imm : Nat)
  /-- Store byte (R370). -/
  | sb (th rd rs1 imm : Nat)
  /-- Store halfword (R370). -/
  | sh (th rd rs1 imm : Nat)
  /-- Store word (R370). -/
  | sw (th rd rs1 imm : Nat)
  /-- Store doubleword (R370). -/
  | sd (th rd rs1 imm : Nat)
  /-- Atomic swap at memory (R372). -/
  | amoSwap (th rd rs1 rs2 z : Nat) (d acq rel : Bool)
  /-- Atomic add at memory (R372). -/
  | amoAdd (th rd rs1 rs2 z : Nat) (d acq rel : Bool)
  /-- Atomic AND at memory (R372). -/
  | amoAnd (th rd rs1 rs2 z : Nat) (d acq rel : Bool)
  /-- Atomic OR at memory (R372). -/
  | amoOr (th rd rs1 rs2 z : Nat) (d acq rel : Bool)
  /-- Atomic XOR at memory (R372). -/
  | amoXor (th rd rs1 rs2 z : Nat) (d acq rel : Bool)
  /-- Atomic unsigned minimum at memory (R372). -/
  | amoMinu (th rd rs1 rs2 z : Nat) (d acq rel : Bool)
  /-- Atomic unsigned maximum at memory (R372). -/
  | amoMaxu (th rd rs1 rs2 z : Nat) (d acq rel : Bool)
  /-- Atomic compare-and-swap at memory (R372). -/
  | amoCas (th rd rs1 rs2 z : Nat) (d acq rel : Bool)
  /-- Branch if equal (R364). -/
  | beq (th rs1 rs2 off : Nat)
  /-- Branch if not equal (R364). -/
  | bne (th rs1 rs2 off : Nat)
  /-- Branch if signed less than (R364). -/
  | blt (th rs1 rs2 off : Nat)
  /-- Branch if signed greater or equal (R364). -/
  | bge (th rs1 rs2 off : Nat)
  /-- Branch if unsigned less than (R364). -/
  | bltu (th rs1 rs2 off : Nat)
  /-- Branch if unsigned greater or equal (R364). -/
  | bgeu (th rs1 rs2 off : Nat)
  /-- Jump and link to a PC-relative target (R367). -/
  | jal (th rd off : Nat)
  /-- Jump and link to a register target (R367). -/
  | jalr (th rd rs1 imm : Nat)
  /-- Stage one word for a channel message (R374). -/
  | chPut (th rd rs1 rs2 : Nat)
  /-- Append the staged words to a channel as one message (R374). -/
  | chCommit (th rd rs1 rs2 : Nat)
  /-- Take the oldest message of an own channel into Hive store (R374). -/
  | chTake (th rd rs1 rs2 : Nat)
  /-- Empty the staging buffer (R374). -/
  | chDiscard (th rd rs1 rs2 : Nat)
  /-- Wait until an enabled event is pending (R350). -/
  | wfe (th rd rs1 rs2 : Nat)
  /-- Set SEV in another thread of the own Hive (R375). -/
  | sev (th rd rs1 rs2 : Nat)
  /-- Read a control register (R368). -/
  | ctlGet (th rd rs1 rs2 num : Nat)
  /-- Write a control register, returning its old value (R368). -/
  | ctlPut (th rd rs1 rs2 num : Nat)
  /-- Set bits of a control register, returning its old value (R368). -/
  | ctlOr (th rd rs1 rs2 num : Nat)
  /-- Clear bits of a control register, returning its old value (R368). -/
  | ctlBic (th rd rs1 rs2 num : Nat)
  /-- Order the thread's memory accesses (R375). -/
  | fenceM (th rd rs1 rs2 : Nat)
  /-- Order the thread's register-space accesses (R375). -/
  | fenceG (th rd rs1 rs2 : Nat)
  /-- Order both kinds of access against each other (R375). -/
  | fenceMg (th rd rs1 rs2 : Nat)
  /-- Map a held Comb handle into a window (R376). -/
  | pktMap (th rd rs1 rs2 : Nat)
  /-- Unmap a Comb window (R376). -/
  | pktUnmap (th rd rs1 rs2 : Nat)
  /-- Release a held packet, freeing its hold (R376). -/
  | pktRelease (th rd rs1 rs2 : Nat)
  /-- Re-inject a held packet into FLOW with a flow index (R240). -/
  | pktReinject (th rd rs1 rs2 : Nat)
  /-- Send a packet from a send record, or transmit a held handle (R357). -/
  | pktSend (th rd rs1 rs2 : Nat)
  /-- Accelerator call inserting a flow context (R377). -/
  | accFlowInsert (th rd rs1 rs2 : Nat)
  /-- Accelerator call reading a flow context (R377). -/
  | accFlowRead (th rd rs1 rs2 : Nat)
  /-- Accelerator call writing a flow context's four chunks (R377). -/
  | accFlowUpdate (th rd rs1 rs2 : Nat)
  /-- Accelerator call invalidating a flow context (R377). -/
  | accFlowInval (th rd rs1 rs2 : Nat)
  /-- Accelerator call finding the flow index of a key (R377). -/
  | accFlowLookup (th rd rs1 rs2 : Nat)
  /-- Accelerator call matching a held packet against its version's rules (R377). -/
  | accClassMatch (th rd rs1 rs2 : Nat)
  /-- Accelerator call running one lookaside Scarab operation for a secure thread (R377). -/
  | accScarab (th rd rs1 rs2 : Nat)
  /-- A write to a mailbox stores the word or records an overrun (R381). -/
  | mailboxWrite (actor w c m : Nat) (v : Word)
  /-- A 64-bit read of a mailbox takes the word or records an underrun (R382). -/
  | mailboxRead (actor w c m : Nat) (wide : Bool)
  /-- Both ends await with both requests full beyond CROSS_TIMEOUT and are notified (R387). -/
  | crossedDetect (w c : Nat)
  /-- A write of DB_RINGd rings a doorbell, waking threads or signalling an MSI-X vector (R389). -/
  | dbRing (actor w d : Nat) (v : Word)
  /-- A 64-bit read of a lock acquires it if free and returns the owner (R390). -/
  | lockRead (actor w k : Nat) (wide : Bool)
  /-- A write by the owner frees a lock (R391). -/
  | lockRelease (actor w k : Nat)
  /-- A write with FORCE by the owner physical function or Keeper frees a lock (R391). -/
  | lockForce (actor w k : Nat)
  /-- A write to PWR.VOTE sets a vote slot, changing the domain's TARGET (R398). -/
  | voteWrite (actor : Nat) (v : Word)
  /-- A domain with TARGET IDLE enters IDLE when no transfer or work remains (R401). -/
  | idleEnter (d : Nat)
  /-- A power-down step ends and the next begins, or SLEEP or DEEP is reached (R403). -/
  | powerStepDone (d : Nat)
  /-- A wake step's condition arrives and the next step begins, or RUN is reached (R405). -/
  | wakeStepDone (d : Nat)
  /-- A wake step misses its timeout and the domain enters WAKE_FAIL or FAILED (R406). -/
  | wakeStepTimeout (d : Nat)
  /-- 10 ms after a wake failure the domain wakes once more (R406). -/
  | wakeRetry (d : Nat)
  /-- A write of RETRY starts one wake of a FAILED domain (R407). -/
  | domainRetry (actor d : Nat)
  /-- A write of the OFF key with all domains DEEP erases keys and removes the rails (R409). -/
  | offRequest (actor : Nat) (v : Word)
  /-- WAKE_N low for 1 µs in OFF raises REG_EN0 (R410). -/
  | wakeNEvent
  /-- REG_PG0 high for 10 ms releases the device into start-up (R410). -/
  | offWakeRelease (strapBoot strapHost : Nat) (imgA imgB : Bytes) (tests : Bool)
  /-- Loss of a power-good input resets the device or fails its domains (R463). -/
  | regPgLoss (k : Nat)
  /-- A fault-window source reports an event, counted as a transient upset (R413). -/
  | faultEvent (src member row owner reader arg : Nat)
  /-- A monitor group samples its slack and life hours (R420). -/
  | ageingSample (g margin life : Nat)
  /-- SYS_RST_N low resets every register to its reset value (R11). -/
  | sysResetAssert
  /-- SYS_RST_N rising samples the straps and starts the Keeper's start-up (R423). -/
  | sysResetRelease (strapBoot strapHost : Nat) (imgA imgB : Bytes) (tests : Bool)
  /-- Start-up reaches step 8, writes votes and releases BOOT (R423). -/
  | bootComplete
  /-- A write of RECOVER.GO checks a staged image and writes it to flash (R424). -/
  | recoverGo (actor : Nat) (v : Word)
  /-- GO by the owner physical function submits Party H's staged change record (R435). -/
  | chitinSubmitH (actor : Nat) (v : Word)
  /-- A Party P vendor-defined SPDM message submits a change record (R435). -/
  | chitinSubmitP (session : Nat) (record : Bytes)
  /-- The 30 s window ends and a pending submission is discarded with EXPIRED (R436). -/
  | chitinWindowExpire
  /-- An SPDM request message is answered by the Keeper (R430). -/
  | spdmRequest (code session : Nat) (root : Bytes) (authOk : Bool) (body : Bytes)
  /-- A JTAG instruction is executed or refused under the DEBUG word (R437). -/
  | jtagAccess (op addr : Nat) (wide : Bool) (v : Word)
  /-- A write to PORT.MODE sets the port mode and lane ownership, or is ignored (R440). -/
  | portModeWrite (actor p : Nat) (v : Word)
  /-- A frame received by a port MAC is checked, stored and passed into the pipeline (R441). -/
  | frameReceive (p : Nat) (bytes : Bytes) (cap : Nat) (down fec asm fcs : Bool)
  /-- A received PFC or PAUSE frame pauses or resumes egress classes (R444). -/
  | pauseFrameRx (p : Nat) (pfc : Bool) (vec : Nat) (quanta : List Nat)
  /-- A pause time runs out and the egress class resumes (R444). -/
  | pauseExpire (p k : Nat)
  /-- Each half pause time during XOFF the frame is sent again (R444). -/
  | pfcRefresh (p : Nat)
  /-- A verification attempt of MAC merge succeeds, retries after 10 ms, or fails (R445). -/
  | preemptVerify (p : Nat) (ok : Bool)
  /-- A port's link comes up after training (R449). -/
  | linkUp (p : Nat)
  /-- A port's link falls, ending frames in progress with DOWN (R442). -/
  | linkDown (p : Nat)
  /-- Re-calibration finishes and writes CAL.RESULT (R449). -/
  | calDone (p : Nat)
  /-- A frame's last bit passes the PMA and its sender completes (R25). -/
  | frameTransmitDone (p : Nat)
  /-- Every 1 ms the thermal sensors update TJ and may raise HOT (R467). -/
  | thermSample (tj : Int)
  /-- Every 10 ms the AON firmware reads each regulator over PMBus (R464). -/
  | regPoll (readings : List (Nat × Nat × Nat × Nat))
  /-- The SyncE lane's CDR regains lock, so the DPLL tracks the recovered clock again and the RCLK squelch lifts (R67). -/
  | synceCdrLock (lane : Nat)
  /-- At each whole second, EDRYN.FREQ_MEAS takes the SyncE clock's offset against TREF_IN over that second (R67). -/
  | freqMeasUpdate (v : Word)
  /-- After a loss of REG_PG0, REG_PG1 or REG_PG2, the power-good has been high again for 1 ms and the internal reset that the loss asserted is released (R463). -/
  | regPgRestore (k strapBoot strapHost : Nat) (imgA imgB : Bytes) (tests : Bool)
  /-- When VDD_WAKE is first applied, the wake detector drives REG_EN0 high to start the group 0 rails (R410). -/
  | vddWakeApply
  /-- An NC-SI command or pass-through frame from the board controller arrives on the RBT pins and is handed to Hive firmware (R451). -/
  | ncsiFrameRx (bytes : Bytes)
  deriving DecidableEq, Repr

end Sys2Proof
end

