-- ==== Sys2Proof/Decode.lean ====
section
/-! DEFINITION. The words of the operation table: none of its rows has bits. -/

namespace Sys2Proof

/-- The command that a word spells by the table's bits. No row of the table gives bits (every row's list of
fields is empty and none has a fixed pattern), so no word spells a command. -/
def decodeTableWord (_nbits _w : Nat) : Option Instr := none

end Sys2Proof
end

