-- ==== Sys2Proof/Machine/Bits.lean ====
section
/-! DEFINITION. Bit fields, bytes and sparse tables: the helpers every unit uses (R6, R7, R8). -/

namespace Sys2Proof.Machine

/-- Bits [hi:lo] of a number (R7). -/
def bits (v hi lo : Nat) : Nat := v / 2 ^ lo % 2 ^ (hi + 1 - lo)

/-- A number with its bits [hi:lo] replaced by the low bits of `x`. -/
def setBits (v hi lo x : Nat) : Nat :=
  v % 2 ^ lo + x % 2 ^ (hi + 1 - lo) * 2 ^ lo + v / 2 ^ (hi + 1) * 2 ^ (hi + 1)

/-- Bit `i` of a number. -/
def bit (v i : Nat) : Bool := v / 2 ^ i % 2 == 1

/-- One bit as a number. -/
def b2n (b : Bool) : Nat := if b then 1 else 0

/-- Bits [hi:lo] of a word of any width. -/
def getF {n : Nat} (w : BitVec n) (hi lo : Nat) : Nat := bits w.toNat hi lo

/-- A word of any width with bits [hi:lo] replaced. -/
def putF {n : Nat} (w : BitVec n) (hi lo x : Nat) : BitVec n :=
  BitVec.ofNat n (setBits w.toNat hi lo x)

/-- A word with bits [hi:lo] cleared, as reserved bits are when they are written (R9). -/
def clearF {n : Nat} (w : BitVec n) (hi lo : Nat) : BitVec n := putF w hi lo 0

/-- The signed reading of the low `n` bits. -/
def sgn (n v : Nat) : Int := if v % 2 ^ n < 2 ^ (n - 1) then v % 2 ^ n else (v % 2 ^ n : Int) - 2 ^ n

/-- The low `n` bits of an integer, as two's complement. -/
def wrapInt (n : Nat) (i : Int) : Nat := (i % (2 ^ n : Int)).toNat

/-- Saturating addition at `n` bits. -/
def satAdd (n a b : Nat) : Nat := min (a + b) (2 ^ n - 1)

/-- Division rounded up. -/
def ceilDiv (a b : Nat) : Nat := (a + b - 1) / b

/-- A multiple of 8 not below `a`. -/
def ceil8 (a : Nat) : Nat := ceilDiv a 8 * 8

/-- The integer whose square root is wanted, by counting down the bits of the root. -/
def sqrtBits : Nat → Nat → Nat → Nat
  | 0, _, r => r
  | k + 1, v, r => if (r + 2 ^ k) * (r + 2 ^ k) ≤ v then sqrtBits k v (r + 2 ^ k) else sqrtBits k v r

/-! Bytes. -/

/-- `n` bytes of a number, least significant first (R8). -/
def leBytes : Nat → Nat → Bytes
  | 0, _ => []
  | n + 1, v => BitVec.ofNat 8 v :: leBytes n (v / 256)

/-- The number that bytes spell, least significant first. -/
def leNat : Bytes → Nat
  | [] => 0
  | b :: r => b.toNat + 256 * leNat r

/-- `n` bytes of a number in wire order (R8). -/
def beBytes (n v : Nat) : Bytes := (leBytes n v).reverse

/-- The number that bytes in wire order spell. -/
def beNat (bs : Bytes) : Nat := leNat bs.reverse

/-- `n` bytes from offset `o`, short where the list ends. -/
def slice (bs : Bytes) (o n : Nat) : Bytes := (bs.drop o).take n

/-- The byte at offset `o` as a number, 0 past the end. -/
def byteAt (bs : Bytes) (o : Nat) : Nat := ((bs.drop o).head?.map BitVec.toNat).getD 0

/-- The wire-order number in the `n` bytes at offset `o`. -/
def beAt (bs : Bytes) (o n : Nat) : Nat := beNat (slice bs o n)

/-- The little-endian number in the `n` bytes at offset `o`. -/
def leAt (bs : Bytes) (o n : Nat) : Nat := leNat (slice bs o n)

/-- Bytes with `new` written from offset `o`; bytes past the end are not added. -/
def overlay (bs : Bytes) (o : Nat) (new : Bytes) : Bytes :=
  bs.take o ++ new.take (bs.length - o) ++ bs.drop (o + new.length)

/-- Exactly `n` bytes: cut, or filled with zeros. -/
def padTo (n : Nat) (bs : Bytes) : Bytes := bs.take n ++ List.replicate (n - bs.length) 0

/-- A packed record of `n` bits from bytes (byte 0 lowest, R7). -/
def packBytes (n : Nat) (bs : Bytes) : BitVec n := BitVec.ofNat n (leNat bs)

/-- The bytes of a packed record. -/
def recBytes {n : Nat} (w : BitVec n) : Bytes := leBytes (n / 8) w.toNat

/-- CRC-16 of R69 over one byte: polynomial 0x1021, no reflection. -/
def crc16Step : Nat → Nat → Nat
  | 0, c => c
  | k + 1, c => crc16Step k (if bit c 15 then (c * 2 % 65536) ^^^ 0x1021 else c * 2 % 65536)

/-- CRC-16 with polynomial 0x1021, initial value 0xFFFF, over bytes (R69). -/
def crc16 (bs : Bytes) : Nat := bs.foldl (fun c b => crc16Step 8 (c ^^^ (b.toNat * 256))) 0xFFFF

/-! Sparse tables: keys strictly rising; an entry equal to what an unlisted key reads as is not kept. -/

/-- What a key reads as; `d` is what an unlisted one reads as. (DESIGN CHOICE, unsafe: assumption 9) -/
def tget {α : Type} (d : α) : Tbl α → Nat → α
  | [], _ => d
  | (a, v) :: r, k => if k = a then v else tget d r k

/-- A table without a key. -/
def tdel {α : Type} (t : Tbl α) (k : Nat) : Tbl α := t.filter (fun e => e.1 != k)

/-- A table with an entry put at its place. -/
def tins {α : Type} (k : Nat) (v : α) : Tbl α → Tbl α
  | [] => [(k, v)]
  | (a, w) :: r => if k < a then (k, v) :: (a, w) :: r else if k = a then (k, v) :: r else (a, w) :: tins k v r

/-- A table with a key written; writing what an unlisted key reads as removes the entry. -/
def tset {α : Type} [DecidableEq α] (d : α) (t : Tbl α) (k : Nat) (v : α) : Tbl α :=
  if v = d then tdel t k else tins k v t

/-- The canonical form: keys strictly rising, and no entry that an unlisted key reads as. -/
def tblWf {α : Type} [DecidableEq α] (d : Nat → α) : Tbl α → Bool
  | [] => true
  | (a, v) :: r => decide (v ≠ d a) && r.all (fun e => decide (a < e.1)) && tblWf d r

/-- Every listed key. -/
def tkeys {α : Type} (t : Tbl α) : List Nat := t.map (·.1)

/-- A table with every entry changed by a function of key and value; entries equal to `d` go. -/
def tmap {α : Type} [DecidableEq α] (d : α) (t : Tbl α) (f : Nat → α → α) : Tbl α :=
  (t.map (fun e => (e.1, f e.1 e.2))).filter (fun e => decide (e.2 ≠ d))

/-! Bytes in a sparse memory. -/

/-- `n` bytes from address `a`; an unlisted byte reads 0. (DESIGN CHOICE, unsafe: assumption 9) -/
def mread (m : Tbl Byte) (a : Nat) : Nat → Bytes
  | 0 => []
  | n + 1 => tget 0 m a :: mread m (a + 1) n

/-- A memory with bytes written from address `a`. -/
def mwrite (m : Tbl Byte) (a : Nat) : Bytes → Tbl Byte
  | [] => m
  | b :: r => mwrite (tset 0 m a b) (a + 1) r

/-! Lists. -/

/-- The first element that a test accepts, with its place. -/
def findAt {α : Type} (p : α → Bool) (l : List α) : Option (Nat × α) :=
  (l.zipIdx.find? (fun e => p e.1)).map (fun e => (e.2, e.1))

/-- A list with the element at one place replaced. -/
def setAt {α : Type} (l : List α) (i : Nat) (v : α) : List α := l.set i v

/-- Insertion of a number in a rising list without repeats. -/
def insertSorted (k : Nat) : List Nat → List Nat
  | [] => [k]
  | a :: r => if k < a then k :: a :: r else if k = a then a :: r else a :: insertSorted k r

/-- The least element not in a list, searched upward from `k` for at most `n` numbers, modulo `m`. -/
def pickFree (used : Nat → Bool) (m : Nat) : Nat → Nat → Option Nat
  | 0, _ => none
  | n + 1, k => if used (k % m) then pickFree used m n (k + 1) else some (k % m)

end Sys2Proof.Machine
end

