-- ==== Sys2Proof/Machine/Crypto.lean ====
section
/-! DEFINITION. The standards that signed images, change records and measurements name (R425, R428, R434): SHA-384
(FIPS 180-4) and the verification of an ECDSA P-384 signature (FIPS 186-5), over byte lists in wire order. -/

namespace Sys2Proof.Machine.Crypto

/-- A number, computed before it is used. -/
def eval {α : Type} (v : Nat) (f : Nat → α) : α :=
  match v with
  | 0 => f 0
  | n + 1 => f (n + 1)

/-! SHA-384. -/

def rotr (n x : Nat) : Nat := (x >>> n ||| x <<< (64 - n)) % 2 ^ 64
def sigma0 (x : Nat) : Nat := rotr 1 x ^^^ rotr 8 x ^^^ x >>> 7
def sigma1 (x : Nat) : Nat := rotr 19 x ^^^ rotr 61 x ^^^ x >>> 6
def sum0 (x : Nat) : Nat := rotr 28 x ^^^ rotr 34 x ^^^ rotr 39 x
def sum1 (x : Nat) : Nat := rotr 14 x ^^^ rotr 18 x ^^^ rotr 41 x
def choose (x y z : Nat) : Nat := x &&& y ^^^ (2 ^ 64 - 1 - x) &&& z
def majority (x y z : Nat) : Nat := x &&& y ^^^ x &&& z ^^^ y &&& z

/-- The round constants. -/
def roundKeys : List Nat :=
  [0x428A2F98D728AE22, 0x7137449123EF65CD, 0xB5C0FBCFEC4D3B2F, 0xE9B5DBA58189DBBC,
   0x3956C25BF348B538, 0x59F111F1B605D019, 0x923F82A4AF194F9B, 0xAB1C5ED5DA6D8118,
   0xD807AA98A3030242, 0x12835B0145706FBE, 0x243185BE4EE4B28C, 0x550C7DC3D5FFB4E2,
   0x72BE5D74F27B896F, 0x80DEB1FE3B1696B1, 0x9BDC06A725C71235, 0xC19BF174CF692694,
   0xE49B69C19EF14AD2, 0xEFBE4786384F25E3, 0x0FC19DC68B8CD5B5, 0x240CA1CC77AC9C65,
   0x2DE92C6F592B0275, 0x4A7484AA6EA6E483, 0x5CB0A9DCBD41FBD4, 0x76F988DA831153B5,
   0x983E5152EE66DFAB, 0xA831C66D2DB43210, 0xB00327C898FB213F, 0xBF597FC7BEEF0EE4,
   0xC6E00BF33DA88FC2, 0xD5A79147930AA725, 0x06CA6351E003826F, 0x142929670A0E6E70,
   0x27B70A8546D22FFC, 0x2E1B21385C26C926, 0x4D2C6DFC5AC42AED, 0x53380D139D95B3DF,
   0x650A73548BAF63DE, 0x766A0ABB3C77B2A8, 0x81C2C92E47EDAEE6, 0x92722C851482353B] ++
  [0xA2BFE8A14CF10364, 0xA81A664BBC423001, 0xC24B8B70D0F89791, 0xC76C51A30654BE30,
   0xD192E819D6EF5218, 0xD69906245565A910, 0xF40E35855771202A, 0x106AA07032BBD1B8,
   0x19A4C116B8D2D0C8, 0x1E376C085141AB53, 0x2748774CDF8EEB99, 0x34B0BCB5E19B48A8,
   0x391C0CB3C5C95A63, 0x4ED8AA4AE3418ACB, 0x5B9CCA4F7763E373, 0x682E6FF3D6B2B8A3,
   0x748F82EE5DEFB2FC, 0x78A5636F43172F60, 0x84C87814A1F0AB72, 0x8CC702081A6439EC,
   0x90BEFFFA23631E28, 0xA4506CEBDE82BDE9, 0xBEF9A3F7B2C67915, 0xC67178F2E372532B,
   0xCA273ECEEA26619C, 0xD186B8C721C0C207, 0xEADA7DD6CDE0EB1E, 0xF57D4F7FEE6ED178,
   0x06F067AA72176FBA, 0x0A637DC5A2C898A6, 0x113F9804BEF90DAE, 0x1B710B35131C471B,
   0x28DB77F523047D84, 0x32CAAB7B40C72493, 0x3C9EBE0A15C9BEBC, 0x431D67C49C100D4C,
   0x4CC5D4BECB3E42B6, 0x597F299CFC657E2A, 0x5FCB6FAB3AD6FAEC, 0x6C44198C4A475817]

/-- The eight words of a hash value. -/
structure Hash where
  a : Nat
  b : Nat
  c : Nat
  d : Nat
  e : Nat
  f : Nat
  g : Nat
  h : Nat

def hash0 : Hash :=
  ⟨0xCBBB9D5DC1059ED8, 0x629A292A367CD507, 0x9159015A3070DD17, 0x152FECD8F70E5939,
   0x67332667FFC00B31, 0x8EB44A8768581511, 0xDB0C2E0D64F98FA7, 0x47B5481DBEFA4FA4⟩

/-- The next word of a message schedule, whose words stand newest first. -/
def nextWord (w : List Nat) : Nat :=
  (sigma1 (w.getD 1 0) + w.getD 6 0 + sigma0 (w.getD 14 0) + w.getD 15 0) % 2 ^ 64
def schedule : Nat → List Nat → List Nat
  | 0, w => w
  | n + 1, w => eval (nextWord w) (fun x => schedule n (x :: w))

/-- One round for each pair of a constant and a word. -/
def rounds : List (Nat × Nat) → Hash → Hash
  | [], v => v
  | (k, w) :: r, v =>
    eval (v.h + sum1 v.e + choose v.e v.f v.g + k + w) (fun t =>
      eval ((t + sum0 v.a + majority v.a v.b v.c) % 2 ^ 64) (fun a =>
        eval ((v.d + t) % 2 ^ 64) (fun e => rounds r ⟨a, v.a, v.b, v.c, e, v.e, v.f, v.g⟩)))

/-- One block of 16 words. -/
def compress (v : Hash) (w : List Nat) : Hash :=
  let u := rounds (roundKeys.zip (schedule 64 w.reverse).reverse) v
  let add (x y : Nat) : Nat := (x + y) % 2 ^ 64
  ⟨add v.a u.a, add v.b u.b, add v.c u.c, add v.d u.d, add v.e u.e, add v.f u.f, add v.g u.g, add v.h u.h⟩

/-- The words of a padded message, and its blocks. -/
def words : Nat → Bytes → List Nat
  | 0, _ => []
  | n + 1, b => eval (beNat (b.take 8)) (fun w => w :: words n (b.drop 8))
def blocks : Nat → List Nat → Hash → Hash
  | 0, _, v => v
  | n + 1, w, v => blocks n (w.drop 16) (compress v (w.take 16))

/-- The padding: a one bit, zeros to the end of a block but 16 bytes, the length in bits. -/
def padding (n : Nat) : Bytes := 0x80 :: List.replicate ((239 - n % 128) % 128) 0 ++ beBytes 16 (8 * n)

/-! ECDSA P-384. -/

/-- The field, the order of the base point, the curve's constant and the base point. -/
def p : Nat := 2 ^ 384 - 2 ^ 128 - 2 ^ 96 + 2 ^ 32 - 1
def n : Nat := 0xFFFFFFFFFFFFFFFFFFFFFFFFFFFFFFFFFFFFFFFFFFFFFFFFC7634D81F4372DDF581A0DB248B0A77AECEC196ACCC52973
def b : Nat := 0xB3312FA7E23EE7E4988E056BE3F82D19181D9C6EFE8141120314088F5013875AC656398D8A2ED19D2A85C8EDD3EC2AEF
def gx : Nat := 0xAA87CA22BE8B05378EB1C71EF320AD746E1D3B628BA79B9859F741E082542A385502F25DBF55296C3A545E3872760AB7
def gy : Nat := 0x3617DE4A96262C6F5D9E98BF9292DC29F8F41DBD289A147CE9DA3113B5F0B8C00A60B1CE1D7E819D7A431D7C90EA0E5F

/-- A point in Jacobian coordinates; z = 0 at infinity. -/
structure Point where
  x : Nat
  y : Nat
  z : Nat

/-- A difference in the field. -/
def minus (x y : Nat) : Nat := (x + (p - y % p)) % p

def point (x y z : Nat) (f : Point → Point) : Point :=
  eval (x % p) (fun x => eval (y % p) (fun y => eval (z % p) (fun z => f ⟨x, y, z⟩)))

/-- Twice a point (a = −3). -/
def twice (v : Point) (f : Point → Point) : Point :=
  eval (v.z * v.z % p) (fun d => eval (v.y * v.y % p) (fun g => eval (v.x * g % p) (fun t =>
    eval (3 * (minus v.x d * (v.x + d)) % p) (fun a => eval (minus (a * a) (8 * t)) (fun x =>
      point x (minus (a * minus (4 * t) x) (8 * g * g)) (2 * v.y * v.z) f)))))

/-- The sum of two points. -/
def plus (v w : Point) (f : Point → Point) : Point :=
  if v.z = 0 then f w
  else if w.z = 0 then f v
  else
    eval (v.z * v.z % p) (fun s => eval (w.z * w.z % p) (fun t =>
      eval (v.x * t % p) (fun u1 => eval (w.x * s % p) (fun u2 =>
        eval (v.y * t * w.z % p) (fun s1 => eval (w.y * s * v.z % p) (fun s2 =>
          if u1 = u2 then (if s1 = s2 then twice v f else f ⟨1, 1, 0⟩)
          else
            eval (minus u2 u1) (fun h => eval (minus s2 s1) (fun r => eval (h * h % p) (fun k =>
              eval (minus (r * r) (k * h + 2 * (u1 * k))) (fun x =>
                point x (minus (r * minus (u1 * k) x) (s1 * k * h)) (h * v.z * w.z) f)))))))))) 

/-- i·v + j·w, by the low bits of i and j from the k-th down; `vw` is v + w. -/
def combine (v w vw : Point) (i j : Nat) : Nat → Point → Point
  | 0, a => a
  | k + 1, a => twice a (fun a =>
    plus a (if i.testBit k then (if j.testBit k then vw else v) else if j.testBit k then w else ⟨1, 1, 0⟩)
      (combine v w vw i j k))

/-- x to the power e modulo m, by the low bits of e from the k-th down. -/
def powMod (m x e : Nat) : Nat → Nat → Nat
  | 0, a => a
  | k + 1, a => eval (a * a % m * (if e.testBit k then x else 1) % m) (powMod m x e k)

/-- Whether r and s are a signature of the number e by the key at (x, y). -/
def verify (x y r s e : Nat) : Bool :=
  decide (x < p) && decide (y < p) && (y * y % p == (x * x * x + (p - 3) * x + b) % p) &&
  decide (0 < r) && decide (r < n) && decide (0 < s) && decide (s < n) &&
  eval (powMod n s (n - 2) 384 1) (fun w =>
    let g : Point := ⟨gx, gy, 1⟩
    let q : Point := ⟨x, y, 1⟩
    let v := eval (e * w % n) (fun i => eval (r * w % n) (fun j =>
      plus g q (fun gq => combine g q gq i j 384 ⟨1, 1, 0⟩)))
    v.z != 0 && v.x * powMod p (v.z * v.z % p) (p - 2) 384 1 % p % n == r)

end Sys2Proof.Machine.Crypto

namespace Sys2Proof.Machine

/-- SHA-384 of a message, 48 bytes in wire order. (PRESUMED, unsafe: assumption 15) -/
@[irreducible] def sha384 (m : Bytes) : Bytes :=
  let b := m ++ Crypto.padding m.length
  let v := Crypto.blocks (b.length / 128) (Crypto.words (b.length / 8) b) Crypto.hash0
  beBytes 8 v.a ++ beBytes 8 v.b ++ beBytes 8 v.c ++ beBytes 8 v.d ++ beBytes 8 v.e ++ beBytes 8 v.f

/-- ECDSA P-384 verification: public key x then y, signature r then s, digest (R425). (PRESUMED, unsafe: assumption 15) -/
@[irreducible] def ecdsaVerify (key sig digest : Bytes) : Bool :=
  key.length == 96 && sig.length == 96 &&
  Crypto.verify (beNat (key.take 48)) (beNat (key.drop 48)) (beNat (sig.take 48)) (beNat (sig.drop 48)) (beNat digest)

end Sys2Proof.Machine
end

