-- ==== Sys2Proof/Config.lean ====
section
/-! DEFINITION. The values the spec leaves open: opaque constants without a body, so that no proof can
see what they are. Each is applied to a counter of the state, or to the operands it depends on. -/

namespace Sys2Proof.Config

/-- A free 64-bit value for the n-th time one is needed: random numbers (boot nonce, RANDOM, KEK),
tag choice, cache choice, measured slack. (DESIGN CHOICE, safe: assumption 14) -/
opaque freeValue : Nat → BitVec 64
/-- Free bytes of a given length for the n-th need: random bytes, keys, nonces. (DESIGN CHOICE, safe: assumption 14) -/
opaque freeBytes : Nat → Nat → List (BitVec 8)
/-- The n-th word of the configuration space whose value the PCIe base specification leaves to an implementation:
capability versions and pointers, receiver margins, latencies (R107). (PRESUMED, unsafe: assumption 37) -/
opaque cfgConst : Nat → BitVec 32
/-- ECDSA P-384 signature by a key of the device: which key, digest (R84, R85). (PRESUMED, unsafe: assumption 15) -/
opaque ecdsaSign : Nat → List (BitVec 8) → List (BitVec 8)
/-- The four fused digests of image keys (R425, R427), fixed when the device is made. (DESIGN CHOICE, safe: assumption 16) -/
opaque fuseKey : Nat → List (BitVec 8)
/-- The rate, in units of 2^−48, that the SyncE DPLL sets at its k-th update (R67). (DESIGN CHOICE, safe: assumption 34) -/
opaque dpllRate : Nat → Int
/-- The body of an SPDM answer, for the state of the responder's counter and the request (R430). (PRESUMED, unsafe: assumption 113) -/
opaque spdmAnswer : Nat → List (BitVec 8) → List (BitVec 8)

/-- What a Hive image segment carries (R360): the instruction memory's bytes, the entry point, and the data
segments with their Hive store addresses. The spec gives the segment no layout. (DEDUCED, unsafe: assumption 120) -/
opaque hiveCode : List (BitVec 8) → List (BitVec 8)
/-- (DEDUCED, unsafe: assumption 120) -/
opaque hiveEntry : List (BitVec 8) → Nat
/-- (DEDUCED, unsafe: assumption 120) -/
opaque hiveData : List (BitVec 8) → List (Nat × List (BitVec 8))

/-- Byte k of what the frames of a storage connection carry and its record does not name: MAC and IP addresses, ports,
traffic class, partition key (R319). It is one value for a connection number with its two flow indices. (PRESUMED, unsafe: assumption 94) -/
opaque connByte : List Nat → Nat → BitVec 8
/-- Whether such a connection runs over IPv6. (PRESUMED, unsafe: assumption 94) -/
opaque connSix : List Nat → Bool
/-- The timestamp clock of a storage connection's TCP (RFC 7323), at a rate clock. (PRESUMED, unsafe: assumption 94) -/
opaque tcpTs : Nat → BitVec 32
/-- Receive window of a storage connection in bytes, its first congestion window, and the keys and addresses
by which a command names STOR memory (R319). (PRESUMED, unsafe: assumption 95) -/
opaque storWindow : Nat
/-- (PRESUMED, unsafe: assumption 95) -/
opaque storInitCwnd : Nat → Nat
/-- (PRESUMED, unsafe: assumption 95) -/
opaque storKey : Nat → Nat → Nat
/-- (PRESUMED, unsafe: assumption 95) -/
opaque storAddr : Nat → Nat → Nat

end Sys2Proof.Config
end

