-- ==== Sys2Proof/Machine/Regs.lean ====
section
/-! DEFINITION. The register map of the spec (R40, R43, R46 and the register tables of every chapter):
one descriptor per register (offset from its unit's base, stride, count, fields with access type and
reset), and one name per register and per field. -/

namespace Sys2Proof.Machine

/-- Unit types of R43; `hdr`, `tap`, `chan` and `ipage` are the register groups that several units or
places share: the header of R46, the table access port, a Waggle channel block and an instance page. -/
inductive UType where
  | root | hostif | inst | ring | parse | class | flow | comb | sched | beeline | scarab | forager
  | hive | qcore | waggle | edryn | port | pwr | chitin | fwc | stor | hbmctl | debug | keeper | trig
  | pin | hostlink | hdr | tap | chan | ipage
  deriving DecidableEq, Repr

/-- Field access types of R10. -/
inductive Acc where
  | rw | ro | w1c | w1s | rc | wo | rwc
  deriving DecidableEq, Repr

/-- One field of a register table: bits [hi:lo], access type, the value after SYS_RST_N, and the value
after a domain wake (`none`: "kept", R11). -/
structure FieldDesc where
  hi : Nat
  lo : Nat
  acc : Acc
  rst : Nat
  wake : Option Nat
  deriving DecidableEq, Repr

/-- One register table: offset from the unit's base, distance and number of its copies, its fields.
Bits of no field are reserved (R9). -/
structure RegDesc where
  off : Nat
  stride : Nat
  count : Nat
  fields : List FieldDesc
  deriving DecidableEq, Repr

/-- A named field: the address of its register and its bits. -/
structure Fld where
  reg : Nat
  hi : Nat
  lo : Nat
  deriving DecidableEq, Repr

/-! Bases of the units that come in several copies (R40). -/

/-- HOSTLINK l: 0 HA0, 1 HA1, 2 HB0, 3 HB1. -/
def HOSTLINK.base (l : Nat) : Nat := 0x0101_0000 + 0x1_0000 * l
/-- PORTp. -/
def PORT.base (p : Nat) : Nat := 0x0300_0000 + 0x10_0000 * p
/-- HIVEh. -/
def HIVE.base (h : Nat) : Nat := 0x0400_0000 + 0x40_0000 * h
/-- A WAGGLE: 0 the device's, h + 1 that of HIVEh. -/
def WAGGLE.base (w : Nat) : Nat := if w = 0 then 0x0130_0000 else HIVE.base (w - 1) + 0x10_0000
/-- Instance page n, kept in the register file above BAR0's addresses (R44). -/
def IPAGE.base (n : Nat) : Nat := 0x1_0000_0000 + 0x1_0000 * n

/-- Base of ROOT (R40). -/
def ROOT.base : Nat := 0x0
/-- Base of EDRYN (R40). -/
def EDRYN.base : Nat := 0x800000
/-- Base of TRIG (R40). -/
def TRIG.base : Nat := 0x900000
/-- Base of HOSTIF (R40). -/
def HOSTIF.base : Nat := 0x1000000
/-- Base of INST (R40). -/
def INST.base : Nat := 0x1100000
/-- Base of RING (R40). -/
def RING.base : Nat := 0x1200000
/-- Base of PARSE (R40). -/
def PARSE.base : Nat := 0x2000000
/-- Base of CLASS (R40). -/
def CLASS.base : Nat := 0x2100000
/-- Base of FLOW (R40). -/
def FLOW.base : Nat := 0x2200000
/-- Base of COMB (R40). -/
def COMB.base : Nat := 0x2300000
/-- Base of SCHED (R40). -/
def SCHED.base : Nat := 0x2400000
/-- Base of BEELINE (R40). -/
def BEELINE.base : Nat := 0x2500000
/-- Base of SCARAB (R40). -/
def SCARAB.base : Nat := 0x2600000
/-- Base of STOR (R40). -/
def STOR.base : Nat := 0x2700000
/-- Base of FORAGER (R40). -/
def FORAGER.base : Nat := 0x2800000
/-- Base of PWR (R40). -/
def PWR.base : Nat := 0x200000
/-- Base of FWC (R40). -/
def FWC.base : Nat := 0x300000
/-- Base of KEEPER (R40). -/
def KEEPER.base : Nat := 0x500000
/-- Base of CHITIN (R40). -/
def CHITIN.base : Nat := 0x400000
/-- Base of PIN (R40). -/
def PIN.base : Nat := 0x100000
/-- Base of DEBUG (R40). -/
def DEBUG.base : Nat := 0x600000
/-- Base of HBMCTL (R40). -/
def HBMCTL.base : Nat := 0x700000

/-- Register tables of UNIT. -/
def regs_UNIT : List RegDesc := [
  ⟨0x0, 0, 1, [⟨15, 0, .ro, 0, some 0⟩, ⟨31, 16, .ro, 0, some 0⟩, ⟨39, 32, .ro, 1, some 1⟩, ⟨47, 40, .ro, 1, some 1⟩]⟩ /- ID -/,
  ⟨0x8, 0, 1, [⟨15, 0, .ro, 0, some 0⟩, ⟨47, 16, .ro, 0, some 0⟩, ⟨55, 48, .ro, 0, some 0⟩, ⟨56, 56, .ro, 0, some 0⟩]⟩ /- TREE -/,
  ⟨0x10, 0, 1, [⟨3, 0, .ro, 0, none⟩, ⟨11, 8, .rw, 0, none⟩, ⟨23, 16, .ro, 0, none⟩, ⟨39, 24, .ro, 0, none⟩]⟩ /- SVC -/,
  ⟨0x18, 0, 1, [⟨0, 0, .w1c, 0, none⟩, ⟨1, 1, .w1c, 0, none⟩, ⟨2, 2, .w1c, 0, none⟩, ⟨3, 3, .w1c, 0, none⟩, ⟨4, 4, .w1c, 0, none⟩, ⟨5, 5, .w1c, 0, none⟩, ⟨6, 6, .w1c, 0, none⟩, ⟨7, 7, .w1c, 0, none⟩, ⟨63, 8, .w1c, 0, none⟩]⟩ /- EVT -/,
  ⟨0x20, 0, 1, [⟨7, 0, .rw, 255, none⟩, ⟨63, 8, .rw, 0, none⟩]⟩ /- EVT_EN -/,
  ⟨0x28, 0, 1, [⟨15, 0, .ro, 0, none⟩, ⟨31, 16, .ro, 0, none⟩, ⟨47, 32, .ro, 0, none⟩, ⟨63, 63, .wo, 0, some 0⟩]⟩ /- FAULT -/,
  ⟨0x30, 0, 1, [⟨7, 0, .ro, 0, some 0⟩, ⟨11, 8, .ro, 0, some 0⟩, ⟨15, 12, .ro, 0, some 0⟩, ⟨47, 16, .ro, 0, none⟩]⟩ /- PWR -/,
  ⟨0x38, 0, 1, [⟨15, 0, .ro, 0, none⟩, ⟨16, 16, .wo, 0, some 0⟩, ⟨17, 17, .wo, 0, some 0⟩, ⟨18, 18, .wo, 0, some 0⟩, ⟨47, 32, .ro, 0, none⟩]⟩ /- CLAIM -/]

/-- Register tables of ROOT. -/
def regs_ROOT : List RegDesc := [
  ⟨0x40, 0, 1, [⟨15, 0, .ro, 0, some 0⟩]⟩ /- WHOAMI -/,
  ⟨0x48, 0, 1, [⟨31, 0, .rc, 0, none⟩]⟩ /- DROPPED_WRITES -/]

/-- Register tables of TAP. -/
def regs_TAP : List RegDesc := [
  ⟨0x100, 0, 1, [⟨7, 0, .rw, 0, none⟩, ⟨11, 8, .rw, 0, none⟩, ⟨47, 16, .rw, 0, none⟩]⟩ /- ADDR -/,
  ⟨0x108, 0, 1, [⟨3, 0, .wo, 0, some 0⟩]⟩ /- CMD -/,
  ⟨0x110, 0, 1, [⟨0, 0, .ro, 0, some 0⟩, ⟨31, 16, .ro, 0, some 0⟩, ⟨47, 32, .ro, 0, some 0⟩]⟩ /- STATUS -/,
  ⟨0x140, 8, 8, [⟨63, 0, .rw, 0, some 0⟩]⟩ /- DATA -/]

/-- Register tables of EDRYN. -/
def regs_EDRYN : List RegDesc := [
  ⟨0x40, 0, 1, [⟨63, 0, .ro, 0, some 0⟩]⟩ /- TIME_NS -/,
  ⟨0x48, 0, 1, [⟨15, 0, .ro, 0, some 0⟩]⟩ /- TIME_FRAC -/,
  ⟨0x50, 0, 1, [⟨39, 0, .rw, 0, some 0⟩]⟩ /- ADJ_FREQ -/,
  ⟨0x58, 0, 1, [⟨47, 0, .rw, 0, some 0⟩, ⟨55, 48, .rw, 100, some 100⟩]⟩ /- ADJ_PHASE -/,
  ⟨0x60, 0, 1, [⟨62, 0, .wo, 0, some 0⟩, ⟨63, 63, .wo, 0, some 0⟩]⟩ /- STEP -/,
  ⟨0x68, 0, 1, [⟨31, 0, .ro, 0, some 0⟩]⟩ /- STEP_COUNT -/,
  ⟨0x70, 0, 1, [⟨3, 0, .rw, 0, some 0⟩, ⟨7, 4, .rw, 0, some 0⟩, ⟨11, 8, .rw, 0, some 0⟩, ⟨15, 12, .rw, 0, some 0⟩, ⟨16, 16, .ro, 0, some 0⟩, ⟨17, 17, .ro, 1, some 1⟩]⟩ /- SRC -/,
  ⟨0x78, 0, 1, [⟨0, 0, .rw, 0, some 0⟩, ⟨1, 1, .rw, 0, some 0⟩, ⟨2, 2, .wo, 0, some 0⟩, ⟨31, 16, .rw, 2000, some 2000⟩]⟩ /- SERVO_CTL -/,
  ⟨0x80, 0, 1, [⟨2, 0, .ro, 4, some 4⟩, ⟨5, 3, .ro, 4, some 4⟩, ⟨63, 32, .ro, 0, some 0⟩]⟩ /- TRACE -/,
  ⟨0x88, 0, 1, [⟨31, 0, .rw, 4294967295, some 4294967295⟩]⟩ /- BOUND -/,
  ⟨0x90, 0, 1, [⟨31, 0, .rw, 10000, some 10000⟩, ⟨63, 32, .rw, 1800, some 1800⟩]⟩ /- HOLD_COEF -/,
  ⟨0x98, 0, 1, [⟨31, 0, .rw, 10000, some 10000⟩]⟩ /- HOLD_LIMIT -/,
  ⟨0xa0, 0, 1, [⟨63, 0, .rw, 0, some 0⟩]⟩ /- OFFSET -/,
  ⟨0xa8, 0, 1, [⟨63, 0, .rw, 0, some 0⟩]⟩ /- PATH_DELAY -/,
  ⟨0xb0, 0, 1, [⟨15, 0, .rw, 0, some 0⟩, ⟨17, 16, .rw, 0, some 0⟩, ⟨55, 24, .rw, 0, some 0⟩]⟩ /- UTC -/,
  ⟨0xb8, 0, 1, [⟨63, 0, .rw, 0, some 0⟩]⟩ /- GM_ID -/,
  ⟨0xc0, 0, 1, [⟨15, 0, .rw, 0, some 0⟩, ⟨23, 16, .rw, 248, some 248⟩, ⟨31, 24, .rw, 254, some 254⟩, ⟨39, 32, .rw, 0, some 0⟩, ⟨47, 40, .rw, 0, some 0⟩]⟩ /- GM_INFO -/,
  ⟨0xc8, 0, 1, [⟨63, 0, .ro, 0, some 0⟩]⟩ /- PPS_CAP0 -/,
  ⟨0xd0, 0, 1, [⟨63, 0, .ro, 0, some 0⟩]⟩ /- PPS_CAP1 -/,
  ⟨0xd8, 0, 1, [⟨15, 0, .ro, 0, some 0⟩, ⟨31, 16, .ro, 0, some 0⟩, ⟨32, 32, .rc, 0, some 0⟩, ⟨33, 33, .rc, 0, some 0⟩]⟩ /- PPS_AUX -/,
  ⟨0xe0, 0, 1, [⟨31, 0, .rw, 0, some 0⟩, ⟨63, 32, .rw, 0, some 0⟩]⟩ /- PPS_DELAY -/,
  ⟨0xe8, 0, 1, [⟨0, 0, .rw, 0, some 0⟩, ⟨1, 1, .rw, 0, some 0⟩, ⟨3, 2, .rw, 1, some 1⟩, ⟨5, 4, .rw, 0, some 0⟩]⟩ /- TOD_CTL -/,
  ⟨0xf0, 0, 1, [⟨15, 0, .ro, 0, some 0⟩, ⟨31, 16, .ro, 0, some 0⟩, ⟨39, 32, .ro, 0, some 0⟩, ⟨40, 40, .ro, 0, some 0⟩]⟩ /- TOD_STAT -/,
  ⟨0xf8, 0, 1, [⟨39, 0, .ro, 0, some 0⟩]⟩ /- FREQ_MEAS -/,
  ⟨0x180, 0, 1, [⟨7, 0, .rw, 10, some 10⟩]⟩ /- PTM_CTL -/,
  ⟨0x188, 0, 1, [⟨2, 0, .rw, 0, some 0⟩, ⟨5, 4, .rw, 0, some 0⟩, ⟨6, 6, .rw, 1, some 1⟩, ⟨18, 16, .rw, 0, some 0⟩, ⟨21, 20, .rw, 0, some 0⟩, ⟨22, 22, .rw, 1, some 1⟩]⟩ /- RCLK_CTL -/,
  ⟨0x200, 32, 4, [⟨2, 0, .rw, 0, some 0⟩, ⟨3, 3, .rw, 0, some 0⟩, ⟨4, 4, .rw, 0, some 0⟩]⟩ /- FF_CTL -/,
  ⟨0x208, 32, 4, [⟨47, 0, .rw, 0, some 0⟩]⟩ /- FF_PERIOD -/,
  ⟨0x210, 32, 4, [⟨47, 0, .rw, 0, some 0⟩]⟩ /- FF_PHASE -/,
  ⟨0x218, 32, 4, [⟨31, 0, .rw, 0, some 0⟩]⟩ /- FF_WIDTH -/]

/-- Register tables of TRIG. -/
def regs_TRIG : List RegDesc := [
  ⟨0x1000, 64, 256, [⟨0, 0, .rw, 0, some 0⟩, ⟨1, 1, .rw, 0, some 0⟩, ⟨15, 8, .rw, 0, some 0⟩, ⟨31, 16, .ro, 0, some 0⟩, ⟨47, 32, .ro, 0, some 0⟩]⟩ /- CTL -/,
  ⟨0x1008, 64, 256, [⟨63, 0, .rw, 0, some 0⟩]⟩ /- TIME -/,
  ⟨0x1010, 64, 256, [⟨47, 0, .rw, 0, some 0⟩]⟩ /- PERIOD -/,
  ⟨0x1018, 64, 256, [⟨63, 0, .rw, 0, some 0⟩]⟩ /- ARG -/,
  ⟨0x1020, 64, 256, [⟨63, 0, .ro, 0, some 0⟩]⟩ /- LAST -/,
  ⟨0x1028, 64, 256, [⟨15, 0, .ro, 0, some 0⟩, ⟨16, 16, .ro, 0, some 0⟩, ⟨17, 17, .ro, 0, some 0⟩, ⟨18, 18, .ro, 0, some 0⟩, ⟨47, 32, .ro, 0, some 0⟩, ⟨63, 48, .ro, 0, some 0⟩]⟩ /- LAST_INFO -/,
  ⟨0x1030, 64, 256, [⟨15, 0, .ro, 0, none⟩, ⟨16, 16, .wo, 0, some 0⟩, ⟨17, 17, .wo, 0, some 0⟩, ⟨18, 18, .wo, 0, some 0⟩, ⟨47, 32, .ro, 0, none⟩]⟩ /- CLAIM -/,
  ⟨0x40, 8, 4, [⟨63, 0, .w1c, 0, some 0⟩]⟩ /- PEND -/]

/-- Register tables of HOSTIF. -/
def regs_HOSTIF : List RegDesc := [
  ⟨0x40, 0, 1, [⟨3, 0, .wo, 0, some 0⟩, ⟨11, 8, .ro, 0, none⟩]⟩ /- SEAL_RELEASE -/]

/-- Register tables of HOSTLINK. -/
def regs_HOSTLINK : List RegDesc := [
  ⟨0x40, 0, 1, [⟨3, 0, .ro, 0, some 0⟩, ⟨8, 4, .ro, 0, some 0⟩, ⟨9, 9, .ro, 0, some 0⟩, ⟨10, 10, .ro, 0, some 0⟩, ⟨11, 11, .ro, 0, some 0⟩, ⟨12, 12, .ro, 0, some 0⟩, ⟨13, 13, .ro, 0, some 0⟩, ⟨14, 14, .ro, 1, some 1⟩, ⟨15, 15, .ro, 0, some 0⟩, ⟨31, 16, .ro, 0, none⟩]⟩ /- LINK_STAT -/,
  ⟨0x48, 0, 1, [⟨6, 0, .rw, 50, none⟩, ⟨8, 8, .rw, 0, none⟩]⟩ /- CPL_TO -/,
  ⟨0x50, 0, 1, [⟨9, 0, .ro, 0, some 0⟩, ⟨25, 16, .ro, 0, some 0⟩, ⟨63, 32, .rc, 0, none⟩]⟩ /- TAG_STAT -/,
  ⟨0x58, 0, 1, [⟨31, 0, .rc, 0, none⟩, ⟨41, 32, .ro, 0, none⟩, ⟨42, 42, .ro, 0, none⟩]⟩ /- UNEXP_CPL -/,
  ⟨0x60, 0, 1, [⟨0, 0, .ro, 0, none⟩, ⟨3, 1, .ro, 0, none⟩, ⟨15, 8, .ro, 0, none⟩]⟩ /- SEAL -/,
  ⟨0x68, 0, 1, [⟨63, 0, .ro, 0, none⟩]⟩ /- SEAL_TIME -/,
  ⟨0x70, 0, 1, [⟨47, 0, .rc, 0, none⟩]⟩ /- SEALED_DISCARD -/,
  ⟨0x78, 0, 1, [⟨10, 0, .rw, 0, none⟩, ⟨12, 12, .rw, 0, none⟩, ⟨13, 13, .wo, 0, some 0⟩]⟩ /- DEV_EVT -/,
  ⟨0x80, 0, 1, [⟨0, 0, .wo, 0, some 0⟩, ⟨15, 8, .ro, 0, none⟩, ⟨21, 16, .ro, 0, none⟩]⟩ /- PEERWIN_COMMIT -/,
  ⟨0x88, 0, 1, [⟨31, 0, .ro, 0, none⟩]⟩ /- PEERWIN_EPOCH -/,
  ⟨0x90, 0, 1, [⟨31, 0, .rc, 0, none⟩, ⟨47, 32, .ro, 0, none⟩, ⟨48, 48, .ro, 0, none⟩]⟩ /- PW_MISS -/,
  ⟨0x98, 0, 1, [⟨29, 0, .ro, 0, none⟩]⟩ /- PW_MISS_ADDR -/,
  ⟨0x400, 32, 64, [⟨0, 0, .rw, 0, none⟩, ⟨1, 1, .rw, 0, none⟩, ⟨2, 2, .rw, 0, none⟩, ⟨29, 16, .rw, 0, none⟩, ⟨36, 32, .rw, 16, none⟩]⟩ /- PW_BASE -/,
  ⟨0x408, 32, 64, [⟨1, 0, .rw, 0, none⟩, ⟨7, 4, .rw, 0, none⟩, ⟨15, 8, .rw, 0, none⟩, ⟨42, 32, .rw, 0, none⟩]⟩ /- PW_TGT -/,
  ⟨0x410, 32, 64, [⟨15, 0, .rw, 0, none⟩, ⟨31, 16, .rw, 0, none⟩]⟩ /- PW_REQ -/,
  ⟨0x1000, 32, 64, [⟨0, 0, .ro, 0, none⟩, ⟨1, 1, .ro, 0, none⟩, ⟨2, 2, .ro, 0, none⟩, ⟨29, 16, .ro, 0, none⟩, ⟨36, 32, .ro, 16, none⟩]⟩ /- PWA_BASE -/,
  ⟨0x1008, 32, 64, [⟨1, 0, .ro, 0, none⟩, ⟨7, 4, .ro, 0, none⟩, ⟨15, 8, .ro, 0, none⟩, ⟨42, 32, .ro, 0, none⟩]⟩ /- PWA_TGT -/,
  ⟨0x1010, 32, 64, [⟨15, 0, .ro, 0, none⟩, ⟨31, 16, .ro, 0, none⟩]⟩ /- PWA_REQ -/]

/-- Register tables of IPAGE. -/
def regs_IPAGE : List RegDesc := [
  ⟨0xe000, 0, 1, [⟨63, 0, .ro, 0, some 0⟩]⟩ /- ORDER_PROBE -/,
  ⟨0xe008, 0, 1, [⟨3, 0, .wo, 0, some 0⟩, ⟨4, 4, .wo, 0, some 0⟩, ⟨27, 16, .wo, 0, some 0⟩]⟩ /- ICMD -/,
  ⟨0xe010, 0, 1, [⟨0, 0, .rw, 0, some 0⟩, ⟨27, 16, .rw, 0, some 0⟩]⟩ /- ISEL -/,
  ⟨0xe018, 0, 1, [⟨7, 0, .ro, 0, some 0⟩, ⟨15, 8, .ro, 0, some 0⟩, ⟨31, 16, .ro, 0, some 0⟩, ⟨63, 32, .ro, 0, some 0⟩]⟩ /- ISTATE -/,
  ⟨0xe020, 0, 1, [⟨31, 0, .ro, 0, some 0⟩, ⟨63, 32, .ro, 0, some 0⟩]⟩ /- IIDX -/,
  ⟨0xe028, 0, 1, [⟨31, 0, .ro, 0, some 0⟩, ⟨63, 32, .ro, 0, some 0⟩]⟩ /- IIDX2 -/]

/-- Register tables of INST. -/
def regs_INST : List RegDesc := [
  ⟨0x40, 0, 1, [⟨3, 0, .wo, 0, some 0⟩, ⟨5, 4, .wo, 0, some 0⟩, ⟨26, 16, .wo, 0, some 0⟩, ⟨63, 32, .wo, 0, some 0⟩]⟩ /- CMD -/,
  ⟨0x48, 0, 1, [⟨10, 0, .ro, 0, none⟩, ⟨31, 16, .ro, 0, none⟩, ⟨47, 32, .ro, 0, none⟩]⟩ /- CMD_REFUSED -/,
  ⟨0x50, 0, 1, [⟨31, 0, .ro, 131072, none⟩, ⟨63, 32, .ro, 131072, none⟩]⟩ /- POOL_WQ -/,
  ⟨0x58, 0, 1, [⟨31, 0, .ro, 65536, none⟩, ⟨63, 32, .ro, 65536, none⟩]⟩ /- POOL_CR -/,
  ⟨0x60, 0, 1, [⟨31, 0, .ro, 16384, none⟩, ⟨63, 32, .ro, 16384, none⟩]⟩ /- POOL_INT -/,
  ⟨0x68, 0, 1, [⟨31, 0, .ro, 65536, none⟩, ⟨63, 32, .ro, 65536, none⟩]⟩ /- POOL_LEAF -/,
  ⟨0x70, 0, 1, [⟨15, 0, .ro, 0, some 0⟩, ⟨63, 32, .rc, 0, none⟩]⟩ /- ATC_STAT -/,
  ⟨0x78, 0, 1, [⟨10, 0, .ro, 0, none⟩, ⟨17, 16, .ro, 0, none⟩, ⟨18, 18, .ro, 0, none⟩, ⟨39, 20, .ro, 0, none⟩, ⟨63, 48, .rc, 0, none⟩]⟩ /- XFAULT_INFO -/,
  ⟨0x80, 0, 1, [⟨63, 12, .ro, 0, none⟩]⟩ /- XFAULT_ADDR -/,
  ⟨0x200, 8, 32, [⟨63, 0, .w1c, 0, none⟩]⟩ /- DONE -/,
  ⟨0x8000, 8, 2048, [⟨1, 0, .ro, 0, none⟩, ⟨4, 2, .ro, 0, none⟩, ⟨5, 5, .ro, 0, none⟩, ⟨31, 16, .ro, 0, none⟩, ⟨47, 32, .ro, 0, none⟩]⟩ /- CMD_STATUS -/]

/-- Register tables of RING. -/
def regs_RING : List RegDesc := [
  ⟨0x40, 0, 1, [⟨3, 0, .wo, 0, some 0⟩, ⟨4, 4, .wo, 0, some 0⟩, ⟨24, 8, .wo, 0, some 0⟩]⟩ /- CMD -/,
  ⟨0x48, 0, 1, [⟨15, 0, .ro, 0, none⟩, ⟨16, 16, .ro, 0, none⟩, ⟨33, 17, .ro, 0, none⟩, ⟨49, 34, .ro, 0, none⟩]⟩ /- CMD_STATUS -/,
  ⟨0x50, 0, 1, [⟨16, 0, .ro, 0, none⟩, ⟨31, 24, .ro, 0, none⟩, ⟨63, 32, .ro, 0, none⟩]⟩ /- ERR_LOG -/,
  ⟨0x58, 0, 1, [⟨31, 0, .rc, 0, none⟩]⟩ /- INT_INVALID -/]

/-- Register tables of PARSE. -/
def regs_PARSE : List RegDesc := [
  ⟨0x40, 0, 1, [⟨7, 0, .ro, 0, none⟩, ⟨8, 8, .ro, 0, none⟩]⟩ /- CFG_STAT -/,
  ⟨0x80, 8, 10, [⟨31, 0, .rc, 0, none⟩, ⟨63, 32, .rc, 0, none⟩]⟩ /- DROP -/,
  ⟨0xe0, 0, 1, [⟨1, 0, .ro, 0, none⟩, ⟨3, 2, .ro, 0, none⟩, ⟨7, 4, .ro, 0, none⟩, ⟨15, 8, .ro, 0, none⟩, ⟨25, 16, .ro, 0, none⟩, ⟨26, 26, .ro, 0, none⟩, ⟨39, 32, .ro, 0, none⟩]⟩ /- LAST_EXC -/,
  ⟨0xe8, 0, 1, [⟨63, 0, .ro, 0, none⟩]⟩ /- LAST_EXC_NS -/]

/-- Register tables of CLASS. -/
def regs_CLASS : List RegDesc := [
  ⟨0x40, 0, 1, [⟨7, 0, .ro, 0, none⟩, ⟨15, 8, .ro, 0, none⟩, ⟨18, 16, .ro, 1, none⟩]⟩ /- VER -/,
  ⟨0x48, 0, 1, [⟨63, 0, .ro, 0, none⟩]⟩ /- SEQ -/,
  ⟨0x50, 0, 1, [⟨7, 0, .wo, 0, some 0⟩]⟩ /- COMMIT -/,
  ⟨0x58, 0, 1, [⟨15, 0, .ro, 0, none⟩, ⟨23, 16, .ro, 0, none⟩, ⟨24, 24, .ro, 0, none⟩, ⟨47, 32, .ro, 0, none⟩]⟩ /- COMMIT_STAT -/,
  ⟨0x60, 0, 1, [⟨63, 0, .ro, 0, none⟩]⟩ /- COMMIT_NS -/,
  ⟨0x80, 8, 4, [⟨31, 0, .ro, 0, none⟩, ⟨39, 32, .ro, 0, none⟩]⟩ /- VCOUNT -/,
  ⟨0xa0, 0, 1, [⟨16, 0, .ro, 0, none⟩, ⟨48, 32, .ro, 0, none⟩]⟩ /- RULE_CNT -/,
  ⟨0xa8, 0, 1, [⟨16, 0, .ro, 0, none⟩, ⟨48, 32, .ro, 65536, none⟩]⟩ /- RULE_CNT2 -/,
  ⟨0xb0, 0, 1, [⟨47, 0, .rc, 0, none⟩]⟩ /- DROPPED -/,
  ⟨0xb8, 0, 1, [⟨47, 0, .rc, 0, none⟩]⟩ /- NOMATCH -/]

/-- Register tables of FLOW. -/
def regs_FLOW : List RegDesc := [
  ⟨0x40, 0, 1, [⟨31, 0, .rw, 4294967295, none⟩]⟩ /- HASH_SEED -/,
  ⟨0x48, 0, 1, [⟨21, 0, .ro, 0, none⟩, ⟨47, 32, .ro, 0, none⟩, ⟨50, 48, .ro, 0, none⟩]⟩ /- INS_STAT -/,
  ⟨0x50, 0, 1, [⟨22, 0, .ro, 0, none⟩, ⟨54, 32, .ro, 0, none⟩]⟩ /- COUNT -/,
  ⟨0x58, 0, 1, [⟨31, 0, .rc, 0, none⟩, ⟨63, 32, .rc, 0, none⟩]⟩ /- LOOKUP -/,
  ⟨0x60, 0, 1, [⟨31, 0, .rc, 0, none⟩, ⟨63, 32, .rc, 0, none⟩]⟩ /- CACHE -/,
  ⟨0x68, 0, 1, [⟨31, 0, .rc, 0, none⟩, ⟨63, 32, .rc, 0, none⟩]⟩ /- LEARN -/,
  ⟨0x70, 0, 1, [⟨15, 0, .rw, 1000, none⟩, ⟨63, 32, .rc, 0, none⟩]⟩ /- AGE -/,
  ⟨0x78, 0, 1, [⟨31, 0, .rc, 0, none⟩, ⟨63, 32, .rc, 0, none⟩]⟩ /- DROPS -/,
  ⟨0x80, 0, 1, [⟨31, 0, .rc, 0, none⟩, ⟨63, 32, .rc, 0, none⟩]⟩ /- PUNTS -/,
  ⟨0x88, 0, 1, [⟨7, 0, .ro, 0, none⟩, ⟨12, 8, .ro, 0, none⟩, ⟨47, 16, .ro, 0, none⟩]⟩ /- LAST_FAULT -/]

/-- Register tables of COMB. -/
def regs_COMB : List RegDesc := [
  ⟨0x40, 0, 1, [⟨18, 0, .ro, 393216, none⟩, ⟨50, 32, .ro, 393216, none⟩]⟩ /- POOL -/,
  ⟨0x48, 0, 1, [⟨18, 0, .rw, 0, none⟩, ⟨50, 32, .ro, 0, none⟩]⟩ /- BEELINE_RSV -/,
  ⟨0x50, 0, 1, [⟨18, 0, .rw, 4096, none⟩, ⟨50, 32, .rw, 8192, none⟩]⟩ /- SHARED_XOFF -/,
  ⟨0x58, 0, 1, [⟨31, 0, .rc, 0, none⟩, ⟨34, 32, .ro, 0, none⟩, ⟨37, 35, .ro, 0, none⟩]⟩ /- NO_CELL -/,
  ⟨0x60, 0, 1, [⟨10, 0, .ro, 0, none⟩, ⟨22, 16, .ro, 0, none⟩]⟩ /- STUCK -/,
  ⟨0x68, 0, 1, [⟨7, 0, .rw, 50, none⟩, ⟨15, 8, .rw, 90, none⟩]⟩ /- INST_ECN -/,
  ⟨0x70, 0, 1, [⟨63, 0, .ro, 0, some 0⟩]⟩ /- XOFF_STATE -/,
  ⟨0x78, 0, 1, [⟨15, 0, .rw, 100, none⟩, ⟨18, 16, .ro, 0, none⟩, ⟨21, 19, .ro, 0, none⟩]⟩ /- WATCHDOG -/,
  ⟨0x80, 0, 1, [⟨18, 0, .rw, 8192, none⟩]⟩ /- HIVE_LIMIT -/,
  ⟨0x88, 0, 1, [⟨47, 0, .rc, 0, none⟩]⟩ /- COPY_SKIPPED -/,
  ⟨0x90, 0, 1, [⟨47, 0, .rc, 0, none⟩]⟩ /- SWARM_SKIP -/,
  ⟨0x98, 0, 1, [⟨47, 0, .rc, 0, none⟩]⟩ /- DEST_SKIP -/,
  ⟨0x200, 8, 16, [⟨15, 0, .ro, 0, none⟩, ⟨16, 16, .wo, 0, some 0⟩, ⟨17, 17, .wo, 0, some 0⟩, ⟨18, 18, .wo, 0, some 0⟩, ⟨47, 32, .ro, 0, none⟩]⟩ /- RSV_CLAIM -/]

/-- Register tables of SCHED. -/
def regs_SCHED : List RegDesc := [
  ⟨0x40, 0, 1, [⟨47, 0, .rc, 0, none⟩]⟩ /- LEAF_REDIRECT -/,
  ⟨0x48, 0, 1, [⟨31, 0, .rc, 0, none⟩, ⟨63, 32, .rc, 0, none⟩]⟩ /- TELE_STAT -/]

/-- Register tables of BEELINE. -/
def regs_BEELINE : List RegDesc := [
  ⟨0x40, 0, 1, [⟨18, 0, .ro, 0, none⟩, ⟨50, 32, .rc, 0, none⟩]⟩ /- PENDING -/,
  ⟨0x48, 0, 1, [⟨15, 0, .ro, 400, some 400⟩]⟩ /- LEAD -/,
  ⟨0x50, 0, 1, [⟨31, 0, .rc, 0, none⟩, ⟨63, 32, .rc, 0, none⟩]⟩ /- LATE -/,
  ⟨0x58, 0, 1, [⟨31, 0, .rc, 0, none⟩]⟩ /- FAR -/,
  ⟨0x60, 0, 1, [⟨16, 0, .ro, 0, none⟩, ⟨19, 17, .ro, 0, none⟩, ⟨22, 20, .ro, 0, none⟩, ⟨23, 23, .ro, 0, none⟩, ⟨63, 32, .ro, 0, none⟩]⟩ /- LAST_LATE -/,
  ⟨0x100, 8, 8, [⟨0, 0, .rw, 0, none⟩, ⟨1, 1, .ro, 0, some 0⟩, ⟨15, 8, .ro, 0, some 0⟩]⟩ /- PORT_CTL -/]

/-- Register tables of SCARAB. -/
def regs_SCARAB : List RegDesc := [
  ⟨0x40, 0, 1, [⟨0, 0, .ro, 0, none⟩, ⟨3, 1, .ro, 0, none⟩, ⟨31, 16, .ro, 0, none⟩, ⟨63, 32, .ro, 0, none⟩]⟩ /- STATE -/,
  ⟨0x48, 0, 1, [⟨63, 0, .ro, 0, none⟩]⟩ /- ALARM_NS -/,
  ⟨0x50, 0, 1, [⟨19, 0, .w1c, 0, none⟩]⟩ /- PAIR_FAULT -/,
  ⟨0x58, 0, 1, [⟨31, 0, .rc, 0, none⟩, ⟨36, 32, .ro, 0, none⟩]⟩ /- MISMATCH -/,
  ⟨0x60, 0, 1, [⟨0, 0, .wo, 0, some 0⟩, ⟨1, 1, .wo, 0, some 0⟩, ⟨2, 2, .wo, 0, some 0⟩]⟩ /- PROG_CTL -/,
  ⟨0x68, 0, 1, [⟨7, 0, .ro, 0, none⟩, ⟨9, 9, .ro, 0, none⟩, ⟨14, 10, .ro, 0, none⟩, ⟨31, 16, .ro, 0, none⟩, ⟨47, 32, .ro, 0, none⟩]⟩ /- PROG_STAT -/,
  ⟨0x70, 0, 1, [⟨19, 0, .rw, 0, none⟩]⟩ /- SLOT_SEL -/,
  ⟨0x78, 0, 1, [⟨2, 0, .ro, 0, some 0⟩, ⟨3, 3, .ro, 0, some 0⟩, ⟨5, 4, .ro, 0, some 0⟩, ⟨15, 8, .wo, 0, some 0⟩, ⟨47, 16, .ro, 0, some 0⟩]⟩ /- SLOT_CTL -/,
  ⟨0x80, 0, 1, [⟨31, 0, .ro, 0, some 0⟩, ⟨63, 32, .ro, 0, some 0⟩]⟩ /- SLOT_USES -/,
  ⟨0x88, 0, 1, [⟨35, 0, .rw, 0, none⟩]⟩ /- REPLAY_BASE -/,
  ⟨0x90, 0, 1, [⟨21, 0, .rw, 0, none⟩, ⟨43, 24, .rw, 0, none⟩, ⟨44, 44, .rw, 0, none⟩, ⟨48, 45, .rw, 0, none⟩, ⟨63, 63, .wo, 0, some 0⟩]⟩ /- TLS_SYNC_A -/,
  ⟨0x98, 0, 1, [⟨31, 0, .rw, 0, none⟩, ⟨47, 32, .ro, 0, none⟩]⟩ /- TLS_SYNC_B -/,
  ⟨0xa0, 0, 1, [⟨63, 0, .rw, 0, none⟩]⟩ /- TLS_SYNC_C -/,
  ⟨0xa8, 0, 1, [⟨31, 0, .rc, 0, none⟩, ⟨63, 32, .rc, 0, none⟩]⟩ /- INLINE_FAIL0 -/,
  ⟨0xb0, 0, 1, [⟨31, 0, .rc, 0, none⟩, ⟨63, 32, .rc, 0, none⟩]⟩ /- INLINE_FAIL1 -/,
  ⟨0xb8, 0, 1, [⟨19, 0, .ro, 0, none⟩, ⟨51, 32, .ro, 0, none⟩]⟩ /- LIMIT_LOG -/]

/-- Register tables of STOR. -/
def regs_STOR : List RegDesc := [
  ⟨0x40, 0, 1, [⟨15, 0, .ro, 0, some 0⟩, ⟨49, 32, .ro, 0, some 0⟩]⟩ /- INFLIGHT -/,
  ⟨0x48, 0, 1, [⟨0, 0, .wo, 0, some 0⟩, ⟨1, 1, .ro, 1, some 1⟩]⟩ /- MAP_FENCE -/,
  ⟨0x50, 0, 1, [⟨31, 0, .rc, 0, none⟩, ⟨35, 32, .ro, 0, none⟩, ⟨47, 36, .ro, 0, none⟩, ⟨60, 48, .ro, 0, none⟩]⟩ /- PART_FAIL -/,
  ⟨0x58, 0, 1, [⟨31, 0, .rc, 0, none⟩]⟩ /- TIMEOUTS -/]

/-- Register tables of FORAGER. -/
def regs_FORAGER : List RegDesc := [
  ⟨0x40, 8, 8, [⟨0, 0, .rw, 0, none⟩, ⟨1, 1, .rw, 0, none⟩, ⟨2, 2, .ro, 0, none⟩]⟩ /- GRP_CTL -/,
  ⟨0x80, 8, 8, [⟨15, 0, .ro, 0, none⟩, ⟨16, 16, .wo, 0, some 0⟩, ⟨17, 17, .wo, 0, some 0⟩, ⟨18, 18, .wo, 0, some 0⟩, ⟨47, 32, .ro, 0, none⟩]⟩ /- GRP_CLAIM -/,
  ⟨0x1000, 16, 512, [⟨31, 0, .wo, 0, some 0⟩]⟩ /- CH_DB -/,
  ⟨0x1008, 16, 512, [⟨3, 0, .wo, 0, some 0⟩, ⟨11, 8, .ro, 0, none⟩, ⟨27, 12, .ro, 0, none⟩]⟩ /- CH_CTL -/]

/-- Register tables of HIVE. -/
def regs_HIVE : List RegDesc := [
  ⟨0x40, 0, 1, [⟨0, 0, .rw, 0, none⟩, ⟨11, 8, .rw, 0, none⟩]⟩ /- CFG -/,
  ⟨0x48, 0, 1, [⟨14, 0, .rw, 0, none⟩, ⟨19, 16, .rw, 0, none⟩, ⟨46, 32, .rw, 0, none⟩, ⟨51, 48, .rw, 0, none⟩]⟩ /- RING_CFG -/,
  ⟨0x50, 0, 1, [⟨31, 0, .ro, 0, none⟩, ⟨63, 32, .rw, 0, none⟩]⟩ /- INTAKE_IDX -/,
  ⟨0x58, 0, 1, [⟨31, 0, .ro, 0, none⟩, ⟨63, 32, .rw, 0, none⟩]⟩ /- TXTS_IDX -/,
  ⟨0x60, 0, 1, [⟨31, 0, .ro, 0, none⟩, ⟨47, 32, .rc, 0, none⟩, ⟨63, 48, .rc, 0, none⟩]⟩ /- HELD -/,
  ⟨0x68, 0, 1, [⟨31, 0, .rc, 0, none⟩, ⟨32, 32, .ro, 0, some 0⟩]⟩ /- STALL -/,
  ⟨0x70, 0, 1, [⟨0, 0, .w1c, 0, none⟩, ⟨13, 8, .ro, 0, none⟩, ⟨23, 16, .ro, 0, none⟩, ⟨24, 24, .ro, 0, none⟩, ⟨63, 32, .ro, 0, none⟩]⟩ /- FAULT_LOG -/,
  ⟨0x78, 0, 1, [⟨63, 0, .ro, 0, none⟩]⟩ /- FAULT_PC -/,
  ⟨0x80, 0, 1, [⟨63, 0, .ro, 0, none⟩]⟩ /- FAULT_ADDR -/,
  ⟨0x88, 0, 1, [⟨0, 0, .wo, 0, some 0⟩, ⟨1, 1, .ro, 0, none⟩, ⟨31, 16, .rw, 100, none⟩]⟩ /- MIGRATE -/,
  ⟨0x90, 0, 1, [⟨63, 0, .rwc, 0, none⟩]⟩ /- SECURE -/,
  ⟨0x98, 0, 1, [⟨7, 0, .rwc, 0, none⟩]⟩ /- SECURE_REGION -/,
  ⟨0xa0, 0, 1, [⟨5, 0, .wo, 0, some 0⟩, ⟨11, 8, .wo, 0, some 0⟩, ⟨34, 16, .wo, 0, some 0⟩, ⟨63, 48, .ro, 0, none⟩]⟩ /- THREAD_CTL -/,
  ⟨0xa8, 0, 1, [⟨47, 0, .rc, 0, none⟩]⟩ /- RELEASED -/,
  ⟨0x200, 8, 64, [⟨3, 0, .ro, 0, some 0⟩, ⟨15, 8, .ro, 0, some 0⟩, ⟨31, 16, .ro, 0, some 0⟩, ⟨47, 32, .ro, 0, some 0⟩, ⟨48, 48, .ro, 0, none⟩, ⟨49, 49, .ro, 0, some 0⟩]⟩ /- THREAD_STATE -/]

/-- Register tables of CH. -/
def regs_CH : List RegDesc := [
  ⟨0x0, 0, 1, [⟨63, 0, .rw, 0, none⟩]⟩ /- REQ_AB -/,
  ⟨0x8, 0, 1, [⟨63, 0, .rw, 0, none⟩]⟩ /- REP_BA -/,
  ⟨0x10, 0, 1, [⟨63, 0, .rw, 0, none⟩]⟩ /- REQ_BA -/,
  ⟨0x18, 0, 1, [⟨63, 0, .rw, 0, none⟩]⟩ /- REP_AB -/,
  ⟨0x20, 0, 1, [⟨3, 0, .ro, 0, none⟩, ⟨7, 4, .w1c, 0, none⟩, ⟨11, 8, .w1c, 0, none⟩, ⟨12, 12, .w1s, 0, none⟩, ⟨13, 13, .w1s, 0, none⟩, ⟨14, 14, .w1c, 0, none⟩]⟩ /- STAT -/,
  ⟨0x28, 0, 1, [⟨15, 0, .rw, 0, none⟩, ⟨31, 16, .rw, 0, none⟩, ⟨41, 32, .rw, 0, none⟩, ⟨52, 42, .rw, 0, none⟩, ⟨53, 53, .rw, 0, none⟩, ⟨54, 54, .rw, 0, none⟩, ⟨55, 55, .rwc, 0, none⟩]⟩ /- CFG -/]

/-- Register tables of WAGGLE. -/
def regs_WAGGLE : List RegDesc := [
  ⟨0x2000, 16, 1024, [⟨63, 0, .rw, 0, none⟩, ⟨10, 0, .rw, 0, none⟩, ⟨13, 12, .rw, 0, none⟩, ⟨14, 14, .rw, 0, none⟩]⟩ /- DB_CFG -/,
  ⟨0x2008, 16, 1024, [⟨0, 0, .wo, 0, some 0⟩]⟩ /- DB_RING -/,
  ⟨0x1000, 8, 256, [⟨15, 0, .ro, 0, none⟩, ⟨63, 63, .wo, 0, some 0⟩]⟩ /- LOCK -/,
  ⟨0x40, 0, 1, [⟨15, 0, .rw, 1000, none⟩]⟩ /- CFG -/,
  ⟨0x48, 0, 1, [⟨15, 0, .ro, 0, none⟩, ⟨18, 16, .ro, 0, none⟩, ⟨19, 19, .ro, 0, none⟩, ⟨39, 20, .ro, 0, none⟩, ⟨55, 40, .rc, 0, none⟩]⟩ /- ERR_LOG -/]

/-- Register tables of PWR. -/
def regs_PWR : List RegDesc := [
  ⟨0x40, 0, 1, [⟨7, 0, .wo, 0, some 0⟩, ⟨11, 8, .wo, 0, some 0⟩, ⟨16, 12, .wo, 0, some 0⟩]⟩ /- VOTE -/,
  ⟨0x48, 0, 1, [⟨15, 0, .wo, 0, some 0⟩, ⟨31, 16, .ro, 0, some 0⟩]⟩ /- OFF -/,
  ⟨0x50, 0, 1, [⟨7, 0, .ro, 0, some 0⟩, ⟨10, 8, .ro, 0, some 0⟩, ⟨13, 12, .ro, 0, some 0⟩, ⟨31, 16, .ro, 0, some 0⟩]⟩ /- WAKE_LOG -/,
  ⟨0x58, 0, 1, [⟨63, 0, .ro, 0, some 0⟩]⟩ /- WAKE_LOG_NS -/,
  ⟨0x60, 0, 1, [⟨0, 0, .rw, 0, some 0⟩, ⟨1, 1, .ro, 0, some 0⟩, ⟨5, 2, .ro, 0, some 0⟩]⟩ /- HOST_WAKE -/,
  ⟨0x200, 16, 26, [⟨0, 0, .rw, 0, some 0⟩, ⟨1, 1, .wo, 0, some 0⟩]⟩ /- DOM_CTL -/,
  ⟨0x208, 16, 26, [⟨3, 0, .ro, 0, some 0⟩, ⟨7, 4, .ro, 0, some 0⟩, ⟨10, 8, .ro, 0, some 0⟩, ⟨15, 12, .ro, 8, some 8⟩, ⟨47, 16, .ro, 0, some 0⟩]⟩ /- DOM_STAT -/]

/-- Register tables of FWC. -/
def regs_FWC : List RegDesc := [
  ⟨0x40, 16, 8, [⟨31, 0, .rw, 0, none⟩, ⟨47, 32, .rw, 0, none⟩, ⟨48, 48, .rw, 0, none⟩, ⟨49, 49, .rw, 1, none⟩]⟩ /- SRC -/,
  ⟨0x48, 16, 8, [⟨31, 0, .rc, 0, none⟩, ⟨47, 32, .rc, 0, none⟩, ⟨48, 48, .ro, 0, none⟩]⟩ /- SRC_STAT -/,
  ⟨0x180, 0, 1, [⟨7, 0, .w1c, 0, none⟩, ⟨8, 8, .ro, 0, some 0⟩]⟩ /- ALERT -/,
  ⟨0x188, 0, 1, [⟨2, 0, .ro, 0, none⟩, ⟨39, 8, .ro, 0, none⟩, ⟨40, 40, .ro, 0, none⟩]⟩ /- LAST -/,
  ⟨0x190, 0, 1, [⟨63, 0, .ro, 0, none⟩]⟩ /- LAST_NS -/,
  ⟨0x200, 8, 8, [⟨15, 0, .ro, 0, none⟩, ⟨23, 16, .rw, 25, none⟩, ⟨63, 32, .ro, 0, none⟩]⟩ /- AGE -/]

/-- Register tables of KEEPER. -/
def regs_KEEPER : List RegDesc := [
  ⟨0x40, 0, 1, [⟨1, 0, .ro, 0, none⟩, ⟨2, 2, .ro, 0, none⟩, ⟨7, 4, .ro, 0, none⟩, ⟨11, 8, .ro, 0, none⟩, ⟨14, 12, .ro, 0, none⟩, ⟨17, 16, .ro, 0, none⟩, ⟨31, 24, .ro, 1, some 1⟩, ⟨38, 32, .ro, 0, none⟩]⟩ /- BOOT_STAT -/,
  ⟨0x48, 0, 1, [⟨63, 0, .ro, 0, none⟩]⟩ /- BOOT_NS -/,
  ⟨0x50, 0, 1, [⟨6, 0, .ro, 0, some 0⟩, ⟨11, 8, .ro, 0, some 0⟩]⟩ /- FUSE -/,
  ⟨0x58, 0, 1, [⟨0, 0, .wo, 0, some 0⟩, ⟨15, 8, .ro, 0, none⟩]⟩ /- RECOVER -/]

/-- Register tables of CHITIN. -/
def regs_CHITIN : List RegDesc := [
  ⟨0x40, 0, 1, [⟨63, 0, .ro, 0, none⟩]⟩ /- EPOCH -/,
  ⟨0x48, 0, 1, [⟨63, 0, .ro, 0, none⟩]⟩ /- BOOT_NONCE -/,
  ⟨0x50, 0, 1, [⟨0, 0, .wo, 0, some 0⟩]⟩ /- SUBMIT_H -/,
  ⟨0x58, 0, 1, [⟨15, 0, .ro, 0, none⟩, ⟨23, 16, .ro, 0, none⟩, ⟨24, 24, .ro, 0, none⟩, ⟨25, 25, .ro, 0, none⟩, ⟨31, 26, .ro, 0, none⟩]⟩ /- CHG_STAT -/]

/-- Register tables of PORT. -/
def regs_PORT : List RegDesc := [
  ⟨0x40, 0, 1, [⟨3, 0, .rw, 0, none⟩, ⟨4, 4, .rw, 0, none⟩]⟩ /- MODE -/,
  ⟨0x48, 0, 1, [⟨0, 0, .ro, 0, some 0⟩, ⟨1, 1, .ro, 0, some 0⟩, ⟨9, 2, .ro, 0, some 0⟩, ⟨63, 32, .ro, 0, none⟩]⟩ /- STAT -/,
  ⟨0x50, 0, 1, [⟨14, 0, .rw, 1522, none⟩, ⟨23, 16, .rw, 0, none⟩, ⟨24, 24, .rw, 0, none⟩, ⟨27, 25, .rw, 0, none⟩]⟩ /- MAC_CFG -/,
  ⟨0x58, 0, 1, [⟨23, 0, .rw, 16434824, none⟩]⟩ /- TC_MAP -/,
  ⟨0x60, 0, 1, [⟨0, 0, .rw, 0, none⟩, ⟨1, 1, .rw, 0, none⟩, ⟨3, 2, .rw, 0, none⟩, ⟨4, 4, .ro, 0, some 0⟩, ⟨5, 5, .ro, 0, some 0⟩]⟩ /- PREEMPT -/,
  ⟨0x68, 0, 1, [⟨19, 0, .rw, 0, none⟩, ⟨51, 32, .rw, 0, none⟩]⟩ /- TS_ADJ -/,
  ⟨0x70, 0, 1, [⟨1, 0, .rw, 0, none⟩]⟩ /- LOOPBACK -/,
  ⟨0x78, 0, 1, [⟨1, 0, .ro, 0, none⟩, ⟨31, 16, .ro, 0, none⟩]⟩ /- CAL -/,
  ⟨0x80, 0, 1, [⟨31, 0, .rw, 1000000, none⟩, ⟨63, 32, .rc, 0, none⟩]⟩ /- FEC_BOUND -/,
  ⟨0x88, 0, 1, [⟨31, 0, .rc, 0, none⟩]⟩ /- ONESTEP_SKIP -/,
  ⟨0x100, 8, 8, [⟨47, 0, .rc, 0, none⟩]⟩ /- RX_ERR -/]

/-- Register tables of PIN. -/
def regs_PIN : List RegDesc := [
  ⟨0x40, 0, 1, [⟨15, 0, .rw, 0, none⟩]⟩ /- GPIO_OUT -/,
  ⟨0x48, 0, 1, [⟨15, 0, .rw, 0, none⟩]⟩ /- GPIO_OE -/,
  ⟨0x50, 0, 1, [⟨15, 0, .ro, 0, some 0⟩]⟩ /- GPIO_IN -/,
  ⟨0x58, 0, 1, [⟨15, 0, .ro, 0, some 0⟩, ⟨23, 16, .rw, 110, none⟩, ⟨24, 24, .w1c, 0, none⟩, ⟨25, 25, .ro, 0, none⟩]⟩ /- THERM -/,
  ⟨0x100, 16, 16, [⟨1, 0, .rw, 0, none⟩, ⟨2, 2, .ro, 0, some 0⟩]⟩ /- BALL -/,
  ⟨0x108, 16, 16, [⟨15, 0, .ro, 0, none⟩, ⟨16, 16, .wo, 0, some 0⟩, ⟨17, 17, .wo, 0, some 0⟩, ⟨18, 18, .wo, 0, some 0⟩, ⟨47, 32, .ro, 0, none⟩]⟩ /- CLAIM -/]

/-- The register tables of a unit type. -/
def regsOf : UType → List RegDesc
  | .root => regs_ROOT
  | .hostif => regs_HOSTIF
  | .inst => regs_INST
  | .ring => regs_RING
  | .parse => regs_PARSE
  | .class => regs_CLASS
  | .flow => regs_FLOW
  | .comb => regs_COMB
  | .sched => regs_SCHED
  | .beeline => regs_BEELINE
  | .scarab => regs_SCARAB
  | .forager => regs_FORAGER
  | .hive => regs_HIVE
  | .qcore => []
  | .waggle => regs_WAGGLE
  | .edryn => regs_EDRYN
  | .port => regs_PORT
  | .pwr => regs_PWR
  | .chitin => regs_CHITIN
  | .fwc => regs_FWC
  | .stor => regs_STOR
  | .hbmctl => []
  | .debug => []
  | .keeper => regs_KEEPER
  | .trig => regs_TRIG
  | .pin => regs_PIN
  | .hostlink => regs_HOSTLINK
  | .hdr => regs_UNIT
  | .tap => regs_TAP
  | .chan => regs_CH
  | .ipage => regs_IPAGE

/-! Names of UNIT. -/

def UNIT.ID.reg (u : Nat) : Nat := u + 0x0
def UNIT.ID.TYPE (u : Nat) : Fld := ⟨UNIT.ID.reg u, 15, 0⟩
def UNIT.ID.INST (u : Nat) : Fld := ⟨UNIT.ID.reg u, 31, 16⟩
def UNIT.ID.MINOR (u : Nat) : Fld := ⟨UNIT.ID.reg u, 39, 32⟩
def UNIT.ID.MAJOR (u : Nat) : Fld := ⟨UNIT.ID.reg u, 47, 40⟩
def UNIT.TREE.reg (u : Nat) : Nat := u + 0x8
def UNIT.TREE.CHILDREN (u : Nat) : Fld := ⟨UNIT.TREE.reg u, 15, 0⟩
def UNIT.TREE.LIST_OFF (u : Nat) : Fld := ⟨UNIT.TREE.reg u, 47, 16⟩
def UNIT.TREE.PAGE_LOG2 (u : Nat) : Fld := ⟨UNIT.TREE.reg u, 55, 48⟩
def UNIT.TREE.HAS_TAP (u : Nat) : Fld := ⟨UNIT.TREE.reg u, 56, 56⟩
def UNIT.SVC.reg (u : Nat) : Nat := u + 0x10
def UNIT.SVC.CUR (u : Nat) : Fld := ⟨UNIT.SVC.reg u, 3, 0⟩
def UNIT.SVC.REQ (u : Nat) : Fld := ⟨UNIT.SVC.reg u, 11, 8⟩
def UNIT.SVC.REASON (u : Nat) : Fld := ⟨UNIT.SVC.reg u, 23, 16⟩
def UNIT.SVC.REQ_ACTOR (u : Nat) : Fld := ⟨UNIT.SVC.reg u, 39, 24⟩
def UNIT.EVT.reg (u : Nat) : Nat := u + 0x18
def UNIT.EVT.SVC_CHANGE (u : Nat) : Fld := ⟨UNIT.EVT.reg u, 0, 0⟩
def UNIT.EVT.FAULT (u : Nat) : Fld := ⟨UNIT.EVT.reg u, 1, 1⟩
def UNIT.EVT.FWC_TRANSIENT (u : Nat) : Fld := ⟨UNIT.EVT.reg u, 2, 2⟩
def UNIT.EVT.FWC_LASTING (u : Nat) : Fld := ⟨UNIT.EVT.reg u, 3, 3⟩
def UNIT.EVT.POWER (u : Nat) : Fld := ⟨UNIT.EVT.reg u, 4, 4⟩
def UNIT.EVT.CLAIM_CONFLICT (u : Nat) : Fld := ⟨UNIT.EVT.reg u, 5, 5⟩
def UNIT.EVT.ERROR (u : Nat) : Fld := ⟨UNIT.EVT.reg u, 6, 6⟩
def UNIT.EVT.INFO (u : Nat) : Fld := ⟨UNIT.EVT.reg u, 7, 7⟩
def UNIT.EVT.UNIT (u : Nat) : Fld := ⟨UNIT.EVT.reg u, 63, 8⟩
def UNIT.EVT_EN.reg (u : Nat) : Nat := u + 0x20
def UNIT.EVT_EN.COMMON_EN (u : Nat) : Fld := ⟨UNIT.EVT_EN.reg u, 7, 0⟩
def UNIT.EVT_EN.UNIT_EN (u : Nat) : Fld := ⟨UNIT.EVT_EN.reg u, 63, 8⟩
def UNIT.FAULT.reg (u : Nat) : Nat := u + 0x28
def UNIT.FAULT.CODE (u : Nat) : Fld := ⟨UNIT.FAULT.reg u, 15, 0⟩
def UNIT.FAULT.COUNT (u : Nat) : Fld := ⟨UNIT.FAULT.reg u, 31, 16⟩
def UNIT.FAULT.SRC (u : Nat) : Fld := ⟨UNIT.FAULT.reg u, 47, 32⟩
def UNIT.FAULT.CLEAR (u : Nat) : Fld := ⟨UNIT.FAULT.reg u, 63, 63⟩
def UNIT.PWR.reg (u : Nat) : Nat := u + 0x30
def UNIT.PWR.DOMAIN (u : Nat) : Fld := ⟨UNIT.PWR.reg u, 7, 0⟩
def UNIT.PWR.STATE (u : Nat) : Fld := ⟨UNIT.PWR.reg u, 11, 8⟩
def UNIT.PWR.TARGET (u : Nat) : Fld := ⟨UNIT.PWR.reg u, 15, 12⟩
def UNIT.PWR.VOTES (u : Nat) : Fld := ⟨UNIT.PWR.reg u, 47, 16⟩
def UNIT.CLAIM.reg (u : Nat) : Nat := u + 0x38
def UNIT.CLAIM.OWNER (u : Nat) : Fld := ⟨UNIT.CLAIM.reg u, 15, 0⟩
def UNIT.CLAIM.CLAIM (u : Nat) : Fld := ⟨UNIT.CLAIM.reg u, 16, 16⟩
def UNIT.CLAIM.RELEASE (u : Nat) : Fld := ⟨UNIT.CLAIM.reg u, 17, 17⟩
def UNIT.CLAIM.FORCE (u : Nat) : Fld := ⟨UNIT.CLAIM.reg u, 18, 18⟩
def UNIT.CLAIM.DENIED (u : Nat) : Fld := ⟨UNIT.CLAIM.reg u, 47, 32⟩

/-! Names of ROOT. -/

def ROOT.WHOAMI.reg : Nat := ROOT.base + 0x40
def ROOT.WHOAMI.ACTOR : Fld := ⟨ROOT.WHOAMI.reg, 15, 0⟩
def ROOT.DROPPED_WRITES.reg : Nat := ROOT.base + 0x48
def ROOT.DROPPED_WRITES.COUNT : Fld := ⟨ROOT.DROPPED_WRITES.reg, 31, 0⟩

/-! Names of TAP. -/

def TAP.ADDR.reg (u : Nat) : Nat := u + 0x100
def TAP.ADDR.TABLE (u : Nat) : Fld := ⟨TAP.ADDR.reg u, 7, 0⟩
def TAP.ADDR.CHUNK (u : Nat) : Fld := ⟨TAP.ADDR.reg u, 11, 8⟩
def TAP.ADDR.INDEX (u : Nat) : Fld := ⟨TAP.ADDR.reg u, 47, 16⟩
def TAP.CMD.reg (u : Nat) : Nat := u + 0x108
def TAP.CMD.OP (u : Nat) : Fld := ⟨TAP.CMD.reg u, 3, 0⟩
def TAP.STATUS.reg (u : Nat) : Nat := u + 0x110
def TAP.STATUS.BUSY (u : Nat) : Fld := ⟨TAP.STATUS.reg u, 0, 0⟩
def TAP.STATUS.STATUS (u : Nat) : Fld := ⟨TAP.STATUS.reg u, 31, 16⟩
def TAP.STATUS.HOLDER (u : Nat) : Fld := ⟨TAP.STATUS.reg u, 47, 32⟩
def TAP.DATA.reg (u : Nat) (k : Nat) : Nat := u + 0x140 + 8 * k
def TAP.DATA.DATA (u : Nat) (k : Nat) : Fld := ⟨TAP.DATA.reg u k, 63, 0⟩

/-! Names of EDRYN. -/

def EDRYN.TIME_NS.reg : Nat := EDRYN.base + 0x40
def EDRYN.TIME_NS.NS : Fld := ⟨EDRYN.TIME_NS.reg, 63, 0⟩
def EDRYN.TIME_FRAC.reg : Nat := EDRYN.base + 0x48
def EDRYN.TIME_FRAC.FRAC : Fld := ⟨EDRYN.TIME_FRAC.reg, 15, 0⟩
def EDRYN.ADJ_FREQ.reg : Nat := EDRYN.base + 0x50
def EDRYN.ADJ_FREQ.FREQ : Fld := ⟨EDRYN.ADJ_FREQ.reg, 39, 0⟩
def EDRYN.ADJ_PHASE.reg : Nat := EDRYN.base + 0x58
def EDRYN.ADJ_PHASE.AMOUNT : Fld := ⟨EDRYN.ADJ_PHASE.reg, 47, 0⟩
def EDRYN.ADJ_PHASE.RATE : Fld := ⟨EDRYN.ADJ_PHASE.reg, 55, 48⟩
def EDRYN.STEP.reg : Nat := EDRYN.base + 0x60
def EDRYN.STEP.OFFSET : Fld := ⟨EDRYN.STEP.reg, 62, 0⟩
def EDRYN.STEP.SOURCED : Fld := ⟨EDRYN.STEP.reg, 63, 63⟩
def EDRYN.STEP_COUNT.reg : Nat := EDRYN.base + 0x68
def EDRYN.STEP_COUNT.COUNT : Fld := ⟨EDRYN.STEP_COUNT.reg, 31, 0⟩
def EDRYN.SRC.reg : Nat := EDRYN.base + 0x70
def EDRYN.SRC.PHASE : Fld := ⟨EDRYN.SRC.reg, 3, 0⟩
def EDRYN.SRC.PTP_PORT : Fld := ⟨EDRYN.SRC.reg, 7, 4⟩
def EDRYN.SRC.FREQ : Fld := ⟨EDRYN.SRC.reg, 11, 8⟩
def EDRYN.SRC.SYNCE_PORT : Fld := ⟨EDRYN.SRC.reg, 15, 12⟩
def EDRYN.SRC.REF_OK : Fld := ⟨EDRYN.SRC.reg, 16, 16⟩
def EDRYN.SRC.ON_INTERNAL : Fld := ⟨EDRYN.SRC.reg, 17, 17⟩
def EDRYN.SERVO_CTL.reg : Nat := EDRYN.base + 0x78
def EDRYN.SERVO_CTL.ACQ : Fld := ⟨EDRYN.SERVO_CTL.reg, 0, 0⟩
def EDRYN.SERVO_CTL.LOCK : Fld := ⟨EDRYN.SERVO_CTL.reg, 1, 1⟩
def EDRYN.SERVO_CTL.HEARTBEAT : Fld := ⟨EDRYN.SERVO_CTL.reg, 2, 2⟩
def EDRYN.SERVO_CTL.TIMEOUT : Fld := ⟨EDRYN.SERVO_CTL.reg, 31, 16⟩
def EDRYN.TRACE.reg : Nat := EDRYN.base + 0x80
def EDRYN.TRACE.STATE : Fld := ⟨EDRYN.TRACE.reg, 2, 0⟩
def EDRYN.TRACE.PREV : Fld := ⟨EDRYN.TRACE.reg, 5, 3⟩
def EDRYN.TRACE.SINCE_S : Fld := ⟨EDRYN.TRACE.reg, 63, 32⟩
def EDRYN.BOUND.reg : Nat := EDRYN.base + 0x88
def EDRYN.BOUND.NS : Fld := ⟨EDRYN.BOUND.reg, 31, 0⟩
def EDRYN.HOLD_COEF.reg : Nat := EDRYN.base + 0x90
def EDRYN.HOLD_COEF.LIN : Fld := ⟨EDRYN.HOLD_COEF.reg, 31, 0⟩
def EDRYN.HOLD_COEF.QUAD : Fld := ⟨EDRYN.HOLD_COEF.reg, 63, 32⟩
def EDRYN.HOLD_LIMIT.reg : Nat := EDRYN.base + 0x98
def EDRYN.HOLD_LIMIT.NS : Fld := ⟨EDRYN.HOLD_LIMIT.reg, 31, 0⟩
def EDRYN.OFFSET.reg : Nat := EDRYN.base + 0xa0
def EDRYN.OFFSET.OFFSET : Fld := ⟨EDRYN.OFFSET.reg, 63, 0⟩
def EDRYN.PATH_DELAY.reg : Nat := EDRYN.base + 0xa8
def EDRYN.PATH_DELAY.DELAY : Fld := ⟨EDRYN.PATH_DELAY.reg, 63, 0⟩
def EDRYN.UTC.reg : Nat := EDRYN.base + 0xb0
def EDRYN.UTC.OFFSET : Fld := ⟨EDRYN.UTC.reg, 15, 0⟩
def EDRYN.UTC.LEAP : Fld := ⟨EDRYN.UTC.reg, 17, 16⟩
def EDRYN.UTC.LEAP_AT : Fld := ⟨EDRYN.UTC.reg, 55, 24⟩
def EDRYN.GM_ID.reg : Nat := EDRYN.base + 0xb8
def EDRYN.GM_ID.CLOCK_ID : Fld := ⟨EDRYN.GM_ID.reg, 63, 0⟩
def EDRYN.GM_INFO.reg : Nat := EDRYN.base + 0xc0
def EDRYN.GM_INFO.STEPS : Fld := ⟨EDRYN.GM_INFO.reg, 15, 0⟩
def EDRYN.GM_INFO.CLASS : Fld := ⟨EDRYN.GM_INFO.reg, 23, 16⟩
def EDRYN.GM_INFO.ACCURACY : Fld := ⟨EDRYN.GM_INFO.reg, 31, 24⟩
def EDRYN.GM_INFO.DOMAIN : Fld := ⟨EDRYN.GM_INFO.reg, 39, 32⟩
def EDRYN.GM_INFO.PROFILE : Fld := ⟨EDRYN.GM_INFO.reg, 47, 40⟩
def EDRYN.PPS_CAP0.reg : Nat := EDRYN.base + 0xc8
def EDRYN.PPS_CAP0.NS : Fld := ⟨EDRYN.PPS_CAP0.reg, 63, 0⟩
def EDRYN.PPS_CAP1.reg : Nat := EDRYN.base + 0xd0
def EDRYN.PPS_CAP1.NS : Fld := ⟨EDRYN.PPS_CAP1.reg, 63, 0⟩
def EDRYN.PPS_AUX.reg : Nat := EDRYN.base + 0xd8
def EDRYN.PPS_AUX.FRAC0 : Fld := ⟨EDRYN.PPS_AUX.reg, 15, 0⟩
def EDRYN.PPS_AUX.FRAC1 : Fld := ⟨EDRYN.PPS_AUX.reg, 31, 16⟩
def EDRYN.PPS_AUX.NEW0 : Fld := ⟨EDRYN.PPS_AUX.reg, 32, 32⟩
def EDRYN.PPS_AUX.NEW1 : Fld := ⟨EDRYN.PPS_AUX.reg, 33, 33⟩
def EDRYN.PPS_DELAY.reg : Nat := EDRYN.base + 0xe0
def EDRYN.PPS_DELAY.DELAY0 : Fld := ⟨EDRYN.PPS_DELAY.reg, 31, 0⟩
def EDRYN.PPS_DELAY.DELAY1 : Fld := ⟨EDRYN.PPS_DELAY.reg, 63, 32⟩
def EDRYN.TOD_CTL.reg : Nat := EDRYN.base + 0xe8
def EDRYN.TOD_CTL.RX_EN : Fld := ⟨EDRYN.TOD_CTL.reg, 0, 0⟩
def EDRYN.TOD_CTL.TX_EN : Fld := ⟨EDRYN.TOD_CTL.reg, 1, 1⟩
def EDRYN.TOD_CTL.BAUD : Fld := ⟨EDRYN.TOD_CTL.reg, 3, 2⟩
def EDRYN.TOD_CTL.TX_FF : Fld := ⟨EDRYN.TOD_CTL.reg, 5, 4⟩
def EDRYN.TOD_STAT.reg : Nat := EDRYN.base + 0xf0
def EDRYN.TOD_STAT.GOOD : Fld := ⟨EDRYN.TOD_STAT.reg, 15, 0⟩
def EDRYN.TOD_STAT.BAD : Fld := ⟨EDRYN.TOD_STAT.reg, 31, 16⟩
def EDRYN.TOD_STAT.LAST_ERR : Fld := ⟨EDRYN.TOD_STAT.reg, 39, 32⟩
def EDRYN.TOD_STAT.CONSISTENT : Fld := ⟨EDRYN.TOD_STAT.reg, 40, 40⟩
def EDRYN.FREQ_MEAS.reg : Nat := EDRYN.base + 0xf8
def EDRYN.FREQ_MEAS.FREQ : Fld := ⟨EDRYN.FREQ_MEAS.reg, 39, 0⟩
def EDRYN.PTM_CTL.reg : Nat := EDRYN.base + 0x180
def EDRYN.PTM_CTL.INTERVAL : Fld := ⟨EDRYN.PTM_CTL.reg, 7, 0⟩
def EDRYN.RCLK_CTL.reg : Nat := EDRYN.base + 0x188
def EDRYN.RCLK_CTL.LANE0 : Fld := ⟨EDRYN.RCLK_CTL.reg, 2, 0⟩
def EDRYN.RCLK_CTL.DIV0 : Fld := ⟨EDRYN.RCLK_CTL.reg, 5, 4⟩
def EDRYN.RCLK_CTL.SQUELCH0 : Fld := ⟨EDRYN.RCLK_CTL.reg, 6, 6⟩
def EDRYN.RCLK_CTL.LANE1 : Fld := ⟨EDRYN.RCLK_CTL.reg, 18, 16⟩
def EDRYN.RCLK_CTL.DIV1 : Fld := ⟨EDRYN.RCLK_CTL.reg, 21, 20⟩
def EDRYN.RCLK_CTL.SQUELCH1 : Fld := ⟨EDRYN.RCLK_CTL.reg, 22, 22⟩
def EDRYN.FF_CTL.reg (n : Nat) : Nat := EDRYN.base + 0x200 + 32 * n
def EDRYN.FF_CTL.MODE (n : Nat) : Fld := ⟨EDRYN.FF_CTL.reg n, 2, 0⟩
def EDRYN.FF_CTL.POL (n : Nat) : Fld := ⟨EDRYN.FF_CTL.reg n, 3, 3⟩
def EDRYN.FF_CTL.RCLK_SEL (n : Nat) : Fld := ⟨EDRYN.FF_CTL.reg n, 4, 4⟩
def EDRYN.FF_PERIOD.reg (n : Nat) : Nat := EDRYN.base + 0x208 + 32 * n
def EDRYN.FF_PERIOD.PERIOD (n : Nat) : Fld := ⟨EDRYN.FF_PERIOD.reg n, 47, 0⟩
def EDRYN.FF_PHASE.reg (n : Nat) : Nat := EDRYN.base + 0x210 + 32 * n
def EDRYN.FF_PHASE.PHASE (n : Nat) : Fld := ⟨EDRYN.FF_PHASE.reg n, 47, 0⟩
def EDRYN.FF_WIDTH.reg (n : Nat) : Nat := EDRYN.base + 0x218 + 32 * n
def EDRYN.FF_WIDTH.WIDTH (n : Nat) : Fld := ⟨EDRYN.FF_WIDTH.reg n, 31, 0⟩

/-! Names of TRIG. -/

def TRIG.CTL.reg (n : Nat) : Nat := TRIG.base + 0x1000 + 64 * n
def TRIG.CTL.ARM (n : Nat) : Fld := ⟨TRIG.CTL.reg n, 0, 0⟩
def TRIG.CTL.NOTIFY (n : Nat) : Fld := ⟨TRIG.CTL.reg n, 1, 1⟩
def TRIG.CTL.ACTION (n : Nat) : Fld := ⟨TRIG.CTL.reg n, 15, 8⟩
def TRIG.CTL.ARMED_BY (n : Nat) : Fld := ⟨TRIG.CTL.reg n, 31, 16⟩
def TRIG.CTL.COUNT (n : Nat) : Fld := ⟨TRIG.CTL.reg n, 47, 32⟩
def TRIG.TIME.reg (n : Nat) : Nat := TRIG.base + 0x1008 + 64 * n
def TRIG.TIME.NS (n : Nat) : Fld := ⟨TRIG.TIME.reg n, 63, 0⟩
def TRIG.PERIOD.reg (n : Nat) : Nat := TRIG.base + 0x1010 + 64 * n
def TRIG.PERIOD.NS (n : Nat) : Fld := ⟨TRIG.PERIOD.reg n, 47, 0⟩
def TRIG.ARG.reg (n : Nat) : Nat := TRIG.base + 0x1018 + 64 * n
def TRIG.ARG.ARG (n : Nat) : Fld := ⟨TRIG.ARG.reg n, 63, 0⟩
def TRIG.LAST.reg (n : Nat) : Nat := TRIG.base + 0x1020 + 64 * n
def TRIG.LAST.NS (n : Nat) : Fld := ⟨TRIG.LAST.reg n, 63, 0⟩
def TRIG.LAST_INFO.reg (n : Nat) : Nat := TRIG.base + 0x1028 + 64 * n
def TRIG.LAST_INFO.STATUS (n : Nat) : Fld := ⟨TRIG.LAST_INFO.reg n, 15, 0⟩
def TRIG.LAST_INFO.LATE (n : Nat) : Fld := ⟨TRIG.LAST_INFO.reg n, 16, 16⟩
def TRIG.LAST_INFO.STEPPED (n : Nat) : Fld := ⟨TRIG.LAST_INFO.reg n, 17, 17⟩
def TRIG.LAST_INFO.HELD (n : Nat) : Fld := ⟨TRIG.LAST_INFO.reg n, 18, 18⟩
def TRIG.LAST_INFO.MISSED (n : Nat) : Fld := ⟨TRIG.LAST_INFO.reg n, 47, 32⟩
def TRIG.LAST_INFO.LAG (n : Nat) : Fld := ⟨TRIG.LAST_INFO.reg n, 63, 48⟩
def TRIG.CLAIM.reg (n : Nat) : Nat := TRIG.base + 0x1030 + 64 * n
def TRIG.CLAIM.OWNER (n : Nat) : Fld := ⟨TRIG.CLAIM.reg n, 15, 0⟩
def TRIG.CLAIM.CLAIM (n : Nat) : Fld := ⟨TRIG.CLAIM.reg n, 16, 16⟩
def TRIG.CLAIM.RELEASE (n : Nat) : Fld := ⟨TRIG.CLAIM.reg n, 17, 17⟩
def TRIG.CLAIM.FORCE (n : Nat) : Fld := ⟨TRIG.CLAIM.reg n, 18, 18⟩
def TRIG.CLAIM.DENIED (n : Nat) : Fld := ⟨TRIG.CLAIM.reg n, 47, 32⟩
def TRIG.PEND.reg (n : Nat) : Nat := TRIG.base + 0x40 + 8 * n
def TRIG.PEND.FIRED (n : Nat) : Fld := ⟨TRIG.PEND.reg n, 63, 0⟩

/-! Names of HOSTIF. -/

def HOSTIF.SEAL_RELEASE.reg : Nat := HOSTIF.base + 0x40
def HOSTIF.SEAL_RELEASE.RELEASE : Fld := ⟨HOSTIF.SEAL_RELEASE.reg, 3, 0⟩
def HOSTIF.SEAL_RELEASE.REFUSED : Fld := ⟨HOSTIF.SEAL_RELEASE.reg, 11, 8⟩

/-! Names of HOSTLINK. -/

def HOSTLINK.LINK_STAT.reg (l : Nat) : Nat := HOSTLINK.base l + 0x40
def HOSTLINK.LINK_STAT.SPEED (l : Nat) : Fld := ⟨HOSTLINK.LINK_STAT.reg l, 3, 0⟩
def HOSTLINK.LINK_STAT.WIDTH (l : Nat) : Fld := ⟨HOSTLINK.LINK_STAT.reg l, 8, 4⟩
def HOSTLINK.LINK_STAT.FLIT (l : Nat) : Fld := ⟨HOSTLINK.LINK_STAT.reg l, 9, 9⟩
def HOSTLINK.LINK_STAT.DL_UP (l : Nat) : Fld := ⟨HOSTLINK.LINK_STAT.reg l, 10, 10⟩
def HOSTLINK.LINK_STAT.BME (l : Nat) : Fld := ⟨HOSTLINK.LINK_STAT.reg l, 11, 11⟩
def HOSTLINK.LINK_STAT.MSE (l : Nat) : Fld := ⟨HOSTLINK.LINK_STAT.reg l, 12, 12⟩
def HOSTLINK.LINK_STAT.MSIX_EN (l : Nat) : Fld := ⟨HOSTLINK.LINK_STAT.reg l, 13, 13⟩
def HOSTLINK.LINK_STAT.PERST (l : Nat) : Fld := ⟨HOSTLINK.LINK_STAT.reg l, 14, 14⟩
def HOSTLINK.LINK_STAT.TAG10 (l : Nat) : Fld := ⟨HOSTLINK.LINK_STAT.reg l, 15, 15⟩
def HOSTLINK.LINK_STAT.DOWN_COUNT (l : Nat) : Fld := ⟨HOSTLINK.LINK_STAT.reg l, 31, 16⟩
def HOSTLINK.CPL_TO.reg (l : Nat) : Nat := HOSTLINK.base l + 0x48
def HOSTLINK.CPL_TO.MS (l : Nat) : Fld := ⟨HOSTLINK.CPL_TO.reg l, 6, 0⟩
def HOSTLINK.CPL_TO.SEAL_ON_TO (l : Nat) : Fld := ⟨HOSTLINK.CPL_TO.reg l, 8, 8⟩
def HOSTLINK.TAG_STAT.reg (l : Nat) : Nat := HOSTLINK.base l + 0x50
def HOSTLINK.TAG_STAT.OUTSTANDING (l : Nat) : Fld := ⟨HOSTLINK.TAG_STAT.reg l, 9, 0⟩
def HOSTLINK.TAG_STAT.QUARANTINED (l : Nat) : Fld := ⟨HOSTLINK.TAG_STAT.reg l, 25, 16⟩
def HOSTLINK.TAG_STAT.TIMEOUTS (l : Nat) : Fld := ⟨HOSTLINK.TAG_STAT.reg l, 63, 32⟩
def HOSTLINK.UNEXP_CPL.reg (l : Nat) : Nat := HOSTLINK.base l + 0x58
def HOSTLINK.UNEXP_CPL.COUNT (l : Nat) : Fld := ⟨HOSTLINK.UNEXP_CPL.reg l, 31, 0⟩
def HOSTLINK.UNEXP_CPL.LAST_TAG (l : Nat) : Fld := ⟨HOSTLINK.UNEXP_CPL.reg l, 41, 32⟩
def HOSTLINK.UNEXP_CPL.LAST_QUAR (l : Nat) : Fld := ⟨HOSTLINK.UNEXP_CPL.reg l, 42, 42⟩
def HOSTLINK.SEAL.reg (l : Nat) : Nat := HOSTLINK.base l + 0x60
def HOSTLINK.SEAL.SEALED (l : Nat) : Fld := ⟨HOSTLINK.SEAL.reg l, 0, 0⟩
def HOSTLINK.SEAL.CAUSE (l : Nat) : Fld := ⟨HOSTLINK.SEAL.reg l, 3, 1⟩
def HOSTLINK.SEAL.EXTRA (l : Nat) : Fld := ⟨HOSTLINK.SEAL.reg l, 15, 8⟩
def HOSTLINK.SEAL_TIME.reg (l : Nat) : Nat := HOSTLINK.base l + 0x68
def HOSTLINK.SEAL_TIME.NS (l : Nat) : Fld := ⟨HOSTLINK.SEAL_TIME.reg l, 63, 0⟩
def HOSTLINK.SEALED_DISCARD.reg (l : Nat) : Nat := HOSTLINK.base l + 0x70
def HOSTLINK.SEALED_DISCARD.COUNT (l : Nat) : Fld := ⟨HOSTLINK.SEALED_DISCARD.reg l, 47, 0⟩
def HOSTLINK.DEV_EVT.reg (l : Nat) : Nat := HOSTLINK.base l + 0x78
def HOSTLINK.DEV_EVT.VECTOR (l : Nat) : Fld := ⟨HOSTLINK.DEV_EVT.reg l, 10, 0⟩
def HOSTLINK.DEV_EVT.EN (l : Nat) : Fld := ⟨HOSTLINK.DEV_EVT.reg l, 12, 12⟩
def HOSTLINK.DEV_EVT.REARM (l : Nat) : Fld := ⟨HOSTLINK.DEV_EVT.reg l, 13, 13⟩
def HOSTLINK.PEERWIN_COMMIT.reg (l : Nat) : Nat := HOSTLINK.base l + 0x80
def HOSTLINK.PEERWIN_COMMIT.COMMIT (l : Nat) : Fld := ⟨HOSTLINK.PEERWIN_COMMIT.reg l, 0, 0⟩
def HOSTLINK.PEERWIN_COMMIT.ERR (l : Nat) : Fld := ⟨HOSTLINK.PEERWIN_COMMIT.reg l, 15, 8⟩
def HOSTLINK.PEERWIN_COMMIT.ERR_WIN (l : Nat) : Fld := ⟨HOSTLINK.PEERWIN_COMMIT.reg l, 21, 16⟩
def HOSTLINK.PEERWIN_EPOCH.reg (l : Nat) : Nat := HOSTLINK.base l + 0x88
def HOSTLINK.PEERWIN_EPOCH.EPOCH (l : Nat) : Fld := ⟨HOSTLINK.PEERWIN_EPOCH.reg l, 31, 0⟩
def HOSTLINK.PW_MISS.reg (l : Nat) : Nat := HOSTLINK.base l + 0x90
def HOSTLINK.PW_MISS.COUNT (l : Nat) : Fld := ⟨HOSTLINK.PW_MISS.reg l, 31, 0⟩
def HOSTLINK.PW_MISS.LAST_RID (l : Nat) : Fld := ⟨HOSTLINK.PW_MISS.reg l, 47, 32⟩
def HOSTLINK.PW_MISS.LAST_READ (l : Nat) : Fld := ⟨HOSTLINK.PW_MISS.reg l, 48, 48⟩
def HOSTLINK.PW_MISS_ADDR.reg (l : Nat) : Nat := HOSTLINK.base l + 0x98
def HOSTLINK.PW_MISS_ADDR.OFFSET (l : Nat) : Fld := ⟨HOSTLINK.PW_MISS_ADDR.reg l, 29, 0⟩
def HOSTLINK.PW_BASE.reg (l : Nat) (k : Nat) : Nat := HOSTLINK.base l + 0x400 + 32 * k
def HOSTLINK.PW_BASE.EN (l : Nat) (k : Nat) : Fld := ⟨HOSTLINK.PW_BASE.reg l k, 0, 0⟩
def HOSTLINK.PW_BASE.WR_EN (l : Nat) (k : Nat) : Fld := ⟨HOSTLINK.PW_BASE.reg l k, 1, 1⟩
def HOSTLINK.PW_BASE.RD_EN (l : Nat) (k : Nat) : Fld := ⟨HOSTLINK.PW_BASE.reg l k, 2, 2⟩
def HOSTLINK.PW_BASE.BASE (l : Nat) (k : Nat) : Fld := ⟨HOSTLINK.PW_BASE.reg l k, 29, 16⟩
def HOSTLINK.PW_BASE.SIZE_LOG2 (l : Nat) (k : Nat) : Fld := ⟨HOSTLINK.PW_BASE.reg l k, 36, 32⟩
def HOSTLINK.PW_TGT.reg (l : Nat) (k : Nat) : Nat := HOSTLINK.base l + 0x408 + 32 * k
def HOSTLINK.PW_TGT.KIND (l : Nat) (k : Nat) : Fld := ⟨HOSTLINK.PW_TGT.reg l k, 1, 0⟩
def HOSTLINK.PW_TGT.HIVE (l : Nat) (k : Nat) : Fld := ⟨HOSTLINK.PW_TGT.reg l k, 7, 4⟩
def HOSTLINK.PW_TGT.REGION (l : Nat) (k : Nat) : Fld := ⟨HOSTLINK.PW_TGT.reg l k, 15, 8⟩
def HOSTLINK.PW_TGT.OFF (l : Nat) (k : Nat) : Fld := ⟨HOSTLINK.PW_TGT.reg l k, 42, 32⟩
def HOSTLINK.PW_REQ.reg (l : Nat) (k : Nat) : Nat := HOSTLINK.base l + 0x410 + 32 * k
def HOSTLINK.PW_REQ.RID (l : Nat) (k : Nat) : Fld := ⟨HOSTLINK.PW_REQ.reg l k, 15, 0⟩
def HOSTLINK.PW_REQ.RID_MASK (l : Nat) (k : Nat) : Fld := ⟨HOSTLINK.PW_REQ.reg l k, 31, 16⟩
def HOSTLINK.PWA_BASE.reg (l : Nat) (k : Nat) : Nat := HOSTLINK.base l + 0x1000 + 32 * k
def HOSTLINK.PWA_BASE.EN (l : Nat) (k : Nat) : Fld := ⟨HOSTLINK.PWA_BASE.reg l k, 0, 0⟩
def HOSTLINK.PWA_BASE.WR_EN (l : Nat) (k : Nat) : Fld := ⟨HOSTLINK.PWA_BASE.reg l k, 1, 1⟩
def HOSTLINK.PWA_BASE.RD_EN (l : Nat) (k : Nat) : Fld := ⟨HOSTLINK.PWA_BASE.reg l k, 2, 2⟩
def HOSTLINK.PWA_BASE.BASE (l : Nat) (k : Nat) : Fld := ⟨HOSTLINK.PWA_BASE.reg l k, 29, 16⟩
def HOSTLINK.PWA_BASE.SIZE_LOG2 (l : Nat) (k : Nat) : Fld := ⟨HOSTLINK.PWA_BASE.reg l k, 36, 32⟩
def HOSTLINK.PWA_TGT.reg (l : Nat) (k : Nat) : Nat := HOSTLINK.base l + 0x1008 + 32 * k
def HOSTLINK.PWA_TGT.KIND (l : Nat) (k : Nat) : Fld := ⟨HOSTLINK.PWA_TGT.reg l k, 1, 0⟩
def HOSTLINK.PWA_TGT.HIVE (l : Nat) (k : Nat) : Fld := ⟨HOSTLINK.PWA_TGT.reg l k, 7, 4⟩
def HOSTLINK.PWA_TGT.REGION (l : Nat) (k : Nat) : Fld := ⟨HOSTLINK.PWA_TGT.reg l k, 15, 8⟩
def HOSTLINK.PWA_TGT.OFF (l : Nat) (k : Nat) : Fld := ⟨HOSTLINK.PWA_TGT.reg l k, 42, 32⟩
def HOSTLINK.PWA_REQ.reg (l : Nat) (k : Nat) : Nat := HOSTLINK.base l + 0x1010 + 32 * k
def HOSTLINK.PWA_REQ.RID (l : Nat) (k : Nat) : Fld := ⟨HOSTLINK.PWA_REQ.reg l k, 15, 0⟩
def HOSTLINK.PWA_REQ.RID_MASK (l : Nat) (k : Nat) : Fld := ⟨HOSTLINK.PWA_REQ.reg l k, 31, 16⟩

/-! Names of IPAGE. -/

def IPAGE.ORDER_PROBE.reg (n : Nat) : Nat := IPAGE.base n + 0xe000
def IPAGE.ORDER_PROBE.NS (n : Nat) : Fld := ⟨IPAGE.ORDER_PROBE.reg n, 63, 0⟩
def IPAGE.ICMD.reg (n : Nat) : Nat := IPAGE.base n + 0xe008
def IPAGE.ICMD.OP (n : Nat) : Fld := ⟨IPAGE.ICMD.reg n, 3, 0⟩
def IPAGE.ICMD.CR (n : Nat) : Fld := ⟨IPAGE.ICMD.reg n, 4, 4⟩
def IPAGE.ICMD.LOCAL (n : Nat) : Fld := ⟨IPAGE.ICMD.reg n, 27, 16⟩
def IPAGE.ISEL.reg (n : Nat) : Nat := IPAGE.base n + 0xe010
def IPAGE.ISEL.CR (n : Nat) : Fld := ⟨IPAGE.ISEL.reg n, 0, 0⟩
def IPAGE.ISEL.LOCAL (n : Nat) : Fld := ⟨IPAGE.ISEL.reg n, 27, 16⟩
def IPAGE.ISTATE.reg (n : Nat) : Nat := IPAGE.base n + 0xe018
def IPAGE.ISTATE.STATE (n : Nat) : Fld := ⟨IPAGE.ISTATE.reg n, 7, 0⟩
def IPAGE.ISTATE.REASON (n : Nat) : Fld := ⟨IPAGE.ISTATE.reg n, 15, 8⟩
def IPAGE.ISTATE.ICMD_STATUS (n : Nat) : Fld := ⟨IPAGE.ISTATE.reg n, 31, 16⟩
def IPAGE.ISTATE.ERR_INDEX (n : Nat) : Fld := ⟨IPAGE.ISTATE.reg n, 63, 32⟩
def IPAGE.IIDX.reg (n : Nat) : Nat := IPAGE.base n + 0xe020
def IPAGE.IIDX.PROD (n : Nat) : Fld := ⟨IPAGE.IIDX.reg n, 31, 0⟩
def IPAGE.IIDX.TAIL (n : Nat) : Fld := ⟨IPAGE.IIDX.reg n, 63, 32⟩
def IPAGE.IIDX2.reg (n : Nat) : Nat := IPAGE.base n + 0xe028
def IPAGE.IIDX2.MID (n : Nat) : Fld := ⟨IPAGE.IIDX2.reg n, 31, 0⟩
def IPAGE.IIDX2.EXTRA (n : Nat) : Fld := ⟨IPAGE.IIDX2.reg n, 63, 32⟩

/-! Names of INST. -/

def INST.CMD.reg : Nat := INST.base + 0x40
def INST.CMD.OP : Fld := ⟨INST.CMD.reg, 3, 0⟩
def INST.CMD.MODE : Fld := ⟨INST.CMD.reg, 5, 4⟩
def INST.CMD.INSTANCE : Fld := ⟨INST.CMD.reg, 26, 16⟩
def INST.CMD.DEADLINE_US : Fld := ⟨INST.CMD.reg, 63, 32⟩
def INST.CMD_REFUSED.reg : Nat := INST.base + 0x48
def INST.CMD_REFUSED.INSTANCE : Fld := ⟨INST.CMD_REFUSED.reg, 10, 0⟩
def INST.CMD_REFUSED.STATUS : Fld := ⟨INST.CMD_REFUSED.reg, 31, 16⟩
def INST.CMD_REFUSED.ACTOR : Fld := ⟨INST.CMD_REFUSED.reg, 47, 32⟩
def INST.POOL_WQ.reg : Nat := INST.base + 0x50
def INST.POOL_WQ.FREE : Fld := ⟨INST.POOL_WQ.reg, 31, 0⟩
def INST.POOL_WQ.LARGEST : Fld := ⟨INST.POOL_WQ.reg, 63, 32⟩
def INST.POOL_CR.reg : Nat := INST.base + 0x58
def INST.POOL_CR.FREE : Fld := ⟨INST.POOL_CR.reg, 31, 0⟩
def INST.POOL_CR.LARGEST : Fld := ⟨INST.POOL_CR.reg, 63, 32⟩
def INST.POOL_INT.reg : Nat := INST.base + 0x60
def INST.POOL_INT.FREE : Fld := ⟨INST.POOL_INT.reg, 31, 0⟩
def INST.POOL_INT.LARGEST : Fld := ⟨INST.POOL_INT.reg, 63, 32⟩
def INST.POOL_LEAF.reg : Nat := INST.base + 0x68
def INST.POOL_LEAF.FREE : Fld := ⟨INST.POOL_LEAF.reg, 31, 0⟩
def INST.POOL_LEAF.LARGEST : Fld := ⟨INST.POOL_LEAF.reg, 63, 32⟩
def INST.ATC_STAT.reg : Nat := INST.base + 0x70
def INST.ATC_STAT.USED : Fld := ⟨INST.ATC_STAT.reg, 15, 0⟩
def INST.ATC_STAT.INVALS : Fld := ⟨INST.ATC_STAT.reg, 63, 32⟩
def INST.XFAULT_INFO.reg : Nat := INST.base + 0x78
def INST.XFAULT_INFO.INSTANCE : Fld := ⟨INST.XFAULT_INFO.reg, 10, 0⟩
def INST.XFAULT_INFO.LINK : Fld := ⟨INST.XFAULT_INFO.reg, 17, 16⟩
def INST.XFAULT_INFO.WRITE : Fld := ⟨INST.XFAULT_INFO.reg, 18, 18⟩
def INST.XFAULT_INFO.PASID : Fld := ⟨INST.XFAULT_INFO.reg, 39, 20⟩
def INST.XFAULT_INFO.COUNT : Fld := ⟨INST.XFAULT_INFO.reg, 63, 48⟩
def INST.XFAULT_ADDR.reg : Nat := INST.base + 0x80
def INST.XFAULT_ADDR.PAGE : Fld := ⟨INST.XFAULT_ADDR.reg, 63, 12⟩
def INST.DONE.reg (n : Nat) : Nat := INST.base + 0x200 + 8 * n
def INST.DONE.DONE (n : Nat) : Fld := ⟨INST.DONE.reg n, 63, 0⟩
def INST.CMD_STATUS.reg (n : Nat) : Nat := INST.base + 0x8000 + 8 * n
def INST.CMD_STATUS.STATE (n : Nat) : Fld := ⟨INST.CMD_STATUS.reg n, 1, 0⟩
def INST.CMD_STATUS.OP (n : Nat) : Fld := ⟨INST.CMD_STATUS.reg n, 4, 2⟩
def INST.CMD_STATUS.CONVERTED (n : Nat) : Fld := ⟨INST.CMD_STATUS.reg n, 5, 5⟩
def INST.CMD_STATUS.STATUS (n : Nat) : Fld := ⟨INST.CMD_STATUS.reg n, 31, 16⟩
def INST.CMD_STATUS.ACTOR (n : Nat) : Fld := ⟨INST.CMD_STATUS.reg n, 47, 32⟩

/-! Names of RING. -/

def RING.CMD.reg : Nat := RING.base + 0x40
def RING.CMD.OP : Fld := ⟨RING.CMD.reg, 3, 0⟩
def RING.CMD.CR : Fld := ⟨RING.CMD.reg, 4, 4⟩
def RING.CMD.NUMBER : Fld := ⟨RING.CMD.reg, 24, 8⟩
def RING.CMD_STATUS.reg : Nat := RING.base + 0x48
def RING.CMD_STATUS.STATUS : Fld := ⟨RING.CMD_STATUS.reg, 15, 0⟩
def RING.CMD_STATUS.CR : Fld := ⟨RING.CMD_STATUS.reg, 16, 16⟩
def RING.CMD_STATUS.NUMBER : Fld := ⟨RING.CMD_STATUS.reg, 33, 17⟩
def RING.CMD_STATUS.ACTOR : Fld := ⟨RING.CMD_STATUS.reg, 49, 34⟩
def RING.ERR_LOG.reg : Nat := RING.base + 0x50
def RING.ERR_LOG.WQ : Fld := ⟨RING.ERR_LOG.reg, 16, 0⟩
def RING.ERR_LOG.REASON : Fld := ⟨RING.ERR_LOG.reg, 31, 24⟩
def RING.ERR_LOG.INDEX : Fld := ⟨RING.ERR_LOG.reg, 63, 32⟩
def RING.INT_INVALID.reg : Nat := RING.base + 0x58
def RING.INT_INVALID.COUNT : Fld := ⟨RING.INT_INVALID.reg, 31, 0⟩

/-! Names of PARSE. -/

def PARSE.CFG_STAT.reg : Nat := PARSE.base + 0x40
def PARSE.CFG_STAT.CUR_VER : Fld := ⟨PARSE.CFG_STAT.reg, 7, 0⟩
def PARSE.CFG_STAT.STAGED : Fld := ⟨PARSE.CFG_STAT.reg, 8, 8⟩
def PARSE.DROP.reg (s : Nat) : Nat := PARSE.base + 0x80 + 8 * s
def PARSE.DROP.TRUNC (s : Nat) : Fld := ⟨PARSE.DROP.reg s, 31, 0⟩
def PARSE.DROP.MALF (s : Nat) : Fld := ⟨PARSE.DROP.reg s, 63, 32⟩
def PARSE.LAST_EXC.reg : Nat := PARSE.base + 0xe0
def PARSE.LAST_EXC.CLASS : Fld := ⟨PARSE.LAST_EXC.reg, 1, 0⟩
def PARSE.LAST_EXC.ACTION : Fld := ⟨PARSE.LAST_EXC.reg, 3, 2⟩
def PARSE.LAST_EXC.SOURCE : Fld := ⟨PARSE.LAST_EXC.reg, 7, 4⟩
def PARSE.LAST_EXC.REASON : Fld := ⟨PARSE.LAST_EXC.reg, 15, 8⟩
def PARSE.LAST_EXC.OFFSET : Fld := ⟨PARSE.LAST_EXC.reg, 25, 16⟩
def PARSE.LAST_EXC.RE_ENTERED : Fld := ⟨PARSE.LAST_EXC.reg, 26, 26⟩
def PARSE.LAST_EXC.VERSION : Fld := ⟨PARSE.LAST_EXC.reg, 39, 32⟩
def PARSE.LAST_EXC_NS.reg : Nat := PARSE.base + 0xe8
def PARSE.LAST_EXC_NS.NS : Fld := ⟨PARSE.LAST_EXC_NS.reg, 63, 0⟩

/-! Names of CLASS. -/

def CLASS.VER.reg : Nat := CLASS.base + 0x40
def CLASS.VER.CUR : Fld := ⟨CLASS.VER.reg, 7, 0⟩
def CLASS.VER.OLDEST : Fld := ⟨CLASS.VER.reg, 15, 8⟩
def CLASS.VER.NLIVE : Fld := ⟨CLASS.VER.reg, 18, 16⟩
def CLASS.SEQ.reg : Nat := CLASS.base + 0x48
def CLASS.SEQ.SEQ : Fld := ⟨CLASS.SEQ.reg, 63, 0⟩
def CLASS.COMMIT.reg : Nat := CLASS.base + 0x50
def CLASS.COMMIT.VERSION : Fld := ⟨CLASS.COMMIT.reg, 7, 0⟩
def CLASS.COMMIT_STAT.reg : Nat := CLASS.base + 0x58
def CLASS.COMMIT_STAT.STATUS : Fld := ⟨CLASS.COMMIT_STAT.reg, 15, 0⟩
def CLASS.COMMIT_STAT.VERSION : Fld := ⟨CLASS.COMMIT_STAT.reg, 23, 16⟩
def CLASS.COMMIT_STAT.BY_TRIG : Fld := ⟨CLASS.COMMIT_STAT.reg, 24, 24⟩
def CLASS.COMMIT_STAT.ACTOR : Fld := ⟨CLASS.COMMIT_STAT.reg, 47, 32⟩
def CLASS.COMMIT_NS.reg : Nat := CLASS.base + 0x60
def CLASS.COMMIT_NS.NS : Fld := ⟨CLASS.COMMIT_NS.reg, 63, 0⟩
def CLASS.VCOUNT.reg (k : Nat) : Nat := CLASS.base + 0x80 + 8 * k
def CLASS.VCOUNT.HOLDERS (k : Nat) : Fld := ⟨CLASS.VCOUNT.reg k, 31, 0⟩
def CLASS.VCOUNT.VERSION (k : Nat) : Fld := ⟨CLASS.VCOUNT.reg k, 39, 32⟩
def CLASS.RULE_CNT.reg : Nat := CLASS.base + 0xa0
def CLASS.RULE_CNT.LIVE : Fld := ⟨CLASS.RULE_CNT.reg, 16, 0⟩
def CLASS.RULE_CNT.PENDING : Fld := ⟨CLASS.RULE_CNT.reg, 48, 32⟩
def CLASS.RULE_CNT2.reg : Nat := CLASS.base + 0xa8
def CLASS.RULE_CNT2.DEAD : Fld := ⟨CLASS.RULE_CNT2.reg, 16, 0⟩
def CLASS.RULE_CNT2.FREE : Fld := ⟨CLASS.RULE_CNT2.reg, 48, 32⟩
def CLASS.DROPPED.reg : Nat := CLASS.base + 0xb0
def CLASS.DROPPED.COUNT : Fld := ⟨CLASS.DROPPED.reg, 47, 0⟩
def CLASS.NOMATCH.reg : Nat := CLASS.base + 0xb8
def CLASS.NOMATCH.COUNT : Fld := ⟨CLASS.NOMATCH.reg, 47, 0⟩

/-! Names of FLOW. -/

def FLOW.HASH_SEED.reg : Nat := FLOW.base + 0x40
def FLOW.HASH_SEED.SEED : Fld := ⟨FLOW.HASH_SEED.reg, 31, 0⟩
def FLOW.INS_STAT.reg : Nat := FLOW.base + 0x48
def FLOW.INS_STAT.INDEX : Fld := ⟨FLOW.INS_STAT.reg, 21, 0⟩
def FLOW.INS_STAT.STATUS : Fld := ⟨FLOW.INS_STAT.reg, 47, 32⟩
def FLOW.INS_STAT.REASON : Fld := ⟨FLOW.INS_STAT.reg, 50, 48⟩
def FLOW.COUNT.reg : Nat := FLOW.base + 0x50
def FLOW.COUNT.VALID : Fld := ⟨FLOW.COUNT.reg, 22, 0⟩
def FLOW.COUNT.LIST : Fld := ⟨FLOW.COUNT.reg, 54, 32⟩
def FLOW.LOOKUP.reg : Nat := FLOW.base + 0x58
def FLOW.LOOKUP.HIT : Fld := ⟨FLOW.LOOKUP.reg, 31, 0⟩
def FLOW.LOOKUP.MISS : Fld := ⟨FLOW.LOOKUP.reg, 63, 32⟩
def FLOW.CACHE.reg : Nat := FLOW.base + 0x60
def FLOW.CACHE.HIT : Fld := ⟨FLOW.CACHE.reg, 31, 0⟩
def FLOW.CACHE.FILL : Fld := ⟨FLOW.CACHE.reg, 63, 32⟩
def FLOW.LEARN.reg : Nat := FLOW.base + 0x68
def FLOW.LEARN.LEARNED : Fld := ⟨FLOW.LEARN.reg, 31, 0⟩
def FLOW.LEARN.SKIPPED : Fld := ⟨FLOW.LEARN.reg, 63, 32⟩
def FLOW.AGE.reg : Nat := FLOW.base + 0x70
def FLOW.AGE.SCAN_MS : Fld := ⟨FLOW.AGE.reg, 15, 0⟩
def FLOW.AGE.AGED : Fld := ⟨FLOW.AGE.reg, 63, 32⟩
def FLOW.DROPS.reg : Nat := FLOW.base + 0x78
def FLOW.DROPS.WORD : Fld := ⟨FLOW.DROPS.reg, 31, 0⟩
def FLOW.DROPS.RED : Fld := ⟨FLOW.DROPS.reg, 63, 32⟩
def FLOW.PUNTS.reg : Nat := FLOW.base + 0x80
def FLOW.PUNTS.PUNTS : Fld := ⟨FLOW.PUNTS.reg, 31, 0⟩
def FLOW.PUNTS.FAULTS : Fld := ⟨FLOW.PUNTS.reg, 63, 32⟩
def FLOW.LAST_FAULT.reg : Nat := FLOW.base + 0x88
def FLOW.LAST_FAULT.REASON : Fld := ⟨FLOW.LAST_FAULT.reg, 7, 0⟩
def FLOW.LAST_FAULT.WORD : Fld := ⟨FLOW.LAST_FAULT.reg, 12, 8⟩
def FLOW.LAST_FAULT.FLOW_INDEX : Fld := ⟨FLOW.LAST_FAULT.reg, 47, 16⟩

/-! Names of COMB. -/

def COMB.POOL.reg : Nat := COMB.base + 0x40
def COMB.POOL.SHARED : Fld := ⟨COMB.POOL.reg, 18, 0⟩
def COMB.POOL.FREE : Fld := ⟨COMB.POOL.reg, 50, 32⟩
def COMB.BEELINE_RSV.reg : Nat := COMB.base + 0x48
def COMB.BEELINE_RSV.CELLS : Fld := ⟨COMB.BEELINE_RSV.reg, 18, 0⟩
def COMB.BEELINE_RSV.USED : Fld := ⟨COMB.BEELINE_RSV.reg, 50, 32⟩
def COMB.SHARED_XOFF.reg : Nat := COMB.base + 0x50
def COMB.SHARED_XOFF.XOFF : Fld := ⟨COMB.SHARED_XOFF.reg, 18, 0⟩
def COMB.SHARED_XOFF.XON : Fld := ⟨COMB.SHARED_XOFF.reg, 50, 32⟩
def COMB.NO_CELL.reg : Nat := COMB.base + 0x58
def COMB.NO_CELL.COUNT : Fld := ⟨COMB.NO_CELL.reg, 31, 0⟩
def COMB.NO_CELL.PORT : Fld := ⟨COMB.NO_CELL.reg, 34, 32⟩
def COMB.NO_CELL.TC : Fld := ⟨COMB.NO_CELL.reg, 37, 35⟩
def COMB.STUCK.reg : Nat := COMB.base + 0x60
def COMB.STUCK.INSTANCE : Fld := ⟨COMB.STUCK.reg, 10, 0⟩
def COMB.STUCK.CELLS : Fld := ⟨COMB.STUCK.reg, 22, 16⟩
def COMB.INST_ECN.reg : Nat := COMB.base + 0x68
def COMB.INST_ECN.MIN_PCT : Fld := ⟨COMB.INST_ECN.reg, 7, 0⟩
def COMB.INST_ECN.MAX_PCT : Fld := ⟨COMB.INST_ECN.reg, 15, 8⟩
def COMB.XOFF_STATE.reg : Nat := COMB.base + 0x70
def COMB.XOFF_STATE.XOFF : Fld := ⟨COMB.XOFF_STATE.reg, 63, 0⟩
def COMB.WATCHDOG.reg : Nat := COMB.base + 0x78
def COMB.WATCHDOG.MS : Fld := ⟨COMB.WATCHDOG.reg, 15, 0⟩
def COMB.WATCHDOG.PORT : Fld := ⟨COMB.WATCHDOG.reg, 18, 16⟩
def COMB.WATCHDOG.TC : Fld := ⟨COMB.WATCHDOG.reg, 21, 19⟩
def COMB.HIVE_LIMIT.reg : Nat := COMB.base + 0x80
def COMB.HIVE_LIMIT.CELLS : Fld := ⟨COMB.HIVE_LIMIT.reg, 18, 0⟩
def COMB.COPY_SKIPPED.reg : Nat := COMB.base + 0x88
def COMB.COPY_SKIPPED.COUNT : Fld := ⟨COMB.COPY_SKIPPED.reg, 47, 0⟩
def COMB.SWARM_SKIP.reg : Nat := COMB.base + 0x90
def COMB.SWARM_SKIP.COUNT : Fld := ⟨COMB.SWARM_SKIP.reg, 47, 0⟩
def COMB.DEST_SKIP.reg : Nat := COMB.base + 0x98
def COMB.DEST_SKIP.COUNT : Fld := ⟨COMB.DEST_SKIP.reg, 47, 0⟩
def COMB.RSV_CLAIM.reg (r : Nat) : Nat := COMB.base + 0x200 + 8 * r
def COMB.RSV_CLAIM.OWNER (r : Nat) : Fld := ⟨COMB.RSV_CLAIM.reg r, 15, 0⟩
def COMB.RSV_CLAIM.CLAIM (r : Nat) : Fld := ⟨COMB.RSV_CLAIM.reg r, 16, 16⟩
def COMB.RSV_CLAIM.RELEASE (r : Nat) : Fld := ⟨COMB.RSV_CLAIM.reg r, 17, 17⟩
def COMB.RSV_CLAIM.FORCE (r : Nat) : Fld := ⟨COMB.RSV_CLAIM.reg r, 18, 18⟩
def COMB.RSV_CLAIM.DENIED (r : Nat) : Fld := ⟨COMB.RSV_CLAIM.reg r, 47, 32⟩

/-! Names of SCHED. -/

def SCHED.LEAF_REDIRECT.reg : Nat := SCHED.base + 0x40
def SCHED.LEAF_REDIRECT.COUNT : Fld := ⟨SCHED.LEAF_REDIRECT.reg, 47, 0⟩
def SCHED.TELE_STAT.reg : Nat := SCHED.base + 0x48
def SCHED.TELE_STAT.SAMPLES : Fld := ⟨SCHED.TELE_STAT.reg, 31, 0⟩
def SCHED.TELE_STAT.REFUSED : Fld := ⟨SCHED.TELE_STAT.reg, 63, 32⟩

/-! Names of BEELINE. -/

def BEELINE.PENDING.reg : Nat := BEELINE.base + 0x40
def BEELINE.PENDING.COUNT : Fld := ⟨BEELINE.PENDING.reg, 18, 0⟩
def BEELINE.PENDING.PEAK : Fld := ⟨BEELINE.PENDING.reg, 50, 32⟩
def BEELINE.LEAD.reg : Nat := BEELINE.base + 0x48
def BEELINE.LEAD.NS : Fld := ⟨BEELINE.LEAD.reg, 15, 0⟩
def BEELINE.LATE.reg : Nat := BEELINE.base + 0x50
def BEELINE.LATE.SENT : Fld := ⟨BEELINE.LATE.reg, 31, 0⟩
def BEELINE.LATE.UNSENT : Fld := ⟨BEELINE.LATE.reg, 63, 32⟩
def BEELINE.FAR.reg : Nat := BEELINE.base + 0x58
def BEELINE.FAR.COUNT : Fld := ⟨BEELINE.FAR.reg, 31, 0⟩
def BEELINE.LAST_LATE.reg : Nat := BEELINE.base + 0x60
def BEELINE.LAST_LATE.WQ : Fld := ⟨BEELINE.LAST_LATE.reg, 16, 0⟩
def BEELINE.LAST_LATE.REASON : Fld := ⟨BEELINE.LAST_LATE.reg, 19, 17⟩
def BEELINE.LAST_LATE.PORT : Fld := ⟨BEELINE.LAST_LATE.reg, 22, 20⟩
def BEELINE.LAST_LATE.SENT : Fld := ⟨BEELINE.LAST_LATE.reg, 23, 23⟩
def BEELINE.LAST_LATE.LAG : Fld := ⟨BEELINE.LAST_LATE.reg, 63, 32⟩
def BEELINE.PORT_CTL.reg (p : Nat) : Nat := BEELINE.base + 0x100 + 8 * p
def BEELINE.PORT_CTL.GUARD (p : Nat) : Fld := ⟨BEELINE.PORT_CTL.reg p, 0, 0⟩
def BEELINE.PORT_CTL.PREEMPT (p : Nat) : Fld := ⟨BEELINE.PORT_CTL.reg p, 1, 1⟩
def BEELINE.PORT_CTL.HOLD_NS (p : Nat) : Fld := ⟨BEELINE.PORT_CTL.reg p, 15, 8⟩

/-! Names of SCARAB. -/

def SCARAB.STATE.reg : Nat := SCARAB.base + 0x40
def SCARAB.STATE.ALARMED : Fld := ⟨SCARAB.STATE.reg, 0, 0⟩
def SCARAB.STATE.CAUSE : Fld := ⟨SCARAB.STATE.reg, 3, 1⟩
def SCARAB.STATE.ALARMS : Fld := ⟨SCARAB.STATE.reg, 31, 16⟩
def SCARAB.STATE.KEK_EPOCH : Fld := ⟨SCARAB.STATE.reg, 63, 32⟩
def SCARAB.ALARM_NS.reg : Nat := SCARAB.base + 0x48
def SCARAB.ALARM_NS.NS : Fld := ⟨SCARAB.ALARM_NS.reg, 63, 0⟩
def SCARAB.PAIR_FAULT.reg : Nat := SCARAB.base + 0x50
def SCARAB.PAIR_FAULT.FAULTED : Fld := ⟨SCARAB.PAIR_FAULT.reg, 19, 0⟩
def SCARAB.MISMATCH.reg : Nat := SCARAB.base + 0x58
def SCARAB.MISMATCH.COUNT : Fld := ⟨SCARAB.MISMATCH.reg, 31, 0⟩
def SCARAB.MISMATCH.PAIR : Fld := ⟨SCARAB.MISMATCH.reg, 36, 32⟩
def SCARAB.PROG_CTL.reg : Nat := SCARAB.base + 0x60
def SCARAB.PROG_CTL.VERIFY : Fld := ⟨SCARAB.PROG_CTL.reg, 0, 0⟩
def SCARAB.PROG_CTL.ROLL : Fld := ⟨SCARAB.PROG_CTL.reg, 1, 1⟩
def SCARAB.PROG_CTL.DISCARD : Fld := ⟨SCARAB.PROG_CTL.reg, 2, 2⟩
def SCARAB.PROG_STAT.reg : Nat := SCARAB.base + 0x68
def SCARAB.PROG_STAT.RESULT : Fld := ⟨SCARAB.PROG_STAT.reg, 7, 0⟩
def SCARAB.PROG_STAT.ROLLING : Fld := ⟨SCARAB.PROG_STAT.reg, 9, 9⟩
def SCARAB.PROG_STAT.SEQ : Fld := ⟨SCARAB.PROG_STAT.reg, 14, 10⟩
def SCARAB.PROG_STAT.ACTIVE_VER : Fld := ⟨SCARAB.PROG_STAT.reg, 31, 16⟩
def SCARAB.PROG_STAT.STAGED_VER : Fld := ⟨SCARAB.PROG_STAT.reg, 47, 32⟩
def SCARAB.SLOT_SEL.reg : Nat := SCARAB.base + 0x70
def SCARAB.SLOT_SEL.SLOT : Fld := ⟨SCARAB.SLOT_SEL.reg, 19, 0⟩
def SCARAB.SLOT_CTL.reg : Nat := SCARAB.base + 0x78
def SCARAB.SLOT_CTL.STATE : Fld := ⟨SCARAB.SLOT_CTL.reg, 2, 0⟩
def SCARAB.SLOT_CTL.PENDING : Fld := ⟨SCARAB.SLOT_CTL.reg, 3, 3⟩
def SCARAB.SLOT_CTL.DRAINING : Fld := ⟨SCARAB.SLOT_CTL.reg, 5, 4⟩
def SCARAB.SLOT_CTL.OP : Fld := ⟨SCARAB.SLOT_CTL.reg, 15, 8⟩
def SCARAB.SLOT_CTL.GEN : Fld := ⟨SCARAB.SLOT_CTL.reg, 47, 16⟩
def SCARAB.SLOT_USES.reg : Nat := SCARAB.base + 0x80
def SCARAB.SLOT_USES.CUR : Fld := ⟨SCARAB.SLOT_USES.reg, 31, 0⟩
def SCARAB.SLOT_USES.OLD : Fld := ⟨SCARAB.SLOT_USES.reg, 63, 32⟩
def SCARAB.REPLAY_BASE.reg : Nat := SCARAB.base + 0x88
def SCARAB.REPLAY_BASE.ADDR : Fld := ⟨SCARAB.REPLAY_BASE.reg, 35, 0⟩
def SCARAB.TLS_SYNC_A.reg : Nat := SCARAB.base + 0x90
def SCARAB.TLS_SYNC_A.FLOW : Fld := ⟨SCARAB.TLS_SYNC_A.reg, 21, 0⟩
def SCARAB.TLS_SYNC_A.SLOT : Fld := ⟨SCARAB.TLS_SYNC_A.reg, 43, 24⟩
def SCARAB.TLS_SYNC_A.TX : Fld := ⟨SCARAB.TLS_SYNC_A.reg, 44, 44⟩
def SCARAB.TLS_SYNC_A.L : Fld := ⟨SCARAB.TLS_SYNC_A.reg, 48, 45⟩
def SCARAB.TLS_SYNC_A.GO : Fld := ⟨SCARAB.TLS_SYNC_A.reg, 63, 63⟩
def SCARAB.TLS_SYNC_B.reg : Nat := SCARAB.base + 0x98
def SCARAB.TLS_SYNC_B.SEQ : Fld := ⟨SCARAB.TLS_SYNC_B.reg, 31, 0⟩
def SCARAB.TLS_SYNC_B.STATUS : Fld := ⟨SCARAB.TLS_SYNC_B.reg, 47, 32⟩
def SCARAB.TLS_SYNC_C.reg : Nat := SCARAB.base + 0xa0
def SCARAB.TLS_SYNC_C.RECORD : Fld := ⟨SCARAB.TLS_SYNC_C.reg, 63, 0⟩
def SCARAB.INLINE_FAIL0.reg : Nat := SCARAB.base + 0xa8
def SCARAB.INLINE_FAIL0.AUTH : Fld := ⟨SCARAB.INLINE_FAIL0.reg, 31, 0⟩
def SCARAB.INLINE_FAIL0.REPLAY : Fld := ⟨SCARAB.INLINE_FAIL0.reg, 63, 32⟩
def SCARAB.INLINE_FAIL1.reg : Nat := SCARAB.base + 0xb0
def SCARAB.INLINE_FAIL1.KEY : Fld := ⟨SCARAB.INLINE_FAIL1.reg, 31, 0⟩
def SCARAB.INLINE_FAIL1.FORMAT : Fld := ⟨SCARAB.INLINE_FAIL1.reg, 63, 32⟩
def SCARAB.LIMIT_LOG.reg : Nat := SCARAB.base + 0xb8
def SCARAB.LIMIT_LOG.SOFT_SLOT : Fld := ⟨SCARAB.LIMIT_LOG.reg, 19, 0⟩
def SCARAB.LIMIT_LOG.EXH_SLOT : Fld := ⟨SCARAB.LIMIT_LOG.reg, 51, 32⟩

/-! Names of STOR. -/

def STOR.INFLIGHT.reg : Nat := STOR.base + 0x40
def STOR.INFLIGHT.REQS : Fld := ⟨STOR.INFLIGHT.reg, 15, 0⟩
def STOR.INFLIGHT.PARTS : Fld := ⟨STOR.INFLIGHT.reg, 49, 32⟩
def STOR.MAP_FENCE.reg : Nat := STOR.base + 0x48
def STOR.MAP_FENCE.REQ : Fld := ⟨STOR.MAP_FENCE.reg, 0, 0⟩
def STOR.MAP_FENCE.DONE : Fld := ⟨STOR.MAP_FENCE.reg, 1, 1⟩
def STOR.PART_FAIL.reg : Nat := STOR.base + 0x50
def STOR.PART_FAIL.COUNT : Fld := ⟨STOR.PART_FAIL.reg, 31, 0⟩
def STOR.PART_FAIL.CAUSE : Fld := ⟨STOR.PART_FAIL.reg, 35, 32⟩
def STOR.PART_FAIL.CONN : Fld := ⟨STOR.PART_FAIL.reg, 47, 36⟩
def STOR.PART_FAIL.NS : Fld := ⟨STOR.PART_FAIL.reg, 60, 48⟩
def STOR.TIMEOUTS.reg : Nat := STOR.base + 0x58
def STOR.TIMEOUTS.COUNT : Fld := ⟨STOR.TIMEOUTS.reg, 31, 0⟩

/-! Names of FORAGER. -/

def FORAGER.GRP_CTL.reg (c : Nat) : Nat := FORAGER.base + 0x40 + 8 * c
def FORAGER.GRP_CTL.INTERLEAVED (c : Nat) : Fld := ⟨FORAGER.GRP_CTL.reg c, 0, 0⟩
def FORAGER.GRP_CTL.STOR (c : Nat) : Fld := ⟨FORAGER.GRP_CTL.reg c, 1, 1⟩
def FORAGER.GRP_CTL.MODE_NOW (c : Nat) : Fld := ⟨FORAGER.GRP_CTL.reg c, 2, 2⟩
def FORAGER.GRP_CLAIM.reg (c : Nat) : Nat := FORAGER.base + 0x80 + 8 * c
def FORAGER.GRP_CLAIM.OWNER (c : Nat) : Fld := ⟨FORAGER.GRP_CLAIM.reg c, 15, 0⟩
def FORAGER.GRP_CLAIM.CLAIM (c : Nat) : Fld := ⟨FORAGER.GRP_CLAIM.reg c, 16, 16⟩
def FORAGER.GRP_CLAIM.RELEASE (c : Nat) : Fld := ⟨FORAGER.GRP_CLAIM.reg c, 17, 17⟩
def FORAGER.GRP_CLAIM.FORCE (c : Nat) : Fld := ⟨FORAGER.GRP_CLAIM.reg c, 18, 18⟩
def FORAGER.GRP_CLAIM.DENIED (c : Nat) : Fld := ⟨FORAGER.GRP_CLAIM.reg c, 47, 32⟩
def FORAGER.CH_DB.reg (c : Nat) : Nat := FORAGER.base + 0x1000 + 16 * c
def FORAGER.CH_DB.PROD (c : Nat) : Fld := ⟨FORAGER.CH_DB.reg c, 31, 0⟩
def FORAGER.CH_CTL.reg (c : Nat) : Nat := FORAGER.base + 0x1008 + 16 * c
def FORAGER.CH_CTL.OP (c : Nat) : Fld := ⟨FORAGER.CH_CTL.reg c, 3, 0⟩
def FORAGER.CH_CTL.STATE (c : Nat) : Fld := ⟨FORAGER.CH_CTL.reg c, 11, 8⟩
def FORAGER.CH_CTL.STATUS (c : Nat) : Fld := ⟨FORAGER.CH_CTL.reg c, 27, 12⟩

/-! Names of HIVE. -/

def HIVE.CFG.reg (h : Nat) : Nat := HIVE.base h + 0x40
def HIVE.CFG.FAULT_MODE (h : Nat) : Fld := ⟨HIVE.CFG.reg h, 0, 0⟩
def HIVE.CFG.PARTNER (h : Nat) : Fld := ⟨HIVE.CFG.reg h, 11, 8⟩
def HIVE.RING_CFG.reg (h : Nat) : Nat := HIVE.base h + 0x48
def HIVE.RING_CFG.INTAKE_BASE (h : Nat) : Fld := ⟨HIVE.RING_CFG.reg h, 14, 0⟩
def HIVE.RING_CFG.INTAKE_LOG2 (h : Nat) : Fld := ⟨HIVE.RING_CFG.reg h, 19, 16⟩
def HIVE.RING_CFG.TXTS_BASE (h : Nat) : Fld := ⟨HIVE.RING_CFG.reg h, 46, 32⟩
def HIVE.RING_CFG.TXTS_LOG2 (h : Nat) : Fld := ⟨HIVE.RING_CFG.reg h, 51, 48⟩
def HIVE.INTAKE_IDX.reg (h : Nat) : Nat := HIVE.base h + 0x50
def HIVE.INTAKE_IDX.PROD (h : Nat) : Fld := ⟨HIVE.INTAKE_IDX.reg h, 31, 0⟩
def HIVE.INTAKE_IDX.CONS (h : Nat) : Fld := ⟨HIVE.INTAKE_IDX.reg h, 63, 32⟩
def HIVE.TXTS_IDX.reg (h : Nat) : Nat := HIVE.base h + 0x58
def HIVE.TXTS_IDX.PROD (h : Nat) : Fld := ⟨HIVE.TXTS_IDX.reg h, 31, 0⟩
def HIVE.TXTS_IDX.CONS (h : Nat) : Fld := ⟨HIVE.TXTS_IDX.reg h, 63, 32⟩
def HIVE.HELD.reg (h : Nat) : Nat := HIVE.base h + 0x60
def HIVE.HELD.PACKETS (h : Nat) : Fld := ⟨HIVE.HELD.reg h, 31, 0⟩
def HIVE.HELD.NOTICES_LOST (h : Nat) : Fld := ⟨HIVE.HELD.reg h, 47, 32⟩
def HIVE.HELD.FORCED (h : Nat) : Fld := ⟨HIVE.HELD.reg h, 63, 48⟩
def HIVE.STALL.reg (h : Nat) : Nat := HIVE.base h + 0x68
def HIVE.STALL.COUNT (h : Nat) : Fld := ⟨HIVE.STALL.reg h, 31, 0⟩
def HIVE.STALL.ACTIVE (h : Nat) : Fld := ⟨HIVE.STALL.reg h, 32, 32⟩
def HIVE.FAULT_LOG.reg (h : Nat) : Nat := HIVE.base h + 0x70
def HIVE.FAULT_LOG.VALID (h : Nat) : Fld := ⟨HIVE.FAULT_LOG.reg h, 0, 0⟩
def HIVE.FAULT_LOG.THREAD (h : Nat) : Fld := ⟨HIVE.FAULT_LOG.reg h, 13, 8⟩
def HIVE.FAULT_LOG.CODE (h : Nat) : Fld := ⟨HIVE.FAULT_LOG.reg h, 23, 16⟩
def HIVE.FAULT_LOG.PARKED (h : Nat) : Fld := ⟨HIVE.FAULT_LOG.reg h, 24, 24⟩
def HIVE.FAULT_LOG.COUNT (h : Nat) : Fld := ⟨HIVE.FAULT_LOG.reg h, 63, 32⟩
def HIVE.FAULT_PC.reg (h : Nat) : Nat := HIVE.base h + 0x78
def HIVE.FAULT_PC.VALUE (h : Nat) : Fld := ⟨HIVE.FAULT_PC.reg h, 63, 0⟩
def HIVE.FAULT_ADDR.reg (h : Nat) : Nat := HIVE.base h + 0x80
def HIVE.FAULT_ADDR.VALUE (h : Nat) : Fld := ⟨HIVE.FAULT_ADDR.reg h, 63, 0⟩
def HIVE.MIGRATE.reg (h : Nat) : Nat := HIVE.base h + 0x88
def HIVE.MIGRATE.DONE (h : Nat) : Fld := ⟨HIVE.MIGRATE.reg h, 0, 0⟩
def HIVE.MIGRATE.PENDING (h : Nat) : Fld := ⟨HIVE.MIGRATE.reg h, 1, 1⟩
def HIVE.MIGRATE.TIMEOUT_MS (h : Nat) : Fld := ⟨HIVE.MIGRATE.reg h, 31, 16⟩
def HIVE.SECURE.reg (h : Nat) : Nat := HIVE.base h + 0x90
def HIVE.SECURE.THREADS (h : Nat) : Fld := ⟨HIVE.SECURE.reg h, 63, 0⟩
def HIVE.SECURE_REGION.reg (h : Nat) : Nat := HIVE.base h + 0x98
def HIVE.SECURE_REGION.SIZE (h : Nat) : Fld := ⟨HIVE.SECURE_REGION.reg h, 7, 0⟩
def HIVE.THREAD_CTL.reg (h : Nat) : Nat := HIVE.base h + 0xa0
def HIVE.THREAD_CTL.THREAD (h : Nat) : Fld := ⟨HIVE.THREAD_CTL.reg h, 5, 0⟩
def HIVE.THREAD_CTL.OP (h : Nat) : Fld := ⟨HIVE.THREAD_CTL.reg h, 11, 8⟩
def HIVE.THREAD_CTL.ENTRY (h : Nat) : Fld := ⟨HIVE.THREAD_CTL.reg h, 34, 16⟩
def HIVE.THREAD_CTL.STATUS (h : Nat) : Fld := ⟨HIVE.THREAD_CTL.reg h, 63, 48⟩
def HIVE.RELEASED.reg (h : Nat) : Nat := HIVE.base h + 0xa8
def HIVE.RELEASED.COUNT (h : Nat) : Fld := ⟨HIVE.RELEASED.reg h, 47, 0⟩
def HIVE.THREAD_STATE.reg (h : Nat) (t : Nat) : Nat := HIVE.base h + 0x200 + 8 * t
def HIVE.THREAD_STATE.STATE (h : Nat) (t : Nat) : Fld := ⟨HIVE.THREAD_STATE.reg h t, 3, 0⟩
def HIVE.THREAD_STATE.LAST_FAULT (h : Nat) (t : Nat) : Fld := ⟨HIVE.THREAD_STATE.reg h t, 15, 8⟩
def HIVE.THREAD_STATE.PENDING (h : Nat) (t : Nat) : Fld := ⟨HIVE.THREAD_STATE.reg h t, 31, 16⟩
def HIVE.THREAD_STATE.MASK (h : Nat) (t : Nat) : Fld := ⟨HIVE.THREAD_STATE.reg h t, 47, 32⟩
def HIVE.THREAD_STATE.SECURE (h : Nat) (t : Nat) : Fld := ⟨HIVE.THREAD_STATE.reg h t, 48, 48⟩
def HIVE.THREAD_STATE.STAGED (h : Nat) (t : Nat) : Fld := ⟨HIVE.THREAD_STATE.reg h t, 49, 49⟩

/-! Names of CH. -/

def CH.REQ_AB.reg (b : Nat) : Nat := b + 0x0
def CH.REQ_AB.DATA (b : Nat) : Fld := ⟨CH.REQ_AB.reg b, 63, 0⟩
def CH.REP_BA.reg (b : Nat) : Nat := b + 0x8
def CH.REP_BA.DATA (b : Nat) : Fld := ⟨CH.REP_BA.reg b, 63, 0⟩
def CH.REQ_BA.reg (b : Nat) : Nat := b + 0x10
def CH.REQ_BA.DATA (b : Nat) : Fld := ⟨CH.REQ_BA.reg b, 63, 0⟩
def CH.REP_AB.reg (b : Nat) : Nat := b + 0x18
def CH.REP_AB.DATA (b : Nat) : Fld := ⟨CH.REP_AB.reg b, 63, 0⟩
def CH.STAT.reg (b : Nat) : Nat := b + 0x20
def CH.STAT.FULL (b : Nat) : Fld := ⟨CH.STAT.reg b, 3, 0⟩
def CH.STAT.OVERRUN (b : Nat) : Fld := ⟨CH.STAT.reg b, 7, 4⟩
def CH.STAT.UNDERRUN (b : Nat) : Fld := ⟨CH.STAT.reg b, 11, 8⟩
def CH.STAT.AWAIT_A (b : Nat) : Fld := ⟨CH.STAT.reg b, 12, 12⟩
def CH.STAT.AWAIT_B (b : Nat) : Fld := ⟨CH.STAT.reg b, 13, 13⟩
def CH.STAT.CROSSED (b : Nat) : Fld := ⟨CH.STAT.reg b, 14, 14⟩
def CH.CFG.reg (b : Nat) : Nat := b + 0x28
def CH.CFG.A_ACTOR (b : Nat) : Fld := ⟨CH.CFG.reg b, 15, 0⟩
def CH.CFG.B_ACTOR (b : Nat) : Fld := ⟨CH.CFG.reg b, 31, 16⟩
def CH.CFG.B_DB (b : Nat) : Fld := ⟨CH.CFG.reg b, 41, 32⟩
def CH.CFG.A_NOTE (b : Nat) : Fld := ⟨CH.CFG.reg b, 52, 42⟩
def CH.CFG.A_EN (b : Nat) : Fld := ⟨CH.CFG.reg b, 53, 53⟩
def CH.CFG.B_EN (b : Nat) : Fld := ⟨CH.CFG.reg b, 54, 54⟩
def CH.CFG.SECURE (b : Nat) : Fld := ⟨CH.CFG.reg b, 55, 55⟩

/-! Names of WAGGLE. -/

def WAGGLE.DB_CFG.reg (w : Nat) (d : Nat) : Nat := WAGGLE.base w + 0x2000 + 16 * d
def WAGGLE.DB_CFG.THREADS (w : Nat) (d : Nat) : Fld := ⟨WAGGLE.DB_CFG.reg w d, 63, 0⟩
def WAGGLE.DB_CFG.VECTOR (w : Nat) (d : Nat) : Fld := ⟨WAGGLE.DB_CFG.reg w d, 10, 0⟩
def WAGGLE.DB_CFG.LINK (w : Nat) (d : Nat) : Fld := ⟨WAGGLE.DB_CFG.reg w d, 13, 12⟩
def WAGGLE.DB_CFG.EN (w : Nat) (d : Nat) : Fld := ⟨WAGGLE.DB_CFG.reg w d, 14, 14⟩
def WAGGLE.DB_RING.reg (w : Nat) (d : Nat) : Nat := WAGGLE.base w + 0x2008 + 16 * d
def WAGGLE.DB_RING.RING (w : Nat) (d : Nat) : Fld := ⟨WAGGLE.DB_RING.reg w d, 0, 0⟩
def WAGGLE.LOCK.reg (w : Nat) (d : Nat) : Nat := WAGGLE.base w + 0x1000 + 8 * d
def WAGGLE.LOCK.OWNER (w : Nat) (d : Nat) : Fld := ⟨WAGGLE.LOCK.reg w d, 15, 0⟩
def WAGGLE.LOCK.FORCE (w : Nat) (d : Nat) : Fld := ⟨WAGGLE.LOCK.reg w d, 63, 63⟩
def WAGGLE.CFG.reg (w : Nat) : Nat := WAGGLE.base w + 0x40
def WAGGLE.CFG.CROSS_TIMEOUT (w : Nat) : Fld := ⟨WAGGLE.CFG.reg w, 15, 0⟩
def WAGGLE.ERR_LOG.reg (w : Nat) : Nat := WAGGLE.base w + 0x48
def WAGGLE.ERR_LOG.ACTOR (w : Nat) : Fld := ⟨WAGGLE.ERR_LOG.reg w, 15, 0⟩
def WAGGLE.ERR_LOG.KIND (w : Nat) : Fld := ⟨WAGGLE.ERR_LOG.reg w, 18, 16⟩
def WAGGLE.ERR_LOG.WRITE (w : Nat) : Fld := ⟨WAGGLE.ERR_LOG.reg w, 19, 19⟩
def WAGGLE.ERR_LOG.OFFSET (w : Nat) : Fld := ⟨WAGGLE.ERR_LOG.reg w, 39, 20⟩
def WAGGLE.ERR_LOG.COUNT (w : Nat) : Fld := ⟨WAGGLE.ERR_LOG.reg w, 55, 40⟩

/-! Names of PWR. -/

def PWR.VOTE.reg : Nat := PWR.base + 0x40
def PWR.VOTE.DOMAIN : Fld := ⟨PWR.VOTE.reg, 7, 0⟩
def PWR.VOTE.STATE : Fld := ⟨PWR.VOTE.reg, 11, 8⟩
def PWR.VOTE.SLOT : Fld := ⟨PWR.VOTE.reg, 16, 12⟩
def PWR.OFF.reg : Nat := PWR.base + 0x48
def PWR.OFF.KEY : Fld := ⟨PWR.OFF.reg, 15, 0⟩
def PWR.OFF.STATUS : Fld := ⟨PWR.OFF.reg, 31, 16⟩
def PWR.WAKE_LOG.reg : Nat := PWR.base + 0x50
def PWR.WAKE_LOG.DOMAIN : Fld := ⟨PWR.WAKE_LOG.reg, 7, 0⟩
def PWR.WAKE_LOG.STEP : Fld := ⟨PWR.WAKE_LOG.reg, 10, 8⟩
def PWR.WAKE_LOG.CAUSE : Fld := ⟨PWR.WAKE_LOG.reg, 13, 12⟩
def PWR.WAKE_LOG.FAILS : Fld := ⟨PWR.WAKE_LOG.reg, 31, 16⟩
def PWR.WAKE_LOG_NS.reg : Nat := PWR.base + 0x58
def PWR.WAKE_LOG_NS.NS : Fld := ⟨PWR.WAKE_LOG_NS.reg, 63, 0⟩
def PWR.HOST_WAKE.reg : Nat := PWR.base + 0x60
def PWR.HOST_WAKE.EN : Fld := ⟨PWR.HOST_WAKE.reg, 0, 0⟩
def PWR.HOST_WAKE.ASSERTED : Fld := ⟨PWR.HOST_WAKE.reg, 1, 1⟩
def PWR.HOST_WAKE.LINKS : Fld := ⟨PWR.HOST_WAKE.reg, 5, 2⟩
def PWR.DOM_CTL.reg (k : Nat) : Nat := PWR.base + 0x200 + 16 * k
def PWR.DOM_CTL.LOCKDOWN (k : Nat) : Fld := ⟨PWR.DOM_CTL.reg k, 0, 0⟩
def PWR.DOM_CTL.RETRY (k : Nat) : Fld := ⟨PWR.DOM_CTL.reg k, 1, 1⟩
def PWR.DOM_STAT.reg (k : Nat) : Nat := PWR.base + 0x208 + 16 * k
def PWR.DOM_STAT.STATE (k : Nat) : Fld := ⟨PWR.DOM_STAT.reg k, 3, 0⟩
def PWR.DOM_STAT.TARGET (k : Nat) : Fld := ⟨PWR.DOM_STAT.reg k, 7, 4⟩
def PWR.DOM_STAT.STEP (k : Nat) : Fld := ⟨PWR.DOM_STAT.reg k, 10, 8⟩
def PWR.DOM_STAT.HOLDS (k : Nat) : Fld := ⟨PWR.DOM_STAT.reg k, 15, 12⟩
def PWR.DOM_STAT.XFER (k : Nat) : Fld := ⟨PWR.DOM_STAT.reg k, 47, 16⟩

/-! Names of FWC. -/

def FWC.SRC.reg (s : Nat) : Nat := FWC.base + 0x40 + 16 * s
def FWC.SRC.WINDOW_MS (s : Nat) : Fld := ⟨FWC.SRC.reg s, 31, 0⟩
def FWC.SRC.THRESH (s : Nat) : Fld := ⟨FWC.SRC.reg s, 47, 32⟩
def FWC.SRC.ALERT_T (s : Nat) : Fld := ⟨FWC.SRC.reg s, 48, 48⟩
def FWC.SRC.ALERT_L (s : Nat) : Fld := ⟨FWC.SRC.reg s, 49, 49⟩
def FWC.SRC_STAT.reg (s : Nat) : Nat := FWC.base + 0x48 + 16 * s
def FWC.SRC_STAT.EVENTS (s : Nat) : Fld := ⟨FWC.SRC_STAT.reg s, 31, 0⟩
def FWC.SRC_STAT.LASTING (s : Nat) : Fld := ⟨FWC.SRC_STAT.reg s, 47, 32⟩
def FWC.SRC_STAT.BUCKETED (s : Nat) : Fld := ⟨FWC.SRC_STAT.reg s, 48, 48⟩
def FWC.ALERT.reg : Nat := FWC.base + 0x180
def FWC.ALERT.PEND : Fld := ⟨FWC.ALERT.reg, 7, 0⟩
def FWC.ALERT.ASSERTED : Fld := ⟨FWC.ALERT.reg, 8, 8⟩
def FWC.LAST.reg : Nat := FWC.base + 0x188
def FWC.LAST.SOURCE : Fld := ⟨FWC.LAST.reg, 2, 0⟩
def FWC.LAST.MEMBER : Fld := ⟨FWC.LAST.reg, 39, 8⟩
def FWC.LAST.EXHAUSTED : Fld := ⟨FWC.LAST.reg, 40, 40⟩
def FWC.LAST_NS.reg : Nat := FWC.base + 0x190
def FWC.LAST_NS.NS : Fld := ⟨FWC.LAST_NS.reg, 63, 0⟩
def FWC.AGE.reg (s : Nat) : Nat := FWC.base + 0x200 + 8 * s
def FWC.AGE.MARGIN_PS (s : Nat) : Fld := ⟨FWC.AGE.reg s, 15, 0⟩
def FWC.AGE.WARN_PS (s : Nat) : Fld := ⟨FWC.AGE.reg s, 23, 16⟩
def FWC.AGE.LIFE_H (s : Nat) : Fld := ⟨FWC.AGE.reg s, 63, 32⟩

/-! Names of KEEPER. -/

def KEEPER.BOOT_STAT.reg : Nat := KEEPER.base + 0x40
def KEEPER.BOOT_STAT.IMAGE : Fld := ⟨KEEPER.BOOT_STAT.reg, 1, 0⟩
def KEEPER.BOOT_STAT.FALLBACK : Fld := ⟨KEEPER.BOOT_STAT.reg, 2, 2⟩
def KEEPER.BOOT_STAT.REASON_A : Fld := ⟨KEEPER.BOOT_STAT.reg, 7, 4⟩
def KEEPER.BOOT_STAT.REASON_B : Fld := ⟨KEEPER.BOOT_STAT.reg, 11, 8⟩
def KEEPER.BOOT_STAT.STRAP_BOOT : Fld := ⟨KEEPER.BOOT_STAT.reg, 14, 12⟩
def KEEPER.BOOT_STAT.STRAP_HOST : Fld := ⟨KEEPER.BOOT_STAT.reg, 17, 16⟩
def KEEPER.BOOT_STAT.ROM_VER : Fld := ⟨KEEPER.BOOT_STAT.reg, 31, 24⟩
def KEEPER.BOOT_STAT.SVN : Fld := ⟨KEEPER.BOOT_STAT.reg, 38, 32⟩
def KEEPER.BOOT_NS.reg : Nat := KEEPER.base + 0x48
def KEEPER.BOOT_NS.NS : Fld := ⟨KEEPER.BOOT_NS.reg, 63, 0⟩
def KEEPER.FUSE.reg : Nat := KEEPER.base + 0x50
def KEEPER.FUSE.SVN_FLOOR : Fld := ⟨KEEPER.FUSE.reg, 6, 0⟩
def KEEPER.FUSE.KEY_REVOKED : Fld := ⟨KEEPER.FUSE.reg, 11, 8⟩
def KEEPER.RECOVER.reg : Nat := KEEPER.base + 0x58
def KEEPER.RECOVER.GO : Fld := ⟨KEEPER.RECOVER.reg, 0, 0⟩
def KEEPER.RECOVER.RESULT : Fld := ⟨KEEPER.RECOVER.reg, 15, 8⟩

/-! Names of CHITIN. -/

def CHITIN.EPOCH.reg : Nat := CHITIN.base + 0x40
def CHITIN.EPOCH.VALUE : Fld := ⟨CHITIN.EPOCH.reg, 63, 0⟩
def CHITIN.BOOT_NONCE.reg : Nat := CHITIN.base + 0x48
def CHITIN.BOOT_NONCE.VALUE : Fld := ⟨CHITIN.BOOT_NONCE.reg, 63, 0⟩
def CHITIN.SUBMIT_H.reg : Nat := CHITIN.base + 0x50
def CHITIN.SUBMIT_H.GO : Fld := ⟨CHITIN.SUBMIT_H.reg, 0, 0⟩
def CHITIN.CHG_STAT.reg : Nat := CHITIN.base + 0x58
def CHITIN.CHG_STAT.STATUS : Fld := ⟨CHITIN.CHG_STAT.reg, 15, 0⟩
def CHITIN.CHG_STAT.RESULT : Fld := ⟨CHITIN.CHG_STAT.reg, 23, 16⟩
def CHITIN.CHG_STAT.H_PENDING : Fld := ⟨CHITIN.CHG_STAT.reg, 24, 24⟩
def CHITIN.CHG_STAT.P_PENDING : Fld := ⟨CHITIN.CHG_STAT.reg, 25, 25⟩
def CHITIN.CHG_STAT.ENTRY : Fld := ⟨CHITIN.CHG_STAT.reg, 31, 26⟩

/-! Names of PORT. -/

def PORT.MODE.reg (p : Nat) : Nat := PORT.base p + 0x40
def PORT.MODE.MODE (p : Nat) : Fld := ⟨PORT.MODE.reg p, 3, 0⟩
def PORT.MODE.IF (p : Nat) : Fld := ⟨PORT.MODE.reg p, 4, 4⟩
def PORT.STAT.reg (p : Nat) : Nat := PORT.base p + 0x48
def PORT.STAT.LINK (p : Nat) : Fld := ⟨PORT.STAT.reg p, 0, 0⟩
def PORT.STAT.TRAINING (p : Nat) : Fld := ⟨PORT.STAT.reg p, 1, 1⟩
def PORT.STAT.PAUSED (p : Nat) : Fld := ⟨PORT.STAT.reg p, 9, 2⟩
def PORT.STAT.DOWNS (p : Nat) : Fld := ⟨PORT.STAT.reg p, 63, 32⟩
def PORT.MAC_CFG.reg (p : Nat) : Nat := PORT.base p + 0x50
def PORT.MAC_CFG.MAX_FRAME (p : Nat) : Fld := ⟨PORT.MAC_CFG.reg p, 14, 0⟩
def PORT.MAC_CFG.PFC_EN (p : Nat) : Fld := ⟨PORT.MAC_CFG.reg p, 23, 16⟩
def PORT.MAC_CFG.PAUSE_EN (p : Nat) : Fld := ⟨PORT.MAC_CFG.reg p, 24, 24⟩
def PORT.MAC_CFG.DEFAULT_TC (p : Nat) : Fld := ⟨PORT.MAC_CFG.reg p, 27, 25⟩
def PORT.TC_MAP.reg (p : Nat) : Nat := PORT.base p + 0x58
def PORT.TC_MAP.MAP (p : Nat) : Fld := ⟨PORT.TC_MAP.reg p, 23, 0⟩
def PORT.PREEMPT.reg (p : Nat) : Nat := PORT.base p + 0x60
def PORT.PREEMPT.EN (p : Nat) : Fld := ⟨PORT.PREEMPT.reg p, 0, 0⟩
def PORT.PREEMPT.VERIFY_DIS (p : Nat) : Fld := ⟨PORT.PREEMPT.reg p, 1, 1⟩
def PORT.PREEMPT.ADD_FRAG (p : Nat) : Fld := ⟨PORT.PREEMPT.reg p, 3, 2⟩
def PORT.PREEMPT.ACTIVE (p : Nat) : Fld := ⟨PORT.PREEMPT.reg p, 4, 4⟩
def PORT.PREEMPT.VERIFY_FAILED (p : Nat) : Fld := ⟨PORT.PREEMPT.reg p, 5, 5⟩
def PORT.TS_ADJ.reg (p : Nat) : Nat := PORT.base p + 0x68
def PORT.TS_ADJ.RX_PS (p : Nat) : Fld := ⟨PORT.TS_ADJ.reg p, 19, 0⟩
def PORT.TS_ADJ.TX_PS (p : Nat) : Fld := ⟨PORT.TS_ADJ.reg p, 51, 32⟩
def PORT.LOOPBACK.reg (p : Nat) : Nat := PORT.base p + 0x70
def PORT.LOOPBACK.MODE (p : Nat) : Fld := ⟨PORT.LOOPBACK.reg p, 1, 0⟩
def PORT.CAL.reg (p : Nat) : Nat := PORT.base p + 0x78
def PORT.CAL.RESULT (p : Nat) : Fld := ⟨PORT.CAL.reg p, 1, 0⟩
def PORT.CAL.MS (p : Nat) : Fld := ⟨PORT.CAL.reg p, 31, 16⟩
def PORT.FEC_BOUND.reg (p : Nat) : Nat := PORT.base p + 0x80
def PORT.FEC_BOUND.SYMBOLS (p : Nat) : Fld := ⟨PORT.FEC_BOUND.reg p, 31, 0⟩
def PORT.FEC_BOUND.CORRECTED (p : Nat) : Fld := ⟨PORT.FEC_BOUND.reg p, 63, 32⟩
def PORT.ONESTEP_SKIP.reg (p : Nat) : Nat := PORT.base p + 0x88
def PORT.ONESTEP_SKIP.COUNT (p : Nat) : Fld := ⟨PORT.ONESTEP_SKIP.reg p, 31, 0⟩
def PORT.RX_ERR.reg (p : Nat) (r : Nat) : Nat := PORT.base p + 0x100 + 8 * r
def PORT.RX_ERR.COUNT (p : Nat) (r : Nat) : Fld := ⟨PORT.RX_ERR.reg p r, 47, 0⟩

/-! Names of PIN. -/

def PIN.GPIO_OUT.reg : Nat := PIN.base + 0x40
def PIN.GPIO_OUT.OUT : Fld := ⟨PIN.GPIO_OUT.reg, 15, 0⟩
def PIN.GPIO_OE.reg : Nat := PIN.base + 0x48
def PIN.GPIO_OE.OE : Fld := ⟨PIN.GPIO_OE.reg, 15, 0⟩
def PIN.GPIO_IN.reg : Nat := PIN.base + 0x50
def PIN.GPIO_IN.IN : Fld := ⟨PIN.GPIO_IN.reg, 15, 0⟩
def PIN.THERM.reg : Nat := PIN.base + 0x58
def PIN.THERM.TJ : Fld := ⟨PIN.THERM.reg, 15, 0⟩
def PIN.THERM.WARN : Fld := ⟨PIN.THERM.reg, 23, 16⟩
def PIN.THERM.HOT : Fld := ⟨PIN.THERM.reg, 24, 24⟩
def PIN.THERM.TRIP : Fld := ⟨PIN.THERM.reg, 25, 25⟩
def PIN.BALL.reg (g : Nat) : Nat := PIN.base + 0x100 + 16 * g
def PIN.BALL.FUNC (g : Nat) : Fld := ⟨PIN.BALL.reg g, 1, 0⟩
def PIN.BALL.NOW (g : Nat) : Fld := ⟨PIN.BALL.reg g, 2, 2⟩
def PIN.CLAIM.reg (g : Nat) : Nat := PIN.base + 0x108 + 16 * g
def PIN.CLAIM.OWNER (g : Nat) : Fld := ⟨PIN.CLAIM.reg g, 15, 0⟩
def PIN.CLAIM.CLAIM (g : Nat) : Fld := ⟨PIN.CLAIM.reg g, 16, 16⟩
def PIN.CLAIM.RELEASE (g : Nat) : Fld := ⟨PIN.CLAIM.reg g, 17, 17⟩
def PIN.CLAIM.FORCE (g : Nat) : Fld := ⟨PIN.CLAIM.reg g, 18, 18⟩
def PIN.CLAIM.DENIED (g : Nat) : Fld := ⟨PIN.CLAIM.reg g, 47, 32⟩

end Sys2Proof.Machine
end

