-- ==== Sys2Proof/Machine/Base.lean ====
section
/-! DEFINITION. Which unit an address belongs to (R40, R42, R43, R48), what its registers read after
SYS_RST_N, and the fields of packed records. -/

namespace Sys2Proof.Machine

/-- A unit: its base, type, number among its siblings, power domain (255: none of its own, R42), its
parent's base and the log2 of its page. -/
structure UnitInfo where
  base : Nat
  type : UType
  inst : Nat
  dom : Nat
  parent : Nat
  page : Nat
  deriving DecidableEq, Repr

/-- The unit whose page holds a BAR0 offset (R40). -/
def unitAt (a : Nat) : Option UnitInfo :=
  let m := a / 0x10_0000
  let top (t : UType) (d : Nat) : Option UnitInfo := some ⟨m * 0x10_0000, t, 0, d, 0, 20⟩
  if 64 ≤ m ∧ m < 112 then
    let h := (m - 64) / 4
    let b := HIVE.base h
    match (m - 64) % 4 with
    | 0 => some ⟨b, .hive, h, 14 + h, 0, 20⟩
    | 1 => some ⟨b + 0x10_0000, .waggle, 0, 14 + h, b, 20⟩
    | 2 => let c := (a % 0x10_0000) / 0x2_0000
           some ⟨b + 0x20_0000 + c * 0x2_0000, .qcore, c, 14 + h, b, 17⟩
    | _ => none
  else if 48 ≤ m ∧ m < 56 then some ⟨m * 0x10_0000, .port, m - 48, 5 + (m - 48) / 2, 0, 20⟩
  else match m with
  | 0 => top .root 255
  | 1 => top .pin 0
  | 2 => top .pwr 0
  | 3 => top .fwc 0
  | 4 => top .chitin 0
  | 5 => top .keeper 0
  | 6 => top .debug 0
  | 7 => match a % 0x10_0000 / 0x4_0000 with
         | 0 => some ⟨0x0070_0000, .hbmctl, 0, 255, 0, 18⟩
         | 1 => some ⟨0x0074_0000, .hbmctl, 0, 12, 0x0070_0000, 18⟩
         | 2 => some ⟨0x0078_0000, .hbmctl, 1, 13, 0x0070_0000, 18⟩
         | _ => none
  | 8 => top .edryn 0
  | 9 => top .trig 0
  | 16 => match a % 0x10_0000 / 0x1_0000 with
          | 0 => some ⟨0x0100_0000, .hostif, 0, 255, 0, 16⟩
          | 1 => some ⟨0x0101_0000, .hostlink, 0, 3, 0x0100_0000, 16⟩
          | 2 => some ⟨0x0102_0000, .hostlink, 1, 3, 0x0100_0000, 16⟩
          | 3 => some ⟨0x0103_0000, .hostlink, 2, 4, 0x0100_0000, 16⟩
          | 4 => some ⟨0x0104_0000, .hostlink, 3, 4, 0x0100_0000, 16⟩
          | _ => none
  | 17 => top .inst 1
  | 18 => top .ring 1
  | 19 => top .waggle 0
  | 32 => top .parse 1
  | 33 => top .class 1
  | 34 => top .flow 1
  | 35 => top .comb 2
  | 36 => top .sched 1
  | 37 => top .beeline 1
  | 38 => top .scarab 9
  | 39 => top .stor 10
  | 40 => top .forager 11
  | _ => none

/-- The unit type codes of R43 (0 for a register group that is no unit). -/
def UType.code : UType → Nat
  | .root => 0x01 | .hostif => 0x02 | .inst => 0x03 | .ring => 0x04 | .parse => 0x05
  | .class => 0x06 | .flow => 0x07 | .comb => 0x08 | .sched => 0x09 | .beeline => 0x0A
  | .scarab => 0x0B | .forager => 0x0C | .hive => 0x0D | .qcore => 0x0E | .waggle => 0x0F
  | .edryn => 0x10 | .port => 0x11 | .pwr => 0x12 | .chitin => 0x13 | .fwc => 0x14
  | .stor => 0x15 | .hbmctl => 0x16 | .debug => 0x17 | .keeper => 0x18 | .trig => 0x19
  | .pin => 0x1A | .hostlink => 0x1B | .hdr => 0 | .tap => 0 | .chan => 0 | .ipage => 0

/-- Bases of a unit's children, in ascending order of offset (R40, R46). -/
def childBases (u : Nat) : List Nat :=
  if u = 0 then
    [0x0010_0000, 0x0020_0000, 0x0030_0000, 0x0040_0000, 0x0050_0000, 0x0060_0000, 0x0070_0000,
     0x0080_0000, 0x0090_0000, 0x0100_0000, 0x0110_0000, 0x0120_0000, 0x0130_0000,
     0x0200_0000, 0x0210_0000, 0x0220_0000, 0x0230_0000, 0x0240_0000, 0x0250_0000, 0x0260_0000,
     0x0270_0000, 0x0280_0000] ++ (List.range 8).map PORT.base ++ (List.range 12).map HIVE.base
  else if u = 0x0070_0000 then [0x0074_0000, 0x0078_0000]
  else if u = 0x0100_0000 then (List.range 4).map HOSTLINK.base
  else match (List.range 12).find? (fun h => HIVE.base h = u) with
    | some h => WAGGLE.base (h + 1) :: (List.range 8).map (fun c => HIVE.base h + 0x20_0000 + 0x2_0000 * c)
    | none => []

/-- A unit and everything below it: the tree has at most three levels under ROOT (R48). -/
def subtree (u : Nat) : List Nat :=
  u :: (childBases u).flatMap (fun c => c :: (childBases c).flatMap (fun d => [d]))

/-- Units that have a table access port: their chapters say HAS_TAP = 1. -/
def hasTap : UType → Bool
  | .hostif | .inst | .ring | .parse | .class | .flow | .comb | .sched | .scarab | .forager
  | .hive | .edryn | .pwr | .chitin | .fwc | .stor | .keeper => true
  | _ => false

/-- The descriptor of a list that covers an offset, with the number of the copy. -/
def findReg (l : List RegDesc) (off : Nat) : Option (RegDesc × Nat) :=
  match l.find? (fun r => if r.stride = 0 then off = r.off
      else r.off ≤ off ∧ (off - r.off) % r.stride = 0 ∧ (off - r.off) / r.stride < r.count) with
  | some r => some (r, if r.stride = 0 then 0 else (off - r.off) / r.stride)
  | none => none

/-- How many locks, doorbells and channel blocks a WAGGLE has (R379). -/
def waggleCounts (base : Nat) : Nat × Nat × Nat :=
  if base = WAGGLE.base 0 then (256, 256, 2112) else (64, 1024, 64)

/-- The register at an 8-byte-aligned address: its unit, its descriptor and its copy number. -/
def regAt (a : Nat) : Option (UnitInfo × RegDesc × Nat) :=
  match unitAt a with
  | none => none
  | some u =>
    let off := a - u.base
    let l := if off < 0x40 then regs_UNIT
      else if hasTap u.type && decide (0x100 ≤ off) && decide (off < 0x180) then regs_TAP
      else regsOf u.type
    if u.type = .waggle ∧ 0x1_0000 ≤ off then
      if (off - 0x1_0000) / 0x40 < (waggleCounts u.base).2.2 then
        (findReg regs_CH (off % 0x40)).map (fun r => (u, r.1, (off - 0x1_0000) / 0x40))
      else none
    else match findReg l off with
      | some (r, i) =>
        if u.type = .waggle ∧ r.off = 0x1000 ∧ (waggleCounts u.base).1 ≤ i then none
        else if u.type = .waggle ∧ 0x2000 ≤ r.off ∧ (waggleCounts u.base).2.1 ≤ i then none
        else some (u, r, i)
      | none => none

/-- What the fields of a register read after SYS_RST_N (R11). -/
def descReset (r : RegDesc) : Nat := r.fields.foldl (fun v f => setBits v f.hi f.lo f.rst) 0

/-- Reset values that differ from copy to copy of one register table: `FWC.SRCs` (R413),
`FORAGER.GRP_CTL7` (R343), the ports, which are OUT_OF_SERVICE with NOT_FITTED (R440), the fixed A end of the instance channels (R379) and the fixed FUNC of
GPIO 0–7. -/
def resetFix (u : UnitInfo) (r : RegDesc) (i v : Nat) : Nat :=
  match u.type with
  | .fwc => if r.off = 0x40 then
      let (w, t) := match i with
        | 0 => (24 * 3600 * 1000, 16) | 1 => (3600 * 1000, 8) | 2 => (1000, 3) | 3 => (3600 * 1000, 2)
        | 4 => (1000, 1000) | 5 => (1000, 1) | 6 => (1, 1) | _ => (24 * 3600 * 1000, 3)
      setBits (setBits (setBits v 31 0 w) 47 32 t) 48 48 (if i = 3 then 1 else 0)
    else v
  | .forager => if r.off = 0x40 ∧ i = 7 then setBits v 1 1 1 else v
  | .port => if r.off = 0x10 then setBits (setBits v 3 0 2) 23 16 5 else v
  | .pin => if r.off = 0x100 ∧ i < 8 then setBits v 1 0 1 else v
  | .waggle => if u.base = WAGGLE.base 0 ∧ r.off = 0x28 ∧ r.stride = 0 ∧ i < 2048
      then setBits v 15 0 (0x100 + i) else v
  | _ => v

/-- What a register reads after SYS_RST_N; places that are no register read 0 (R37). (DESIGN CHOICE, unsafe: assumption 10) (DESIGN CHOICE, unsafe: assumption 12) -/
def regReset (a : Nat) : Word :=
  if IPAGE.base 0 ≤ a then 0
  else match regAt a with
    | some (u, r, i) => BitVec.ofNat 64 (resetFix u r i (descReset r))
    | none => 0

/-! The shared status codes of R15. -/
def stOk : Nat := 0x00
def stAborted : Nat := 0x01
def stMalformed : Nat := 0x02
def stPartial : Nat := 0x03
def stAuthFail : Nat := 0x04
def stNonceExhausted : Nat := 0x05
def stKeyErased : Nat := 0x06
def stXlate : Nat := 0x07
def stHostTimeout : Nat := 0x08
def stLate : Nat := 0x09
def stFar : Nat := 0x0A
def stSealed : Nat := 0x0B
def stMisaligned : Nat := 0x0C
def stMismatch : Nat := 0x0D
def stRemoteError : Nat := 0x0E
def stPowerDenied : Nat := 0x0F
def stSquashed : Nat := 0x10
def stBusy : Nat := 0x11
def stConflict : Nat := 0x12

/-! Packed records: tables whose entries software reads and writes as 64-byte chunks. -/

/-- A field of a packed record, in bits from its start (R7, R8). -/
structure RF where
  hi : Nat
  lo : Nat
  deriving DecidableEq, Repr

/-- The field in bytes `a`–`b` of a record. -/
def byF (a b : Nat) : RF := ⟨8 * b + 7, 8 * a⟩
/-- Bits [hi:lo] of the field that starts at byte `a`. -/
def biF (a hi lo : Nat) : RF := ⟨8 * a + hi, 8 * a + lo⟩

/-- A field of a packed record as a number. -/
def rget {n : Nat} (w : BitVec n) (f : RF) : Nat := getF w f.hi f.lo
/-- A packed record with one field written. -/
def rput {n : Nat} (w : BitVec n) (f : RF) (v : Nat) : BitVec n := putF w f.hi f.lo v

end Sys2Proof.Machine
end

