-- ==== Sys2Proof/Machine/Parser.lean ====
section
/-! DEFINITION. Header parsing (R190–R198, R471, R472): a parser configuration, the walk of a frame's
headers, the checks, and the parse record. -/

namespace Sys2Proof.Machine

/-! Configurations: 128 bytes, chunk 0 and chunk 1. -/

/-- Little-endian field of a configuration. -/
def pcf (c : BitVec 1024) (byte n : Nat) : Nat := getF c (8 * (byte + n) - 1) (8 * byte)

/-- The default configuration (R189). -/
def pcfgDefault : BitVec 1024 :=
  packBytes 1024 (leBytes 2 4789 ++ leBytes 2 0 ++ leBytes 2 6081 ++ leBytes 2 6635 ++ leBytes 2 4500 ++
    leBytes 2 4791 ++ leBytes 2 319 ++ leBytes 2 320 ++ leBytes 2 4420 ++ padTo 46 [] ++
    [2, 4, 4, 1, 16, 8, 0x0B])

/-- EtherTypes that the header list uses. -/
def knownEtherTypes : List Nat := [0x8100, 0x88A8, 0x88E5, 0x8847, 0x8848, 0x0806, 0x0800, 0x86DD, 0x88F7]

/-- Whether chunk 0 is one that R190 accepts: the port fields, then the RTP ranges and EXTRA_TPID. (DESIGN CHOICE, unsafe: assumption 157) -/
def pcfgOk0 (c : BitVec 1024) : Bool :=
  let ports := ((List.range 12).map (fun k => pcf c (2 * k) 2)).filter (fun p => p != 0)
  let lo0 := pcf c 24 2; let hi0 := pcf c 26 2; let lo1 := pcf c 28 2; let hi1 := pcf c 30 2
  let x := pcf c 32 2
  let inR (p : Nat) : Bool := (lo0 != 0 && decide (lo0 ≤ p) && decide (p ≤ hi0)) ||
    (lo1 != 0 && decide (lo1 ≤ p) && decide (p ≤ hi1))
  decide ports.Nodup && ports.all (fun p => !inR p) && (lo0 == 0 || decide (lo0 ≤ hi0)) &&
  (lo1 == 0 || decide (lo1 ≤ hi1)) && (x == 0 || (decide (0x600 ≤ x) && !knownEtherTypes.contains x))

/-- Whether chunk 1 is one that R190 accepts. -/
def pcfgOk1 (c : BitVec 1024) : Bool :=
  decide (pcf c 64 1 ≤ 2) && decide (pcf c 65 1 ≤ 4) && decide (pcf c 66 1 ≤ 4) && decide (pcf c 67 1 ≤ 1) &&
  decide (1 ≤ pcf c 68 1) && decide (pcf c 68 1 ≤ 16) && decide (2 ≤ pcf c 69 1) && decide (pcf c 69 1 ≤ 8) &&
  decide (pcf c 70 1 < 16) && pcf c 71 1 == 0 &&
  (List.range 10).all (fun k => decide (pcf c (72 + k) 1 < 16) && bits (pcf c (72 + k) 1) 1 0 != 3 &&
    bits (pcf c (72 + k) 1) 3 2 != 3) && pcf c 82 46 == 0

/-- The class action of a source for a class (1 TRUNCATED, 2 MALFORMED): 0 DROP_COUNT, 1 TO_HIVE,
2 FORWARD_RAW. -/
def classAction (c : BitVec 1024) (src cls : Nat) : Nat :=
  let a := pcf c (72 + src) 1
  if cls = 1 then bits a 1 0 else bits a 3 2

/-! Header IDs (R191). -/
def hEth : Nat := 0x01
def hVlan : Nat := 0x02
def hSectag : Nat := 0x03
def hMpls : Nat := 0x04
def hPwCw : Nat := 0x05
def hArp : Nat := 0x06
def hIpv4 : Nat := 0x07
def hIpv6 : Nat := 0x08
def hHbh : Nat := 0x09
def hRouting : Nat := 0x0A
def hFrag : Nat := 0x0B
def hDstopt : Nat := 0x0C
def hTcp : Nat := 0x0D
def hUdp : Nat := 0x0E
def hIcmp : Nat := 0x0F
def hIcmpv6 : Nat := 0x10
def hEsp : Nat := 0x11
def hGre : Nat := 0x12
def hVxlan : Nat := 0x13
def hGeneve : Nat := 0x14
def hPtp : Nat := 0x15
def hBth : Nat := 0x16
def hRtp : Nat := 0x17

/-- How a header was entered, where that matters: from a label of the same stack, from UDP, from IP, from
PW_CW or MPLS_ETH, or otherwise. -/
inductive Via where
  | other | label | udp | ip | pw
  deriving DecidableEq, Repr

def isExt (h : Nat) : Bool := h == 0x09 || h == 0x0A || h == 0x0B || h == 0x0C

/-- Length of a header's fixed part. -/
def fixedLen (h : Nat) : Nat :=
  match h with
  | 0x01 => 14 | 0x02 => 4 | 0x03 => 6 | 0x04 => 4 | 0x05 => 4 | 0x06 => 28 | 0x07 => 20 | 0x08 => 40
  | 0x09 => 8 | 0x0A => 8 | 0x0B => 8 | 0x0C => 8 | 0x0D => 20 | 0x0E => 8 | 0x0F => 8 | 0x10 => 4
  | 0x11 => 8 | 0x12 => 4 | 0x13 => 8 | 0x14 => 8 | 0x15 => 34 | 0x16 => 12 | _ => 12

/-- The code of check 2 (R471). -/
def overrunCode (h : Nat) : Nat :=
  if isExt h then 0x23
  else match h with
  | 0x0D => 0x33 | 0x0F => 0x34 | 0x10 => 0x34 | 0x14 => 0x44 | 0x11 => 0x52 | 0x15 => 0x61 | 0x16 => 0x62
  | 0x17 => 0x64 | _ => 0x01

/-- The length of a header as its own fields state it; `enc` is where its enclosing payload ends. -/
def statedLen (f : Bytes) (h o enc : Nat) : Nat :=
  let b := byteAt f o
  match h with
  | 0x03 => (if bit b 5 then 14 else 6) + (if bit b 3 then 0 else 2)
  | 0x07 => b % 16 * 4
  | 0x09 => (byteAt f (o + 1) + 1) * 8
  | 0x0A => (byteAt f (o + 1) + 1) * 8
  | 0x0C => (byteAt f (o + 1) + 1) * 8
  | 0x0D => byteAt f (o + 12) / 16 * 4
  | 0x12 => 4 + 4 * b2n (bit b 7) + 4 * b2n (bit b 5) + 4 * b2n (bit b 4)
  | 0x14 => 8 + b % 64 * 4
  | 0x17 =>
    let n := 12 + 4 * (b % 16)
    if bit b 4 then (if enc < o + n + 4 then n + 4 else n + 4 + 4 * beAt f (o + n + 2) 2) else n
  | _ => fixedLen h

/-- The walk: the headers recorded, the ends that headers state, counts, and where the pieces stand. -/
structure Walk where
  hdrs : List (Nat × Nat)
  fend : Nat
  ends : List Nat
  vlans : Nat
  labels : Nat
  exts : Nat
  tunnels : Nat
  lastLabel : Nat
  last : Nat
  ol3 : Nat
  ol4 : Nat
  tun : Nat
  il2 : Nat
  il3 : Nat
  il4 : Nat
  flags : Nat

def Walk.start (f : Bytes) : Walk :=
  ⟨[], f.length, [], 0, 0, 0, 0, 0xFF, 0, 0xFF, 0xFF, 0xFF, 0xFF, 0xFF, 0xFF, 0⟩

/-- What a parse of a frame finds. -/
structure PRec where
  cls : Nat
  reason : Nat
  exc : Nat
  kind : Nat
  payOff : Nat
  frameLen : Nat
  flags : Nat
  hdrs : List (Nat × Nat)
  ol3 : Nat
  ol4 : Nat
  tun : Nat
  il2 : Nat
  il3 : Nat
  il4 : Nat
  deriving DecidableEq, Repr

def PRec.empty : PRec := ⟨0, 0, 0, 0, 0, 0, 0, [], 0xFF, 0xFF, 0xFF, 0xFF, 0xFF, 0xFF⟩

/-- Where the nearest enclosing payload ends (R196). -/
def Walk.enc (w : Walk) : Nat := w.ends.head?.getD w.fend

/-- Whether taking a header makes a tunnel (R192). -/
def Walk.tunnel (w : Walk) (h : Nat) (v : Via) : Bool :=
  h == 0x13 || h == 0x14 || h == 0x12 || (h == 0x04 && v == .udp) ||
  ((h == 0x07 || h == 0x08) && v == .ip) || (h == 0x01 && v == .pw && w.tun == 0xFF)

/-- Check 1 of R195: the TRUNCATED reason, 0 for none. (DEDUCED, unsafe: assumption 70) -/
def Walk.limit (w : Walk) (c : BitVec 1024) (h : Nat) (v : Via) : Nat :=
  if h = 0x02 ∧ pcf c 64 1 ≤ w.vlans then 1
  else if h = 0x04 ∧ pcf c 65 1 ≤ (if v = .label then w.labels else 0) then 2
  else if isExt h ∧ pcf c 66 1 ≤ w.exts then 3
  else if w.tunnel h v ∧ pcf c 67 1 ≤ w.tunnels then 4
  else if pcf c 68 1 ≤ w.hdrs.length then 5
  else 0

/-- A header is recorded (R191, R192, R198). -/
def Walk.record (w : Walk) (h o len : Nat) (v : Via) : Walk :=
  let i := w.hdrs.length
  let t := w.tunnel h v
  let w := if t then { w with tunnels := w.tunnels + 1,
                              tun := if w.tun ≠ 0xFF then w.tun else if h = 0x01 then w.lastLabel else i } else w
  let w := { w with hdrs := w.hdrs ++ [(h, o)], last := o + len }
  let w := if h = 0x01 then { w with vlans := 0 } else if h = 0x02 then { w with vlans := w.vlans + 1 }
    else if h = 0x04 then { w with labels := if v = .label then w.labels + 1 else 1, lastLabel := i }
    else if h = 0x08 then { w with exts := 0 } else if isExt h then { w with exts := w.exts + 1 } else w
  let inner := w.tun != 0xFF && decide (w.tun ≤ i)
  let first (x : Nat) : Nat := if x = 0xFF then i else x
  if h = 0x06 ∨ h = 0x07 ∨ h = 0x08 then
      (if inner then { w with il3 := first w.il3 } else { w with ol3 := first w.ol3 })
    else if h = 0x0D ∨ h = 0x0E ∨ h = 0x0F ∨ h = 0x10 ∨ h = 0x11 then
      (if inner then { w with il4 := first w.il4 } else { w with ol4 := first w.ol4 })
    else if h = 0x01 ∧ inner then { w with il2 := first w.il2 } else w

/-- The ones'-complement sum of bytes as 16-bit words in wire order. -/
def onesSum (bs : Bytes) : Nat :=
  let fold (n : Nat) : Nat := n % 65536 + n / 65536
  let rec go : Bytes → Nat → Nat
    | [], a => a
    | [x], a => fold (a + x.toNat * 256)
    | x :: y :: r, a => go r (fold (a + x.toNat * 256 + y.toNat))
  fold (go bs 0)

/-- The options of an IPv4 header: whether one is malformed (R197, code 0x14). -/
def optBad (f : Bytes) (fin : Nat) : Nat → Nat → Bool
  | 0, _ => false
  | n + 1, o =>
    if fin ≤ o then false
    else if byteAt f o = 0 then false
    else if byteAt f o = 1 then optBad f fin n (o + 1)
    else if fin ≤ o + 1 then true
    else
      let l := byteAt f (o + 1)
      if l < 2 ∨ fin < o + l then true else optBad f fin n (o + l)

/-- The options of a GENEVE header: whether one runs past the option area (R197, code 0x45). -/
def tlvBad (f : Bytes) (fin : Nat) : Nat → Nat → Bool
  | 0, _ => false
  | n + 1, o =>
    if fin ≤ o then false
    else if fin < o + 4 then true
    else
      let l := 4 + 4 * (byteAt f (o + 3) % 32)
      if fin < o + l then true else tlvBad f fin n (o + l)

/-- Check 4 of R195: the MALFORMED code of a header's own fields, 0 for none (R197). (DEDUCED, unsafe: assumption 70) -/
def Walk.check (w : Walk) (c : BitVec 1024) (f : Bytes) (h o len enc : Nat) : Nat :=
  let b := byteAt f o
  match h with
  | 0x01 | 0x02 =>
    let t := beAt f (o + len - 2) 2
    if (0x05DD ≤ t ∧ t ≤ 0x05FF) ∨ (t ≤ 0x05DC ∧ enc - (o + len) < t) then 0x02 else 0
  | 0x03 =>
    let sl := byteAt f (o + 1) % 64
    let tag := o + (if bit b 5 then 14 else 6)
    if bit b 7 ∨ (!bit b 3 ∧ bit b 2) ∨ (bit b 6 ∧ bit b 5) then 0x50
    else if sl ≠ 0 ∧ (48 ≤ sl ∨ enc < tag + 16 ∨ sl ≠ enc - 16 - tag) then 0x51 else 0
  | 0x06 => if beAt f o 2 ≠ 1 ∨ beAt f (o + 2) 2 ≠ 0x0800 ∨ byteAt f (o + 4) ≠ 6 ∨ byteAt f (o + 5) ≠ 4
      then 0x65 else 0
  | 0x07 =>
    let ihl := b % 16
    let tot := beAt f (o + 2) 2
    if b / 16 ≠ 4 then 0x10
    else if ihl < 5 then 0x11
    else if tot < ihl * 4 then 0x12
    else if enc < o + tot then 0x13
    else if optBad f (o + ihl * 4) 40 (o + 20) then 0x14
    else if 65535 < beAt f (o + 6) 2 % 8192 * 8 + (tot - ihl * 4) then 0x15 else 0
  | 0x08 =>
    let pl := beAt f (o + 4) 2
    if b / 16 ≠ 6 then 0x20 else if enc < o + 40 + pl then 0x21 else if pl = 0 then 0x22 else 0
  | 0x09 => if (w.hdrs.dropLast.getLast?.map Prod.fst) = some 0x08 then 0 else 0x24
  | 0x0B => if 65535 < beAt f (o + 2) 2 / 8 * 8 + (enc - (o + 8)) then 0x25 else 0
  | 0x0D => if byteAt f (o + 12) / 16 < 5 then 0x32 else 0
  | 0x0E =>
    let l := beAt f (o + 4) 2
    if l < 8 then 0x30 else if enc < o + l then 0x31 else 0
  | 0x11 => if enc < o + 8 + 16 then 0x52 else 0
  | 0x12 =>
    let b1 := byteAt f (o + 1)
    if b1 % 8 ≠ 0 then 0x40 else if b &&& 0x4F ≠ 0 ∨ b1 &&& 0xF8 ≠ 0 then 0x41 else 0
  | 0x13 => if bit b 3 then 0 else 0x42
  | 0x14 =>
    if b / 64 ≠ 0 then 0x43
    else if bit (pcf c 70 1) 0 ∧ tlvBad f (o + len) 64 (o + 8) then 0x45 else 0
  | 0x15 =>
    let l := beAt f (o + 2) 2
    if byteAt f (o + 1) % 16 ≠ 2 then 0x60 else if l < 34 ∨ enc < o + l then 0x61 else 0
  | 0x16 => if enc < o + 16 then 0x62 else 0
  | 0x17 =>
    if b / 64 ≠ 2 then 0x63
    else if bit b 5 ∧ enc - (o + len) < byteAt f (enc - 1) then 0x64 else 0
  | _ => 0

/-- What follows a header: the next one with its offset, or the end of the stack with its PAYLOAD_KIND. -/
inductive Next where
  | hdr (h o : Nat) (v : Via)
  | fin (kind : Nat)
  deriving DecidableEq, Repr

/-- The header that an EtherType selects. -/
def etherNext (c : BitVec 1024) (t o : Nat) : Next :=
  if t = 0x8100 ∨ t = 0x88A8 ∨ (t = pcf c 32 2 ∧ t ≠ 0) then .hdr 0x02 o .other
  else match t with
  | 0x88E5 => .hdr 0x03 o .other
  | 0x8847 => .hdr 0x04 o .other
  | 0x8848 => .hdr 0x04 o .other
  | 0x0806 => .hdr 0x06 o .other
  | 0x0800 => .hdr 0x07 o .other
  | 0x86DD => .hdr 0x08 o .other
  | 0x88F7 => .hdr 0x15 o .other
  | _ => .fin 4

/-- The header that a GRE or GENEVE protocol type selects. -/
def greNext (t o : Nat) : Next :=
  match t with
  | 0x6558 => .hdr 0x01 o .other
  | 0x0800 => .hdr 0x07 o .other
  | 0x86DD => .hdr 0x08 o .other
  | 0x8847 => .hdr 0x04 o .other
  | _ => .fin 4

/-- The header that an IP protocol or Next Header selects. -/
def ipNext (six : Bool) (p o : Nat) : Next :=
  match p with
  | 4 => .hdr 0x07 o .ip
  | 41 => .hdr 0x08 o .ip
  | 6 => .hdr 0x0D o .other
  | 17 => .hdr 0x0E o .other
  | 47 => .hdr 0x12 o .other
  | 50 => .hdr 0x11 o .other
  | 1 => if six then .fin 4 else .hdr 0x0F o .other
  | 58 => if six then .hdr 0x10 o .other else .fin 4
  | 0 => if six then .hdr 0x09 o .other else .fin 4
  | 43 => if six then .hdr 0x0A o .other else .fin 4
  | 44 => if six then .hdr 0x0B o .other else .fin 4
  | 60 => if six then .hdr 0x0C o .other else .fin 4
  | _ => .fin 4

/-- Whether a port field of the configuration, if used, holds a port (R472). -/
def portIs (c : BitVec 1024) (byte p : Nat) : Bool := p != 0 && pcf c byte 2 == p

/-- The header behind a UDP header; `enc` is the end that the UDP length states (R196). (DEDUCED, unsafe: assumption 70) -/
def udpNext (c : BitVec 1024) (f : Bytes) (o enc : Nat) : Next :=
  let sp := beAt f o 2
  let dp := beAt f (o + 2) 2
  let p := o + 8
  let inR (a : Nat) : Bool := pcf c a 2 != 0 && decide (pcf c a 2 ≤ dp) && decide (dp ≤ pcf c (a + 2) 2)
  if portIs c 0 dp || portIs c 2 dp then .hdr 0x13 p .udp
  else if portIs c 4 dp then .hdr 0x14 p .udp
  else if portIs c 6 dp then .hdr 0x04 p .udp
  else if portIs c 8 dp || portIs c 8 sp then
    (if p + 4 ≤ enc ∧ beAt f p 4 = 0 then .fin 5 else .hdr 0x11 p .udp)
  else if portIs c 10 dp && bit (pcf c 70 1) 3 then .hdr 0x16 p .udp
  else if portIs c 12 dp || portIs c 14 dp then .hdr 0x15 p .udp
  else if dp != 0 && (inR 24 || inR 28) then .hdr 0x17 p .udp
  else .fin 4

/-- What follows a header that passed its checks, with the walk after it. (DEDUCED, unsafe: assumption 70) -/
def Walk.next (w : Walk) (c : BitVec 1024) (f : Bytes) (h o len enc : Nat) : Next × Walk :=
  let b := byteAt f o
  let e := o + len
  match h with
  | 0x01 | 0x02 => (etherNext c (beAt f (e - 2) 2) e, w)
  | 0x03 =>
    if bit b 3 then (.fin 2, w) else (etherNext c (beAt f (e - 2) 2) e, { w with fend := w.fend - 16 })
  | 0x04 =>
    if !bit (byteAt f (o + 2)) 0 then (.hdr 0x04 e .label, w)
    else
      let n := byteAt f e / 16
      let opt := pcf c 70 1
      let there := decide (e < enc)
      (if there && n == 4 then .hdr 0x07 e .other else if there && n == 6 then .hdr 0x08 e .other
       else if there && n == 0 && bit opt 1 then .hdr 0x05 e .other
       else if bit opt 2 then .hdr 0x01 e .pw else .fin 4, w)
  | 0x05 => (.hdr 0x01 e .pw, w)
  | 0x07 =>
    let fr := beAt f (o + 6) 2
    let off := fr % 8192
    let mf := bit fr 13
    let fin := o + beAt f (o + 2) 2
    let w := { w with ends := fin :: w.ends }
    let w := if mf && off == 0 then { w with flags := w.flags ||| 0x20 } else w
    (if off ≠ 0 then .fin 7 else ipNext false (byteAt f (o + 9)) e, w)
  | 0x08 =>
    let fin := o + 40 + beAt f (o + 4) 2
    (ipNext true (byteAt f (o + 6)) e, { w with ends := fin :: w.ends })
  | 0x09 | 0x0A | 0x0C => (ipNext true b e, w)
  | 0x0B =>
    let fr := beAt f (o + 2) 2
    let w := if bit fr 0 && fr / 8 == 0 then { w with flags := w.flags ||| 0x20 } else w
    (if fr / 8 ≠ 0 then .fin 7 else ipNext true b e, w)
  | 0x0D =>
    let nv (p : Nat) : Bool := portIs c 16 p || portIs c 18 p || portIs c 20 p || portIs c 22 p
    (.fin (if nv (beAt f o 2) || nv (beAt f (o + 2) 2) then 3 else 0), w)
  | 0x0E => (udpNext c f o (o + beAt f (o + 4) 2), { w with ends := (o + beAt f (o + 4) 2) :: w.ends })
  | 0x11 => (.fin 1, w)
  | 0x12 => (greNext (beAt f (o + 2) 2) e, w)
  | 0x13 => (.hdr 0x01 e .other, w)
  | 0x14 => (greNext (beAt f (o + 2) 2) e, w)
  | 0x15 => (.fin 0, if b % 16 ≤ 3 then { w with flags := w.flags ||| 0x10 } else w)
  | 0x16 => (.fin 6, w)
  | _ => (.fin 0, w)

/-- The end of a walk. (DEDUCED, unsafe: assumption 70) -/
def Walk.finish (w : Walk) (f : Bytes) (cls reason exc kind payOff : Nat) : PRec :=
  ⟨cls, reason, exc, kind, payOff, f.length, w.flags, w.hdrs, w.ol3, w.ol4, w.tun, w.il2, w.il3, w.il4⟩

/-- The walk of R195, header by header. -/
def Walk.run (c : BitVec 1024) (f : Bytes) : Nat → Walk → Nat → Nat → Via → PRec
  | 0, w, _, o, _ => w.finish f 1 5 o 0 o
  | n + 1, w, h, o, v =>
    let t := w.limit c h v
    if t ≠ 0 then w.finish f 1 t o 0 o
    else
      let enc := w.enc
      let fx := fixedLen h
      if enc < o + fx then (w.record h o fx v).finish f 2 (overrunCode h) o 0 (o + fx)
      else
        let len := max fx (statedLen f h o enc)
        if enc < o + len then (w.record h o len v).finish f 2 (overrunCode h) o 0 (o + len)
        else if pcf c 69 1 * 64 < o + len then w.finish f 1 6 o 0 o
        else
          let i := w.hdrs.length
          let w := w.record h o len v
          let w := if h = 0x07 ∧ onesSum (slice f o len) = 0xFFFF then
              (if w.ol3 = i then { w with flags := w.flags ||| 0x01 }
               else if w.il3 = i then { w with flags := w.flags ||| 0x04 } else w) else w
          let code := w.check c f h o len enc
          if code ≠ 0 then w.finish f 2 code o 0 (o + len)
          else match w.next c f h o len enc with
            | (.hdr h o v, w) => w.run c f n h o v
            | (.fin k, w) => w.finish f 0 0 0 k w.last

/-- Whether an L4 checksum holds (R193). -/
def l4Good (f : Bytes) (h o : Nat) (ip : Nat × Nat × Nat × Bool) : Bool :=
  let (ver, io, fin, frag) := ip
  if ver = 0 || frag then false
  else if h = 0x0E ∧ ver = 4 ∧ beAt f (o + 6) 2 = 0 then true
  else
    let n := if h = 0x0E then beAt f (o + 4) 2 else fin - o
    let proto : Byte := if h = 0x0D then 6 else if h = 0x0E then 17 else 58
    let pseudo := if ver = 4 then slice f (io + 12) 8 ++ [0, proto] ++ beBytes 2 n
      else slice f (io + 8) 32 ++ beBytes 4 n ++ [0, 0, 0, proto]
    onesSum (pseudo ++ slice f o n) == 0xFFFF

/-- A whole parse of a frame: the walk, and the L4 checksum flags of a NORMAL one. The list of L4 headers
is read again from the headers recorded. (DEDUCED, unsafe: assumption 70) -/
def parseFrame (c : BitVec 1024) (f : Bytes) : PRec :=
  let r := Walk.run c f 18 (Walk.start f) 0x01 0 .other
  if r.cls ≠ 0 then r
  else
    let ipOf (i : Nat) : Nat × Nat × Nat × Bool :=
      match ((r.hdrs.take i).reverse.find? (fun e => e.1 == 0x07 || e.1 == 0x08)) with
      | some (0x07, o) => (4, o, o + beAt f (o + 2) 2, beAt f (o + 6) 2 % 16384 != 0)
      | some (_, o) => (6, o, o + 40 + beAt f (o + 4) 2,
          (r.hdrs.take i).any (fun e => e.1 == 0x0B && decide (o < e.2)))
      | none => (0, 0, 0, false)
    let good (i : Nat) : Bool := match r.hdrs[i]? with
      | some (h, o) => (h == 0x0D || h == 0x0E || h == 0x10) && l4Good f h o (ipOf i)
      | none => false
    { r with flags := r.flags ||| (2 * b2n (good r.ol4)) ||| (8 * b2n (good r.il4)) }

/-- The 64 bytes of a parse record (R198). -/
def PRec.bytes (r : PRec) (ns frac version source : Nat) (re : Bool) : Bytes :=
  padTo 32 (leBytes 8 ns ++ leBytes 2 frac ++ leBytes 1 version ++ leBytes 1 (source + 16 * b2n re) ++
    leBytes 1 r.cls ++ leBytes 1 r.reason ++ leBytes 1 r.hdrs.length ++ leBytes 1 r.flags ++
    leBytes 2 r.frameLen ++ leBytes 2 r.payOff ++ leBytes 1 r.ol3 ++ leBytes 1 r.ol4 ++ leBytes 1 r.tun ++
    leBytes 1 r.il2 ++ leBytes 1 r.il3 ++ leBytes 1 r.il4 ++ leBytes 1 r.kind) ++
  padTo 32 (r.hdrs.flatMap (fun e => leBytes 2 (e.1 + 64 * e.2)))

/-- The header of an ID that comes first in the record, with its offset. -/
def PRec.hdr (r : PRec) (i : Nat) : Option (Nat × Nat) := r.hdrs[i]?

end Sys2Proof.Machine
end

