-- ==== Sys2Proof/Machine/State.lean ====
section
/-! DEFINITION. The state of the TQ16 as plain data, its two stop reasons and its state after reset. -/

namespace Sys2Proof.Machine

/-- Stops of the machine itself: none. The spec gives every access outside the listed registers an effect
(R37), and every other error a status, an event or a fault record. -/
inductive Fault where
  deriving DecidableEq, Repr

/-- Commands the model does not take. -/
inductive Refusal where
  /-- Raised by an arm of exec whose command has no meaning yet. Safe: the machine stops. -/
  | notModelled (mnemonic : String)
  /-- Raised where the board drives or the sender names something outside the device's interface, such as
  an actor ID that R17 reserves, which no access ever carries. Safe: the machine stops. -/
  | outsideInterface
  deriving DecidableEq, Repr

/-- A TLP or message that the device puts on a host link. -/
inductive Tlp where
  /-- A posted write: address, translated, PASID prefix, Relaxed Ordering, ID-Based Ordering, EP bit. -/
  | memWrite (addr : Nat) (at_ : Bool) (pasid : Option Nat) (ro ido ep : Bool) (data : Bytes)
  /-- A read request. -/
  | memRead (tag addr : Nat) (at_ : Bool) (pasid : Option Nat) (len : Nat)
  /-- An MSI-X message: the vector's Message Address and Data (R122). -/
  | msix (vector addr data : Nat)
  /-- A completion with data for a host read. -/
  | cplData (requester tag : Nat) (data : Bytes)
  /-- A completion with Unsupported Request. -/
  | cplUr (requester tag : Nat)
  /-- The answer to a configuration request: Configuration RRS while the device boots, else the value. -/
  | cfgRrs
  | cfgCpl (value : Nat)
  /-- An ATS Translation Request (R151) and an Invalidate Completion (R152). -/
  | transReq (tag addr pasid : Nat) (write : Bool)
  | invalCpl (itag : Nat)
  /-- A PTM request (R83). -/
  | ptmReq
  deriving DecidableEq, Repr

/-- What leaves the device otherwise, in the order in which it leaves. -/
inductive Out where
  /-- A register read returns a value to its actor (R34). -/
  | regRead (actor addr value : Nat)
  /-- A Queron or other on-chip access ends in an error (R386). -/
  | regError (actor addr : Nat)
  /-- A frame starts on a port, with its reference-point time; `ctl` for a PAUSE or PFC frame. -/
  | frame (port : Nat) (bytes : Bytes) (ns : Nat) (fcsBad : Bool)
  | pfc (port cls quanta : Nat)
  | pause (port quanta : Nat)
  /-- A time-of-day message on TOD_TX (R71). -/
  | tod (msg : Bytes)
  /-- A level change of Firefly output n at an Edryn instant in units of 125 ps (R86). -/
  | edge (n : Nat) (level : Bool) (t125ps : Nat)
  /-- A message to the PMC (R464) or an SPDM answer (R430, R435). -/
  | pmc (msg : Bytes)
  | spdm (msg : Bytes)
  /-- The readings of regulators that go to the PMC: k, output voltage, current, temperature (R464). -/
  | regulators (readings : List (Nat × Nat × Nat × Nat))
  /-- A JTAG answer (R437). -/
  | jtag (value : Nat)
  /-- An image written to flash chip select `cs` (R424). -/
  | flash (cs : Nat) (image : Bytes)
  deriving DecidableEq, Repr

/-- A posted write that waits: under R112 while BME is 0, or for a translation (R151). `inst` is 2048
for the physical function itself. -/
structure Posted where
  inst : Nat
  addr : Nat
  data : Bytes
  ro : Bool
  vector : Option Nat
  /-- Its place among the writes generated for the link (R133). -/
  seq : Nat
  /-- Carries data with an uncorrectable error (R418). -/
  ep : Bool
  /-- The instance interrupt entry whose message it is, plus 1; 0 for none. -/
  entry : Nat
  deriving DecidableEq, Repr

/-- An outstanding host read (R113, R114): the DMA job it belongs to and its place in the job's buffer. -/
structure HostRead where
  job : Nat
  pos : Nat
  addr : Nat
  len : Nat
  got : Bytes
  inst : Nat
  pasid : Option Nat
  sent : Nat
  /-- Outstanding when its link was sealed (R117). -/
  dead : Bool
  deriving DecidableEq, Repr

/-- A read that waits for a tag, for BME or for a translation. -/
structure WaitRead where
  job : Nat
  pos : Nat
  addr : Nat
  len : Nat
  inst : Nat
  deriving DecidableEq, Repr

/-- The engine work that a DMA read serves. -/
inductive DmaUse where
  /-- Fetch of `n` entries of a WQ from an index. -/
  | fetch (wq index n : Nat)
  /-- Gather, PRP or range list of a WQ entry. -/
  | list (wq index : Nat)
  /-- Data of a WQ entry. -/
  | data (wq index : Nat)
  /-- Data of a storage part (host data of a write or compare). -/
  | part (id : Nat)
  /-- A Forager descriptor's fetch, or its source data. -/
  | fdesc (channel : Nat)
  | fdata (channel index : Nat)
  deriving DecidableEq, Repr

/-- A DMA read job: its use, the reads still outstanding, its buffer and its first failure. -/
structure DmaJob where
  use : DmaUse
  inst : Nat
  link : Nat
  left : Nat
  buf : Bytes
  status : Nat
  deriving DecidableEq, Repr

/-- An ATS translation cache entry (R151). -/
structure XlEntry where
  link : Nat
  pasid : Nat
  inst : Nat
  va : Nat
  log2 : Nat
  pa : Nat
  rd : Bool
  wr : Bool
  deriving DecidableEq, Repr

/-- A Translation Request outstanding (R151): `stale` once its link was sealed; the rate clock of its
transmission (R113); the ranges that Invalidate Requests named since (R152). -/
structure XlReq where
  inst : Nat
  va : Nat
  write : Bool
  stale : Bool
  sent : Nat
  inval : List (Nat × Nat)
  deriving DecidableEq, Repr

/-- An ATS Invalidate Request whose completion is owed (R152): the read tags it waits for. -/
structure AtsInv where
  itag : Nat
  tags : List Nat
  deriving DecidableEq, Repr

/-- The PTM dialog and pair of a link (R83). -/
structure Ptm where
  host : Nat
  tai : Nat
  frac : Nat
  valid : Bool
  doneClk : Nat
  open_ : Bool
  reqTai : Nat
  reqClk : Nat
  lastClk : Nat
  deriving DecidableEq, Repr

/-- A host link's own state beside its registers. -/
structure Link where
  /-- Why a conventional reset is in progress (0 none, 1 PERST_N, 2 Hot Reset, 3 Disabled, 4 DL_Down). -/
  convReset : Nat
  /-- Configuration fields other than BME, MSE and MSI-X Enable, by `CfgReg` code. -/
  cfg : Tbl Nat
  msix : Tbl (BitVec 128)
  pba : BitVec 2048
  tx : List Tlp
  held : List Posted
  /-- Writes generated for the link so far. -/
  seq : Nat
  reads : Tbl HostRead
  waitRd : List WaitRead
  /-- Quarantined tags with the rate clock at which each quarantine ends. -/
  quar : Tbl Nat
  xlReqs : Tbl XlReq
  inval : List AtsInv
  ptm : Ptm
  /-- Order probes waiting for the link's writes: the link whose BAR2 carries the read, requester, tag, and the
  `seq` they wait for (R133). -/
  probes : List (Nat × Nat × Nat × Nat)
  deriving DecidableEq, Repr

def Ptm.reset : Ptm := ⟨0, 0, 0, false, 0, false, 0, 0, 0⟩

/-- A link after SYS_RST_N: every MSI-X entry masked (R109). -/
def Link.reset : Link :=
  ⟨0, [], [], 0, [], [], 0, [], [], [], [], [], Ptm.reset, []⟩

/-- A MSI-X table entry after a conventional reset: address and data 0, Mask bit 1 (R109). -/
def msixReset : BitVec 128 := BitVec.ofNat 128 (2 ^ 96)

/-- A power domain's own state beside `PWR.DOM_STAT` (R396–R407). -/
structure Dom where
  /-- The state a drain or wake left or woke from. -/
  left : Nat
  /-- Rate clock at which the present step's action was taken. -/
  stepClk : Nat
  /-- Rate clock of the last wake failure, for the retry. -/
  failClk : Nat
  retry : Bool
  /-- The wake in progress was started by RETRY (R407). -/
  byRetry : Bool
  deriving DecidableEq, Repr

def Dom.reset : Dom := ⟨0, 0, 0, false, false⟩

/-- A vote slot: value (3: empty), last writer and time (R398). -/
structure Vote where
  value : Nat
  actor : Nat
  ns : Nat
  deriving DecidableEq, Repr

/-- The two clocks, the slew and the traceability state beside the EDRYN registers. -/
structure Edryn where
  /-- Edryn time in units of 2^−16 ns (R59), and the rest of the last tick. -/
  time : Nat
  res : Nat
  /-- FCLK cycles since SYS_RST_N or the start-up after OFF: the AON rate clock. -/
  clk : Nat
  /-- Slew still to apply, in units of 2^−16 ns times the tick's denominator (R75). -/
  slew : Int
  /-- The servo timeout's start on the rate clock, and whether it has fired since (R78). -/
  servoClk : Nat
  servoFired : Bool
  /-- The state that ACQUIRING was entered from (R78). -/
  acqFrom : Nat
  /-- BOUND at entry to HOLDOVER, the entry's rate clock, and updates so far (R79). -/
  holdB0 : Nat
  holdClk : Nat
  holdK : Nat
  /-- The DPLL's present index into the free rates (R67), and whether the lane's CDR is locked. -/
  dpll : Nat
  cdr : Tbl Bool
  lastMeasSec : Nat
  /-- Rate clock of the last accepted PPS edge per pin, with 1 added; 0 for none (R68). -/
  ppsClk : Tbl Nat
  /-- The same of the accepted edges before it, newest first, as far back as a message can refer to (R70). -/
  ppsPast : Tbl (List Nat)
  /-- Previously accepted time-of-day seconds, newest first, and the rate clock of the newest (R70). -/
  todSecs : List Nat
  todClk : Nat
  /-- What the last accepted message told the servo. -/
  todMsg : Bytes
  todEdge : Nat
  /-- The Firefly PPS edges that TOD_TX owes a message for, oldest first: the rate clock at which the message is
  due, and the edge's second (R71). -/
  todDue : List (Nat × Nat)
  /-- Time evidence (R84): next SEQ, last periodic multiple, records, previous digest, OFFSET range. -/
  evSeq : Nat
  evLast : Nat
  ev : Tbl (BitVec 2048)
  evPrev : Bytes
  evMin : Option Int
  evMax : Option Int
  evStep : Bool
  /-- Rate clock of start-up or of the last loss of TREF_IN (R66). -/
  trefClk : Nat
  /-- Fraction latches by actor ID (R63). -/
  latch : Tbl Nat
  /-- The time evidence key that this boot generated, as the number of the draw that made it (R85). -/
  evKey : Nat
  deriving DecidableEq, Repr

/-- (DESIGN CHOICE, unsafe: assumption 13) -/
def Edryn.reset : Edryn :=
  ⟨0, 0, 0, 0, 0, false, 4, 0, 0, 0, 0, [], 0, [], [], [], 0, [], 0, [], 0, 0, [], [], none, none, false, 0, [], 0⟩

/-- What the registers of a Firefly output hold (R86): mode, polarity, period, phase, width. -/
structure FfCfg where
  mode : Nat
  pol : Nat
  period : Nat
  phase : Nat
  width : Nat
  deriving DecidableEq, Repr

/-- A Firefly output (R86, R87): the configuration in effect; those that wait, oldest first, each with the Edryn
time of its write; the last rising edge emitted; the instant up to which edges are not to come (a step went
over them, or the output began to run later); and the level. -/
structure Firefly where
  cfg : FfCfg
  waiting : List (Nat × FfCfg)
  lastEdge : Nat
  skip : Nat
  level : Bool
  fallAt : Option Nat
  deriving DecidableEq, Repr

def Firefly.reset : Firefly := ⟨⟨0, 0, 0, 0, 0⟩, [], 0, 0, false, none⟩

/-- The time page's snapshot for one instance page (R82). -/
structure TimePage where
  seq : Nat
  utc : Word
  bound : Nat
  trace : Nat
  cls : Nat
  gm : Word
  steps : Nat
  stepCount : Nat
  ptmHost : Nat
  ptmTai : Nat
  ptmFrac : Nat
  ptmValid : Bool
  snap : Nat
  deriving DecidableEq, Repr

def TimePage.reset : TimePage := ⟨0, 0, 0xFFFF_FFFF, 4, 248, 0, 0, 0, 0, 0, 0, false, 0⟩

/-- A trigger action held for a sleeping domain (R97): comparator, action, argument, ARMED_BY, nominal
instant, STEPPED, and whether it fired LATE. -/
structure HeldAction where
  comp : Nat
  action : Nat
  arg : Nat
  by_ : Nat
  nominal : Nat
  stepped : Bool
  late : Bool
  deriving DecidableEq, Repr

/-- A TAP command in progress (R56): the actor and the operation (1 READ, 2 WRITE, 3 STAGE, 4 INVALIDATE, any
other code MALFORMED), and the address and the data registers at its start. -/
structure TapBusy where
  actor : Nat
  op : Nat
  table : Nat
  index : Nat
  chunk : Nat
  data : BitVec 512
  deriving DecidableEq, Repr

/-- A fault window's events of one member (R414): the times of the last events, or 64 sub-counts by
the start of their sub-window; and the rows of the events with their times (R416). -/
structure FaultWin where
  times : List Nat
  counts : Tbl Nat
  rows : List (Nat × Nat)
  deriving DecidableEq, Repr

def FaultWin.reset : FaultWin := ⟨[], [], []⟩

/-- Repair state of FWC (R416, R417). -/
structure Repair where
  /-- Spares used per SRAM bank, and rows remapped. -/
  spares : Tbl Nat
  remap : List (Nat × Nat)
  /-- The HBM repair list, by stack × 64 + k, and HBM banks whose repair is used. -/
  hbm : Tbl Word
  hbmUsed : List Nat
  /-- The tracking table: member row and time of its newest event (4,096 rows). -/
  track : List (Nat × Nat)
  /-- EVICTED of the tracking table, and the Comb cells retired (R416). -/
  evicted : Nat
  retired : Nat
  deriving DecidableEq, Repr

def Repair.reset : Repair := ⟨[], [], [], [], [], 0, 0⟩

/-- The Keeper's and Chitin's state beside their registers (R422–R437). -/
structure Trust where
  /-- 0 held in reset, 1 steps 1–7, 2 up (step 8 passed), 3 recovery, 4 OFF, 5 reset held by the wake
  detector, 6 stopped in step 2. -/
  phase : Nat
  /-- Rate clock of release from reset. -/
  startClk : Nat
  strapBoot : Nat
  strapHost : Nat
  /-- Fused SVN floor and key revocations. -/
  fuseFloor : Nat
  fuseRevoked : Nat
  /-- Fused digests of image keys (R425), set when the device is made; nothing writes them. One that is not listed is
  open: `Config.fuseKey`. -/
  fuseKeys : Tbl Bytes
  /-- Which fused key verified the running image. -/
  imageKey : Nat
  ssid : Nat
  clocking : Nat
  words : Tbl Word
  measure : Tbl Bytes
  log : Tbl (BitVec 512)
  logN : Nat
  /-- Staged change record and pending submission: party (1 H, 2 P), record, end of its window. -/
  stagedH : Tbl (BitVec 512)
  pend : Option (Nat × Bytes × Nat)
  /-- SPDM sessions: identifier and whether it is a Party P session. -/
  sessions : List (Nat × Bool)
  /-- Image staged into KEEPER TAP table 1, as 64-byte blocks. -/
  image : Tbl (BitVec 512)
  /-- A Keeper firmware image activated or rejected in this UPDATING (0 none, 1 passed, 2 rejected). -/
  checked : Nat
  deriving DecidableEq, Repr

/-- Pins and rails beside the PIN registers (R409–R411, R455–R467). -/
structure Pins where
  /-- REG_EN and REG_PG levels, bit k. -/
  regEn : Nat
  regPg : Nat
  /-- Rate clock at which a lost group-0..2 power-good came back. -/
  pgBack : Nat
  /-- Which of REG_PG0–2 holds the device in reset, bit k. -/
  pgReset : Nat
  wakeClk : Nat
  levels : Nat
  alertN : Bool
  thermTripN : Bool
  hostWakeN : Bool
  /-- Last readings of the regulators (R464). -/
  readings : Tbl Nat
  thermClk : Nat
  /-- A failed regulator or a failed boot holds ALERT_N low (R419, R424, R463). -/
  alertHold : Bool
  /-- The level on SYS_RST_N. -/
  sysRstN : Bool
  deriving DecidableEq, Repr

def Pins.reset : Pins := ⟨1, 0xFF, 0, 0, 0, 0, true, true, true, [], 0, false, false⟩

/-- A port's state beside its registers (R439–R450). -/
structure PortSt where
  /-- End of each egress class's pause on the rate clock, by class (R444). -/
  pauseEnd : Tbl Nat
  /-- Classes for which XOFF was sent, bit t, and the rate clock of each one's last sending. -/
  xoffSent : Nat
  xoffClk : Tbl Nat
  verifyTries : Nat
  verifyClk : Nat
  calClk : Nat
  /-- Partner link level as last reported. -/
  partner : Bool
  /-- Rate clock plus 1 at which each class's unbroken pause began, and the classes whose storm was
  reported (R256). -/
  pauseFrom : Tbl Nat
  stormed : Nat
  deriving DecidableEq, Repr

def PortSt.reset : PortSt := ⟨[], 0, [], 0, 0, 0, false, [], 0⟩

/-- A Waggle channel's await times for crossing detection (R387). -/
structure Cross where
  sinceA : Option Nat
  sinceB : Option Nat
  reported : Bool
  deriving DecidableEq, Repr

def Cross.reset : Cross := ⟨none, none, false⟩

/-- A RESET or DESTROY in progress (R154, R155): squash under way, and its deadline in Edryn ns. -/
structure InstCmd where
  squash : Bool
  deadline : Nat
  deriving DecidableEq, Repr

def InstCmd.none : InstCmd := ⟨false, 0⟩

/-- A fetched entry: its index, its 64 bytes, and how far it is: 0 fetched, 1 its list is being read,
2 list read, 3 started. `list` holds a list that was read (R474), `data` what it works on. -/
structure Ent where
  index : Nat
  raw : BitVec 512
  phase : Nat
  list : Bytes
  data : Nat
  deriving DecidableEq, Repr

/-- What RING remembers of a WQ beside its context: fetched entries in index order, indices completed
above RETIRE, whether it has been reset since its link was sealed (R118), and the completion slots granted
to it for entries it has not fetched yet (R164). -/
structure WqAux where
  ents : List Ent
  done : List Nat
  resetSince : Bool
  granted : Nat
  deriving DecidableEq, Repr

def WqAux.reset : WqAux := ⟨[], [], false, 0⟩

/-- What RING remembers of a CR: the rate clock of the oldest unshadowed completion plus 1 (0: none), a
solicited one among them, the WQs in WAIT_CR in order (R164), reset since the seal (R118). -/
structure CrAux where
  oldest : Nat
  solicited : Bool
  waiters : List Nat
  resetSince : Bool
  deriving DecidableEq, Repr

def CrAux.reset : CrAux := ⟨0, false, [], false⟩

/-- An access or accelerator call that a thread in WAIT waits for (R348): the register that receives its
result (32: none), the result, and whether the unit has answered. `op` is 1 + the Scarab operation; `call`
an accelerator call (function, RS1, RS2) that its unit has not taken yet. -/
structure WaitAcc where
  rd : Nat
  value : Word
  ready : Bool
  op : Nat
  call : Option (Nat × Word × Word)
  deriving DecidableEq, Repr

/-- A Hive thread (R348, R350, R362). -/
structure Thread where
  state : Nat
  q : Tbl Word
  pc : Nat
  pending : Nat
  mask : Nat
  timer : Nat
  startClk : Nat
  retired : Nat
  staging : List Word
  win0 : Option Nat
  win1 : Option Nat
  lastFault : Nat
  /-- Channels on which a commit failed (CH_SPACE interest, R351), as Hive × 256 + channel. -/
  space : List Nat
  wait : Option WaitAcc
  /-- What waits for the end of the access: 0 nothing, 1 a RESET, 2 a debugger halt (R378). -/
  later : Nat
  /-- Rate clock at entry to the present state. -/
  clk : Nat
  deriving DecidableEq, Repr

def Thread.reset : Thread := ⟨0, [], 0, 0, 0, 0, 0, 0, [], none, none, 0, [], none, 0, 0⟩

/-- A Hive beside its registers (R351, R352, R356, R360). -/
structure HiveSt where
  /-- Length of the loaded image in bytes and its entry point. -/
  imgLen : Nat
  entry : Nat
  staged : Tbl (BitVec 512)
  /-- 0 nothing checked in this UPDATING, 1 passed, 2 rejected. -/
  checked : Nat
  /-- Handles of the packets held, oldest first. -/
  held : List Nat
  stalled : Bool
  /-- Rate clock of the last change of what can wake a thread from outside. -/
  cfgClk : Nat
  /-- Rate clock at entry to QUIESCING, and MIGRATE.DONE. -/
  quiClk : Nat
  done : Bool
  deriving DecidableEq, Repr

def HiveSt.reset : HiveSt := ⟨0, 0, [], 0, [], false, 0, 0, false⟩

/-! Packets (R244–R246). -/

/-- What CLASS hands FLOW (R219): the winner's index (0xFFFF: none), LOOKUP, KEY_PROFILE, MARK,
ACTION_LIST and destination. -/
structure ClsRes where
  rule : Nat
  lookup : Bool
  kp : Nat
  mark : Nat
  alist : Nat
  dk : Nat
  dest : Nat
  sub : Nat
  deriving DecidableEq, Repr

/-- The result without a matching rule (R218). -/
def ClsRes.none : ClsRes := ⟨0xFFFF, true, 0, 0, 0xFFFF_FFFF, 0, 0, 0⟩

/-- Where a descriptor stands: waiting for the pipeline with its first pass, its re-entry (R22) or its
re-injection (R240), inside FLOW, in an admission queue, in a queue of SCHED, punted with no Hive in
service, held by a Hive, in Beeline, or on a port's wire. -/
inductive Place where
  | pipe
  | pipeRe
  | pipeFlow
  | flow
  | adm (q : Nat)
  | queue (n : Nat)
  | noHive
  | held (h : Nat)
  | beeline
  | stor
  | wire (p : Nat)
  deriving DecidableEq, Repr

/-- A packet descriptor (R245): one stored packet, or one copy of it. -/
structure Desc where
  pkt : Nat
  /-- Its Comb handle: descriptor index and generation. -/
  handle : Nat
  /-- The copy's bytes as it leaves: the stored bytes under its edit record. -/
  bytes : Bytes
  /-- Ingress timestamp in units of 2^−16 ns, stamped version as a sequence number, whether the packet
  holds it (R210), its parser record, whether it was re-injected, and its source key (R206). -/
  ts : Nat
  ver : Nat
  holds : Bool
  prec : PRec
  re : Bool
  src : Nat
  /-- The record as the last pass wrote it, its first two VLAN tags, whether Scarab decrypted the packet
  or protects it with MACsec. -/
  rec0 : PRec
  vlans : Nat
  decrypted : Bool
  macsec : Bool
  inst : Nat
  tc : Nat
  cr : ClsRes
  key : Bytes
  hash : Nat
  flowIdx : Nat
  mark : Nat
  slot : Option Nat
  dk : Nat
  dest : Nat
  sub : Nat
  /-- Sent by a Hive, transmitted from a handle or re-injected (TYPE_FLAGS [11] of R174). -/
  viaHive : Bool
  /-- Transmitted from a held handle: PARSE takes it as source 9 (R357), delivery still names `src`. -/
  by9 : Bool
  /-- The words still to run, those of the LIST that they jump to as lookup read them (R229), the index of the
  first of them, and the opcodes run so far (R233). -/
  words : List Nat
  jump : List Nat
  wi : Nat
  did : List Nat
  /-- Running an ENCAP whose IPv4 Identification the egress port still fills (R237). -/
  ipid : Bool
  /-- The Scarab operation that the packet waits for. -/
  op : Option Nat
  /-- The packet has missed before, or was re-injected (R240). -/
  again : Bool
  /-- Its punt: reason (0 none), word, COPY, and the notice bit. -/
  reason : Nat
  word : Nat
  copy : Bool
  /-- The copy counts for its NET_TX entry (R25). -/
  main : Bool
  place : Place
  /-- Edryn ns of admission and the rate clock since which it waits. -/
  admNs : Nat
  waitClk : Nat
  stuck : Bool
  /-- Timed packets: LAUNCH_NS, and the reason for which it is late (R278). -/
  launch : Option Nat
  late : Nat
  /-- The slot current when it became late on insertion or by a step (R279). -/
  lateSlot : Nat
  lateDiscard : Bool
  /-- The NET_TX WQ and the leaf that the packet comes by, while it is on its way (R266, R278). -/
  txq : Option (Nat × Nat)
  /-- The tag of a transmit timestamp record that a Hive asked for, with the Hive (R357). -/
  txts : Option (Nat × Nat)
  /-- Reference-point time of its transmission, and the Edryn time at which its frame started. -/
  egress : Nat
  onAt : Nat
  deriving DecidableEq, Repr

/-- The NET_TX entry that a packet comes from: WQ, index, leaf, port copies not yet sent, and what its
completion reports; `pend`: it holds a pending entry of Beeline and a unit of BEELINE_USED (R275). -/
structure TxWork where
  wq : Nat
  index : Nat
  leaf : Nat
  left : Nat
  lateAny : Bool
  csum : Nat
  pend : Bool
  deriving DecidableEq, Repr

/-- The cells of a packet (R244, R246): stored bytes, their number, the descriptors that reference them,
whether the Beeline reserve holds them, the ingress account or Hive charged, the instance charged as
sender, and the destinations charged (instance, or egress account from 4096). -/
structure Pkt where
  bytes : Bytes
  cells : Nat
  refs : Nat
  rsv : Bool
  acct : Option Nat
  hive : Option Nat
  sender : Option Nat
  dests : List Nat
  work : Option TxWork
  deriving DecidableEq, Repr

/-- A scheduler node beside its record (R268, R270): start and finish tags, tokens in units of 2^−16 byte
with the rate clock of the last refill, whether it is backlogged, its packets, the WQs of a delivery
queue in rotation, and the rates in effect, which follow the record at the next tag assignment (R148). -/
structure Node where
  s : Nat
  f : Nat
  ctok : Int
  ptok : Int
  clk : Nat
  back : Bool
  q : List Nat
  rot : List Nat
  cir : Nat
  pir : Nat
  deriving DecidableEq, Repr

def Node.reset : Node := ⟨0, 0, 0, 0, 0, false, [], [], 0, 0⟩

/-- A policer's buckets in units of 2^−16 byte and the rate clock of their last refill (R272). -/
structure Meter where
  tc : Nat
  te : Nat
  clk : Nat
  deriving DecidableEq, Repr

def Meter.reset : Meter := ⟨0, 0, 0⟩

/-- A NET_TX entry that waits for cells (R257). -/
structure CellWait where
  wq : Nat
  index : Nat
  cells : Nat
  timed : Bool
  deriving DecidableEq, Repr

/-! Scarab (R286–R303). -/

/-- What an operation serves: an inline packet (by descriptor), a CRYPTO entry, a storage part, a Hive
call. -/
inductive SUse where
  | inline (d : Nat)
  | entry (wq index : Nat)
  | part (id : Nat)
  | call (th : Nat)
  deriving DecidableEq, Repr

/-- An operation (R288): its sequencer once it has started, its slot (2^20: none), the generation and
material it took at its start (R294), the COUNT it used (R297), a failure it ends with, its blocks, the
instance that SCARAB counts it for, and whether a block was computed again (R301). -/
structure SOp where
  use : SUse
  seq : Option Nat
  /-- 0 a decrypting or other use, 1 one that takes a COUNT at its start, 2 a TLS transmit. -/
  dir : Nat
  slot : Nat
  gen : Nat
  mat : BitVec 1024
  count : Nat
  fail : Nat
  blocks : Nat
  inst : Nat
  retried : Bool
  /-- Bytes of the request: input, nonce or tweak, and tag, as its use lays them out. -/
  req : Bytes
  deriving DecidableEq, Repr





/-! Storage (R311–R326). -/

/-- A part (R315): its request, number and command (0 Read, 1 Write, 2 Compare, 3 Write Zeroes, 4 Dataset
Management, 5 Flush); first LBA and LBA count; remote LBA; extent state; connection (0xFFFF: unused target),
target and remote NSID; the bytes' place in the request's buffer; its phase (0 not issued, 1 fetching host
data, 2 fetched, 3 in Scarab, 4 ready to send, 5 sent, 6 data to place, 7 ended, 9 zero fill waiting for a translation); its remote CID, data,
bytes received or sent, rate clock of its issue; MAP_FENCE mark; cause and NVMe status; the first mismatch;
whether it was zero-filled, applied XTS, was computed again, and the generation used. -/
structure SPart where
  req : Nat
  no : Nat
  cmd : Nat
  lba : Nat
  nlb : Nat
  rlba : Nat
  ext : Nat
  conn : Nat
  tgt : Nat
  rnsid : Nat
  off : Nat
  phase : Nat
  cid : Nat
  data : Bytes
  seen : Nat
  clk : Nat
  marked : Bool
  cause : Nat
  status : Nat
  mism : Option Nat
  zero : Bool
  retried : Bool
  gen : Nat
  deriving DecidableEq, Repr

/-- A request (R312): WQ, index, instance, namespace, its entry, host ranges of its buffer, the namespace
record it was split under, its parts in order, and whether a squash ended it or a host failure stops it
(0 none, else the status of that failure). -/
structure SReq where
  wq : Nat
  index : Nat
  inst : Nat
  ns : Nat
  raw : BitVec 512
  ranges : List (Nat × Nat)
  nsr : BitVec 1024
  parts : List Nat
  squash : Bool
  host : Nat
  /-- Rate clock of its start. -/
  start : Nat
  deriving DecidableEq, Repr

/-- The transport state of a connection (R319). TCP: una, nxt and rcv are SND.UNA, SND.NXT and RCV.NXT, `out`
the bytes from una on, `ooo` segments out of order; RoCEv2: packet sequence numbers, `pkts` the packets not
yet acknowledged (PSN, opcode, payload), `msg` the SEND being received. `stream` holds bytes of a PDU not
yet whole. -/
structure Conn where
  una : Nat
  nxt : Nat
  rcv : Nat
  wnd : Nat
  cwnd : Nat
  ssthresh : Nat
  dup : Nat
  recover : Nat
  fast : Bool
  srtt : Nat
  rttvar : Nat
  rto : Nat
  timer : Nat
  rttSeq : Option (Nat × Nat)
  tsRecent : Nat
  ece : Bool
  cwr : Bool
  out : Bytes
  ooo : List (Nat × Bytes)
  stream : Bytes
  pkts : List (Nat × Nat × Bytes)
  msg : Bytes
  /-- RDMA WRITE in progress: part and offset. -/
  place : Option (Nat × Nat)
  tries : Nat
  deriving DecidableEq, Repr

/-- (DESIGN CHOICE, unsafe: assumption 13) -/
def Conn.reset : Conn :=
  ⟨0, 0, 0, 0, 0, 0, 0, 0, false, 0, 0, 0, 0, none, 0, false, false, [], [], [], [], [], none, 0⟩

/-! Forager (R328–R343). -/

/-- A descriptor in a channel: its channel, the WQ entry it is (or none and its ring index), its 64 bytes,
its phase (0 waiting in the channel, 1 WAITING for its instant or trigger, 2 started, 3 its data being
read), units written or compared, the Edryn ns of its start, STEPPED, started by a trigger, late, whether an
abort or squash ends it (its status, else 0). -/
structure FDesc where
  ch : Nat
  entry : Option (Nat × Nat)
  index : Nat
  raw : BitVec 512
  phase : Nat
  pos : Nat
  ns : Nat
  stepped : Bool
  trig : Bool
  late : Bool
  stop : Nat
  deriving DecidableEq, Repr





/-- A write to a doorbell or to `ICMD` of an instance page that waits for FABRIC (R42): its key among the
transfers, instance, offset, width and value. -/
structure PageWrite where
  key : Nat
  inst : Nat
  off : Nat
  wide : Bool
  value : Word
  deriving DecidableEq, Repr

/-- The state of the TQ16. -/
structure State where
  pending : List Instr
  /-- Every register that does not read what it reads after SYS_RST_N, by address. -/
  regs : Tbl Word
  /-- Free values taken so far: the next one is `Config` applied to it. -/
  free : Nat
  out : List Out
  edryn : Edryn
  ff : Tbl Firefly
  page : Tbl TimePage
  held : List HeldAction
  links : Tbl Link
  jobs : Tbl DmaJob
  jobN : Nat
  xl : List XlEntry
  /-- Translations that failed and that an engine has yet to be told of: instance, page, for a write, and the
  status (R113, R153). -/
  xlDenied : List (Nat × Nat × Bool × Nat)
  /-- Instance interrupt table (R124). -/
  ints : Tbl Word
  tapBusy : Tbl TapBusy
  tapClk : Tbl Nat
  dom : Tbl Dom
  votes : Tbl Vote
  /-- Transfers that hold a domain (R400): the domain and a key that names the work item. -/
  xfer : List (Nat × Nat)
  fwc : Tbl FaultWin
  repair : Repair
  trust : Trust
  pins : Pins
  port : Tbl PortSt
  cross : Tbl Cross
  /-- Instance records (R143) and their staged chunks 0 and 1; deadlines and modes of commands. -/
  inst : Tbl (BitVec 1536)
  instStaged : Tbl (BitVec 1024)
  instCmd : Tbl InstCmd
  /-- WQ and CR contexts (R178), by global number, and what RING remembers beside them. -/
  wq : Tbl (BitVec 512)
  cr : Tbl (BitVec 512)
  wqx : Tbl WqAux
  crx : Tbl CrAux
  /-- Status of each instance's last ICMD (R182). -/
  icmd : Tbl Nat
  /-- HBM, Hive stores (4 MiB each) and instruction memories (512 KiB each), by byte. -/
  hbm : Tbl Byte
  store : Tbl Byte
  imem : Tbl Byte
  thread : Tbl Thread
  hive : Tbl HiveSt
  /-- Hive channels: their configuration word and their messages, oldest first (R351). -/
  hchan : Tbl Word
  hmsg : Tbl (List (List Word))
  /-- Requests taken and not yet answered on instance channels (R393). -/
  chOpen : Tbl Nat
  /-- Parser configurations by version sequence number, the staged one, and the counters of TAP tables 2 and 3. -/
  pcfg : Tbl (BitVec 1024)
  pcfgStaged : BitVec 1024
  pcount : Tbl Nat
  /-- Rule entries (R204), the Edryn ns of each assembly's last STAGE, and OLDEST_SEQ. -/
  rules : Tbl (BitVec 2048)
  ruleNs : Tbl Nat
  oldest : Nat
  /-- Flow contexts (R225), key profiles, templates, steering entries, insert buffers by actor, held chunks 2 by actor and index, IPv4 Identification counters, the rate clock of the last learned insertion plus 1. -/
  flows : Tbl (BitVec 2048)
  profiles : Tbl (BitVec 512)
  templates : Tbl (BitVec 1024)
  steer : Tbl Nat
  insBuf : Tbl (BitVec 2048)
  flowHeld : Tbl (BitVec 512)
  ipId : Tbl Nat
  learnClk : Nat
  /-- Packets and descriptors by serial number, the generation of each descriptor index. -/
  pkts : Tbl Pkt
  descs : Tbl Desc
  serial : Nat
  gens : Tbl Nat
  /-- Packets that wait for the pipeline or for a Hive, in order; admission queues. -/
  pipeWait : List Nat
  noHive : List Nat
  admq : Tbl (List Nat)
  /-- Port accounts (R253), shared cells in use, Hive charges, XOFF entry clocks, the LFSR of R260 as its distance from the seed, Swarm groups and members, reserve regions and their content. -/
  accts : Tbl (BitVec 512)
  poolUsed : Nat
  hiveCells : Tbl Nat
  xoffClk : Tbl Nat
  lfsr : Nat
  groups : Tbl Nat
  members : Tbl Nat
  rsvSize : Tbl Nat
  rsvMem : Tbl Byte
  cellWait : List CellWait
  /-- Scheduler node records and their running state, group virtual times, policers and their buckets, sample sets, telemetry rings. -/
  nodes : Tbl (BitVec 512)
  noder : Tbl Node
  groupV : Tbl Nat
  policers : Tbl (BitVec 512)
  meters : Tbl Meter
  samples : Tbl (BitVec 512)
  trings : Tbl (BitVec 512)
  /-- Timed packets in Beeline, in insertion order; ports whose preemptible traffic is held. -/
  beeline : List Nat
  blHold : Tbl Bool
  /-- Key-slot records with their material, pending generations, chunks 0 held by the TAP (by slot × 65536 + actor), the generation plus 1 whose SOFT was reported. -/
  slots : Tbl (BitVec 1024)
  slotPend : Tbl (BitVec 1024)
  slotHeld : Tbl (BitVec 512)
  softSeen : Tbl Nat
  /-- Scarab operations by number, oldest first; the staged mode-program image; loaded mode IDs, bit by ID, and those of the staged image; each pair's mask generator seed with the clock of its last reseed; the KEK. -/
  sops : Tbl SOp
  opN : Nat
  progStage : Tbl (BitVec 512)
  modes : Nat
  modesStaged : Nat
  maskSeed : Tbl Word
  maskClk : Tbl Nat
  kek : Bytes
  /-- Applied peer windows (R121), by link × 64 + k: PW_BASE, PW_TGT and PW_REQ, lowest first. -/
  peerWin : Tbl (BitVec 192)
  /-- A mode-program image is with the Keeper (R289); the measurement digests written last, by index, are in `trust`. -/
  progBusy : Bool
  /-- Namespace records, extent entries, connection records (R313–R320), chunks 0 held by index × 65536 + actor, transport state, requests, parts, packets that reached STOR, the requests' numbers, marked parts of the fence. -/
  nsRec : Tbl (BitVec 1024)
  extents : Tbl (BitVec 128)
  connRec : Tbl (BitVec 1024)
  nsHeld : Tbl (BitVec 512)
  connHeld : Tbl (BitVec 512)
  connx : Tbl Conn
  sreqs : Tbl SReq
  sparts : Tbl SPart
  storIn : List Nat
  reqN : Nat
  /-- Forager channel records, descriptors in channels, in order of arrival. -/
  chRec : Tbl (BitVec 512)
  fdescs : Tbl FDesc
  fdescN : Nat
  /-- Data read with an uncorrectable error on its way (R418): 1 the next host write of an instance, 2 a thread's access, 3 a packet. -/
  poison : List (Nat × Nat)
  /-- NC-SI frames handed to Hive firmware (R451), oldest first. -/
  ncsi : List Bytes
  /-- What a unit's service logic waits for (R49, R54, R470), by its base: 4 × kind + reason, with kind 0 a request held for a sleeping domain, 1 a self-test, 2 return checks, 3 the check of a staged image, and reason 1 REQUEST, 2 PARENT. -/
  svc : Tbl Nat
  /-- Instance-page writes held for FABRIC, in order of arrival (R42), and their keys. -/
  dbWait : List PageWrite
  dbN : Nat
  /-- Bytes written through a Comb window past a packet's stored length, plus 1, by packet × 16384 + offset (R347). -/
  pad : Tbl Nat
  /-- Comparators that FABRIC's return found due, until they fire LATE (R88). -/
  trigLate : List Nat
  /-- Rate clock plus 1 of the aging visit that a flow context had last (R242). -/
  ageClk : Tbl Nat
  /-- Blocks that each Scarab pair has computed since its generator was reseeded last (R287). -/
  maskBlk : Tbl Nat
  deriving DecidableEq, Repr


/-- The Keeper and Chitin held in reset: nothing read, nothing fused but what the part left test with. (DESIGN CHOICE, unsafe: assumption 13) -/
def Trust.reset : Trust :=
  ⟨0, 0, 0, 0, 0, 0, [], 0, 0, 0, [], [], [], 0, [], none, [], [], 0⟩

/-- The state with SYS_RST_N low (R11): every register at its reset value, every table empty. (DESIGN CHOICE, safe: assumption 3) (DESIGN CHOICE, unsafe: assumption 10) (DESIGN CHOICE, unsafe: assumption 11) (DESIGN CHOICE, unsafe: assumption 13) -/
def State.reset : State :=
  ⟨[], [], 0, [], Edryn.reset, [], [], [], [], [], 0, [], [], [], [], [], [], [], [], [], Repair.reset,
    Trust.reset, Pins.reset, [], [], [], [], [], [], [], [], [], [],
    [], [], [], [], [], [], [], [],
    [], pcfgDefault, [], [], [], 0, [], [], [], [], [], [], [], 0, [], [], 0, [], [], [], [], [], 0, [], [], 0xACE1, [], [], [], [], [], [], [], [], [], [], [], [], [], [],
    [], [], [], [], [], 0, [], 0x3E, 0, [], [], [],
    [],
    false,
    [], [], [], [], [], [], [], [], [], 0, [], [], 0, [],
    [],
    [],
    [], 0, [], [], [], []⟩

end Sys2Proof.Machine
end

