-- ==== Sys2Proof/Machine/Ops.lean ====
section
/-! DEFINITION. The operations every unit shares: registers and their fields, free values, actors and
their permissions (R17, R18, R432), power domains, links and MSI-X (R122), unit events (R47, R123) and
faults, service states (R49–R51), claims (R57, R58). -/

namespace Sys2Proof.Machine

/-! Registers. -/

/-- The value a register holds. -/
def State.reg (s : State) (a : Nat) : Word := tget (regReset a) s.regs a
/-- A register written whole. -/
def State.setReg (s : State) (a : Nat) (v : Word) : State := { s with regs := tset (regReset a) s.regs a v }
/-- A register field. -/
def State.g (s : State) (f : Fld) : Nat := getF (s.reg f.reg) f.hi f.lo
/-- A register field written. -/
def State.p (s : State) (f : Fld) (v : Nat) : State := s.setReg f.reg (putF (s.reg f.reg) f.hi f.lo v)
/-- A register field that is one bit. -/
def State.gb (s : State) (f : Fld) : Bool := s.g f == 1
/-- A one-bit register field written. -/
def State.pb (s : State) (f : Fld) (b : Bool) : State := s.p f (b2n b)
/-- A counter field raised by `n`, saturating at its width. -/
def State.addSat (s : State) (f : Fld) (n : Nat) : State := s.p f (satAdd (f.hi + 1 - f.lo) (s.g f) n)
/-- A counter field raised by 1, saturating. -/
def State.inc (s : State) (f : Fld) : State := s.addSat f 1

/-- The next free value (the spec leaves it open). (DESIGN CHOICE, safe: assumption 14) -/
def State.fresh (s : State) : Word × State := (Config.freeValue s.free, { s with free := s.free + 1 })
/-- Free bytes. (DESIGN CHOICE, safe: assumption 14) -/
def State.freshBytes (s : State) (n : Nat) : Bytes × State :=
  (padTo n (Config.freeBytes s.free n), { s with free := s.free + 1 })
/-- Something leaves the device. (DESIGN CHOICE, unsafe: assumption 7) -/
def State.emit (s : State) (o : Out) : State := { s with out := s.out ++ [o] }

/-! Time. -/

/-- Edryn time in whole ns, truncated (R60). -/
def State.ns (s : State) : Nat := s.edryn.time / 65536
/-- Edryn time quantized to 125 ps: ns and fraction (R60). -/
def quant125 (t : Nat) : Nat := (t + 0x1000) / 0x2000 * 0x2000
/-- An Edryn time moved by so many ps, quantized to 125 ps. -/
def quantPs (t : Nat) (ps : Int) : Nat := ((2 * ((t : Int) * 1000 + ps * 65536) + 8_192_000).ediv 16_384_000).toNat * 0x2000
/-- FCLK cycles of the rate clock in so many ns, rounded up. (DESIGN CHOICE, unsafe: assumption 6) -/
def cyc (ns : Nat) : Nat := ceilDiv (ns * 3) 2
/-- ns on the rate clock since a reading of it. -/
def State.since (s : State) (clk : Nat) : Nat := (s.edryn.clk - clk) * 2 / 3

/-! Actors (R17, R18). -/

/-- Whether an actor ID is one that R17 lists. -/
def actorOk (a : Nat) : Bool :=
  (1 ≤ a && a ≤ 4) || (0x100 ≤ a && a ≤ 0x8FF) || (0x1000 ≤ a && a < 0x1000 + 768) ||
  a == 0x2000 || a == 0x2001 || a == 0x2002
def isPf (a : Nat) : Bool := 1 ≤ a && a ≤ 4
def isInst (a : Nat) : Bool := 0x100 ≤ a && a ≤ 0x8FF
def isThread (a : Nat) : Bool := 0x1000 ≤ a && a < 0x1000 + 768
/-- Number of a Hive thread: Hive × 64 + core × 8 + thread. -/
def threadNo (a : Nat) : Nat := a - 0x1000

/-- A Chitin word, its default before any change (R432). -/
def chitinDefault (n : Nat) : Word :=
  match n with
  | 0 => 1
  | 2 => 0x0FFF_FFFE
  | 4 => 0x0004_0000
  | _ => 0
/-- The value of a Chitin word. -/
def State.chitin (s : State) (n : Nat) : Nat := (tget (chitinDefault n) s.trust.words n).toNat
/-- The actor ID of the owner physical function. -/
def State.owner (s : State) : Nat := s.chitin 0 % 8
/-- Whether a Hive thread (by number) is designated secure (R18). -/
def State.secThread (s : State) (t : Nat) : Bool := bit (s.g (HIVE.SECURE.THREADS (t / 64))) (t % 64)
/-- Whether an actor is secure (R18). -/
def State.secure (s : State) (a : Nat) : Bool :=
  a == 0x2000 || a == 0x2001 || (isThread a && s.secThread (threadNo a))

/-- Whether Chitin permits an actor to write units of a type (R432). (DEDUCED, unsafe: assumption 28) -/
def State.permits (s : State) (a : Nat) (t : UType) : Bool :=
  if a == 0x2000 || a == s.owner then true
  else if isInst a then false
  else if isPf a then bit (s.chitin 1) t.code
  else if isThread a then
    if s.secThread (threadNo a) then bit (s.chitin 2) t.code else bit (s.chitin 3) t.code
  else if a == 0x2001 then bit (s.chitin 4) t.code
  else if a == 0x2002 then bit (s.chitin 5) 0 && bit (s.chitin 4) t.code
  else false

/-! Power domains. -/

/-- State of a domain (R396): RUN for AON and for units with no domain of their own (R42). -/
def State.domState (s : State) (d : Nat) : Nat :=
  if d = 0 ∨ 25 < d then 0 else s.g (PWR.DOM_STAT.STATE d)
/-- Whether a domain is RUN or IDLE. -/
def State.domUp (s : State) (d : Nat) : Bool := s.domState d ≤ 1
/-- Whether a domain is in SLEEP or DEEP (R38). -/
def State.domDown (s : State) (d : Nat) : Bool := s.domState d == 2 || s.domState d == 3

/-! Links. -/

def State.link (s : State) (l : Nat) : Link := tget Link.reset s.links l
def State.setLink (s : State) (l : Nat) (v : Link) : State := { s with links := tset Link.reset s.links l v }
def State.modLink (s : State) (l : Nat) (f : Link → Link) : State := s.setLink l (f (s.link l))

/-- Codes of the configuration fields kept in `Link.cfg`; the value of an absent one is 0. -/
def cfgFuncMask : Nat := 1
def cfgRoEn : Nat := 2
def cfgIdoEn : Nat := 3
def cfgMps : Nat := 4
def cfgMrrs : Nat := 5
def cfgAts : Nat := 6
def cfgPtm : Nat := 7
def cfgPasid : Nat := 8
def cfgPower : Nat := 9
/-- AER uncorrectable status, correctable status and header log. -/
def cfgAerUnc : Nat := 10
def cfgAerCor : Nat := 11
def cfgAerLog : Nat := 12
/-- AER masks, severity and prefix log; the control bits of L1 PM substates. -/
def cfgAerUncMask : Nat := 13
def cfgAerSev : Nat := 14
def cfgAerCorMask : Nat := 15
def cfgAerPrefix : Nat := 32
def cfgL1 : Nat := 33
/-- The control bits of Command, Device Control and Link Control that move nothing here, and AER's First Error
Pointer. -/
def cfgCmd : Nat := 34
def cfgDevCtl : Nat := 35
def cfgLinkCtl : Nat := 36
def cfgFep : Nat := 37
def cfgBar (i : Nat) : Nat := 16 + i

/-- What a configuration field reads after a conventional reset: PCIe's defaults (Enable Relaxed
Ordering 1, MPS code 0, MRRS code 2, AER severity and correctable mask). (PRESUMED, unsafe: assumption 37) -/
def cfgReset (k : Nat) : Nat :=
  if k = 2 then 1 else if k = 5 then 2 else if k = 14 then 0x0046_2030 else if k = 15 then 0x0000_E000
  else if k = 13 then 0x0040_0000 else if k = 35 then 0x0900 else 0
def Link.cfgGet (k : Link) (f : Nat) : Nat := tget (cfgReset f) k.cfg f
def Link.cfgSet (k : Link) (f v : Nat) : Link := { k with cfg := tset (cfgReset f) k.cfg f v }

/-- A peer window's record after SYS_RST_N: SIZE_LOG2 is 16 (R121). -/
def pwReset : BitVec 192 := BitVec.ofNat 192 (16 * 2 ^ 32)
/-- The applied copy of a link's peer window. -/
def State.window (s : State) (l k : Nat) : BitVec 192 := tget pwReset s.peerWin (l * 64 + k)

/-- Whether the straps fit link l (R103). -/
def State.fitted (s : State) (l : Nat) : Bool :=
  match s.trust.strapHost with
  | 0 => l == 0 || l == 2
  | 1 => l < 4
  | 2 => l == 0
  | _ => l < 2
def State.bme (s : State) (l : Nat) : Bool := s.gb (HOSTLINK.LINK_STAT.BME l)
def State.dlUp (s : State) (l : Nat) : Bool := s.gb (HOSTLINK.LINK_STAT.DL_UP l)
def State.sealed (s : State) (l : Nat) : Bool := s.gb (HOSTLINK.SEAL.SEALED l)

/-- A TLP enters a link's transmit queue. (DESIGN CHOICE, unsafe: assumption 7) -/
def State.send (s : State) (l : Nat) (t : Tlp) : State := s.modLink l (fun k => { k with tx := k.tx ++ [t] })

/-- Whether an MSI-X message of a vector can be sent (R122). -/
def State.msixOpen (s : State) (l v : Nat) : Bool :=
  s.bme l && s.gb (HOSTLINK.LINK_STAT.MSIX_EN l) && (s.link l).cfgGet cfgFuncMask == 0 &&
  getF (tget msixReset (s.link l).msix v) 96 96 == 0 && s.dlUp l

/-- A vector is signalled: its message is sent, or its PBA bit is set (R122). -/
def State.signal (s : State) (l v : Nat) : State :=
  if s.msixOpen l v then
    let e := tget msixReset (s.link l).msix v
    s.send l (.msix v (getF e 63 0) (getF e 95 64))
  else s.modLink l (fun k => { k with pba := k.pba ||| BitVec.ofNat 2048 (2 ^ v) })

/-- Whether a message of a vector has to wait for a write: an instance interrupt entry that names the vector belongs
to an instance with a write held on the link (R127). (DESIGN CHOICE, safe: assumption 134) -/
def State.vecBehind (s : State) (l v : Nat) : Bool :=
  s.ints.any (fun e => getF e.2 24 24 == 1 && getF e.2 10 0 == v &&
    (s.link l).held.any (fun p => p.inst == getF e.2 22 12))

/-- Pending messages that have become sendable are sent in ascending vector order and their PBA bits
cleared (R122), each behind the writes that caused it (R127). -/
def State.sendPendingFrom (s : State) (l : Nat) : List Nat → State
  | [] => s
  | v :: r =>
    if bit (s.link l).pba.toNat v && s.msixOpen l v && !s.vecBehind l v then
      let s := s.modLink l (fun k => { k with pba := k.pba &&& ~~~ BitVec.ofNat 2048 (2 ^ v) })
      (s.signal l v).sendPendingFrom l r
    else s.sendPendingFrom l r
def State.sendPending (s : State) (l : Nat) : State :=
  if (s.link l).pba = 0 then s else s.sendPendingFrom l (List.range 2048)

/-! Unit events (R47). -/

/-- The enables that let a common event bit of a unit reach ROOT's condition. -/
def State.enChain (s : State) (u : Nat) : Nat :=
  let own := s.g (UNIT.EVT_EN.COMMON_EN u)
  match unitAt u with
  | none => 0
  | some i =>
    if u = 0 then own
    else if i.parent = 0 then own &&& s.g (UNIT.EVT_EN.COMMON_EN 0)
    else own &&& s.g (UNIT.EVT_EN.COMMON_EN i.parent) &&& s.g (UNIT.EVT_EN.COMMON_EN 0)

/-- Whether a register's value holds an enabled common event (R123). -/
def State.devHit (s : State) (e : Nat × Word) : Bool :=
  match unitAt e.1 with
  | some i => e.1 - i.base == 0x18 && (e.2.toNat % 256) &&& s.enChain i.base != 0
  | none => false
/-- The device event condition E (R123): an enabled common event anywhere below ROOT. -/
def State.devCond (s : State) : Bool := s.regs.any s.devHit

/-- The device event vectors of the links that enable them (R123). -/
def State.signalDev (s : State) : State :=
  [0, 1, 2, 3].foldl (fun s l =>
    if s.gb (HOSTLINK.DEV_EVT.EN l) then s.signal l (s.g (HOSTLINK.DEV_EVT.VECTOR l)) else s) s

/-- An event register changes; the device event interrupt follows the condition's rise (R123). -/
def State.withDevEvent (s t : State) : State := if !s.devCond && t.devCond then t.signalDev else t

/-- Bit b of a unit's `UNIT_EVT` is set. -/
def State.evt (s : State) (u b : Nat) : State :=
  s.withDevEvent (s.setReg (UNIT.EVT.reg u) (s.reg (UNIT.EVT.reg u) ||| BitVec.ofNat 64 (2 ^ b)))

/-- The common events of R46. -/
def State.evtErr (s : State) (u : Nat) : State := s.evt u 6
def State.evtConflict (s : State) (u : Nat) : State := s.evt u 5

/-- What a unit's common event bits read: its own, and its children's where they enable them (R47). -/
def State.evtCommon (s : State) (u : Nat) : Nat :=
  let own (v : Nat) : Nat := s.g ⟨UNIT.EVT.reg v, 7, 0⟩
  let en (v : Nat) : Nat := s.g (UNIT.EVT_EN.COMMON_EN v)
  (childBases u).foldl (fun a c =>
    a ||| (((childBases c).foldl (fun b d => b ||| (own d &&& en d)) (own c)) &&& en c)) (own u)

/-- A fault is recorded in a unit and, with the child's place, in its parents (R46, R51). -/
def State.faultAt (s : State) (u code src : Nat) : State :=
  let s := if s.g (UNIT.FAULT.CODE u) = 0 then (s.p (UNIT.FAULT.CODE u) code).p (UNIT.FAULT.SRC u) src else s
  s.inc (UNIT.FAULT.COUNT u)
def childIndex (p u : Nat) : Nat := ((childBases p).findIdx (fun c => c = u))
/-- The parents of a unit, nearest first (R48). -/
def parentsOf (u : Nat) : List Nat :=
  match unitAt u with
  | none => []
  | some i => if u = 0 then [] else if i.parent = 0 then [0] else [i.parent, 0]
/-- A fault below a parent, with the place of the child that it came through. -/
def State.faultUp (s : State) (u code : Nat) : State :=
  ((parentsOf u).foldl (fun x p => ((x.1.faultAt p code (childIndex p x.2)).evt p 1, p)) (s, u)).1
def State.fault (s : State) (u code : Nat) : State := ((s.faultAt u code 0xFFFF).evt u 1).faultUp u code

/-! Service states (R49, R51). -/

def svcIn : Nat := 0
def svcQuiescing : Nat := 1
def svcOut : Nat := 2
def svcUpdating : Nat := 3
def svcFailed : Nat := 4

/-- A unit's own CUR, before R51 computes a parent's. -/
def State.ownCur (s : State) (u : Nat) : Nat := s.g (UNIT.SVC.CUR u)
def State.notFitted (s : State) (u : Nat) : Bool := s.g (UNIT.SVC.REASON u) == 5 && s.ownCur u == svcOut

/-- What CUR reads: for a parent, the first of R51's list over its own logic and its subtree. -/
def State.cur (s : State) (u : Nat) : Nat :=
  if (childBases u).isEmpty then s.ownCur u
  else
    let all := ((subtree u).filter (fun v => !s.notFitted v)).map s.ownCur
    let live := all.filter (fun c => c != svcFailed)
    if live.isEmpty then svcFailed
    else if live.all (fun c => c == svcOut) then svcOut
    else if live.all (fun c => c == svcUpdating) then svcUpdating
    else if live.all (fun c => c == svcIn) then svcIn
    else svcQuiescing

/-- A unit takes work (R49). -/
def State.inService (s : State) (u : Nat) : Bool := s.cur u == svcIn

/-- A change of a unit's own CUR with its reason: SVC_CHANGE in the unit and in each parent whose
computed CUR changes (R49, R51); a parent's REASON stays what it was. (DESIGN CHOICE, unsafe: assumption 130) -/
def State.setCur (s : State) (u cur reason : Nat) : State :=
  let ps := parentsOf u
  let t := (s.p (UNIT.SVC.CUR u) cur).p (UNIT.SVC.REASON u) reason
  let t := if s.cur u ≠ t.cur u then t.evt u 0 else t
  ps.foldl (fun t p => if s.cur p ≠ t.cur p then t.evt p 0 else t) t

/-- What a unit's service logic waits for. -/
def State.setSvc (s : State) (u v : Nat) : State := { s with svc := tset 0 s.svc u v }

/-- A unit becomes FAILED (R49, R50): its service requests in progress are over, and the fault is recorded, with a
free code where the unit has recorded none; a parent that has recorded none since it was cleared records the child
(R51). A unit that is not fitted stays so (R41). (DESIGN CHOICE, safe: assumption 131) -/
def State.failUnit (s : State) (u reason : Nat) : State :=
  if s.ownCur u = svcFailed ∨ s.notFitted u then s
  else
    let s := (s.setSvc u 0).setCur u svcFailed reason
    let c := s.g (UNIT.FAULT.CODE u)
    if c = 0 then
      let (v, s) := s.fresh
      s.fault u (1 + v.toNat % 0xFFFF)
    else ((parentsOf u).foldl (fun x p =>
      (if x.1.g (UNIT.FAULT.CODE p) = 0 then (x.1.faultAt p c (childIndex p x.2)).evt p 1 else x.1, p)) (s, u)).1

/-! Access checks. -/

/-- The claim word that restricts a write to an address, if any (R58): its address and the unit whose
`UNIT_EVT` reports a conflict. Per-resource words govern alone what they cover. -/
def claimOver (a : Nat) : Option (Nat × Nat) :=
  match unitAt a with
  | none => none
  | some u =>
    let off := a - u.base
    if off < 0x40 then none
    else if hasTap u.type && decide (0x100 ≤ off) && decide (off < 0x180) then none
    else match u.type with
    | .trig =>
      if 0x1000 ≤ off ∧ off < 0x5000 then some (TRIG.CLAIM.reg ((off - 0x1000) / 0x40), u.base)
      else if off < 0x60 then none
      else some (UNIT.CLAIM.reg u.base, u.base)
    | .comb => if 0x200 ≤ off ∧ off < 0x280 then none else some (UNIT.CLAIM.reg u.base, u.base)
    | .forager =>
      if off < 0x80 then some (FORAGER.GRP_CLAIM.reg ((off - 0x40) / 8), u.base)
      else if off < 0xC0 then none
      else some (UNIT.CLAIM.reg u.base, u.base)
    | .pin =>
      if 0x100 ≤ off ∧ off < 0x200 then
        if off % 16 < 8 then some (PIN.CLAIM.reg ((off - 0x100) / 16), u.base) else none
      else if off < 0x50 then none
      else some (UNIT.CLAIM.reg u.base, u.base)
    | .edryn =>
      if 0x200 ≤ off ∧ off < 0x280 then some (PIN.CLAIM.reg (12 + (off - 0x200) / 0x20), PIN.base)
      else some (UNIT.CLAIM.reg u.base, u.base)
    | .waggle =>
      if 0x1_0000 ≤ off then (if off % 0x40 = 0x28 then some (UNIT.CLAIM.reg u.base, u.base) else none)
      else if 0x1000 ≤ off ∧ off < 0x2000 then none
      else if 0x2000 ≤ off ∧ off % 16 = 8 then none
      else some (UNIT.CLAIM.reg u.base, u.base)
    | _ => some (UNIT.CLAIM.reg u.base, u.base)

/-- Whether a claim word is free or held by an actor (R58). -/
def State.claimAllows (s : State) (w actor : Nat) : Bool :=
  let o := getF (s.reg w) 15 0
  o == 0 || o == actor

/-- The checks before a register write takes effect: R38 power, R432 permission, R58 claim. Either the
state after a refused write, or `none` where the write goes on. A channel block follows R385, R386. -/
def State.writeGate (s : State) (actor a : Nat) : Option State :=
  match unitAt a with
  | none => some s
  | some u =>
    if 0x40 ≤ a - u.base ∧ s.domDown u.dom then some (s.inc ROOT.DROPPED_WRITES.COUNT)
    else if !s.permits actor u.type then some (s.evtErr u.base)
    else match claimOver a with
      | none => none
      | some (w, e) => if s.claimAllows w actor then none else some (s.evtConflict e)

/-- A write with its checks: `f` where they pass. -/
def State.gated (s : State) (actor a : Nat) (f : State → State) : State :=
  match s.writeGate actor a with
  | some t => t
  | none => f s

end Sys2Proof.Machine
end

