-- ==== Sys2Proof/Machine/PowerCore.lean ====
section
/-! DEFINITION. Power domains below the rows of PWR: votes and TARGET (R398, R399), holds and transfers
(R400–R402), the start of a drain and of a wake (R403–R405), the fault window (R413–R415, R419). -/

namespace Sys2Proof.Machine

def State.domx (s : State) (d : Nat) : Dom := tget Dom.reset s.dom d
def State.setDomx (s : State) (d : Nat) (v : Dom) : State := { s with dom := tset Dom.reset s.dom d v }
def voteEmpty : Vote := ⟨3, 0, 0⟩
def State.vote (s : State) (d k : Nat) : Vote := tget voteEmpty s.votes (d * 32 + k)

/-- Units of a domain (R42). -/
def domUnits (d : Nat) : List Nat :=
  match d with
  | 0 => [PIN.base, PWR.base, FWC.base, CHITIN.base, KEEPER.base, DEBUG.base, EDRYN.base, TRIG.base, WAGGLE.base 0]
  | 1 => [INST.base, RING.base, PARSE.base, CLASS.base, FLOW.base, SCHED.base, BEELINE.base]
  | 2 => [COMB.base]
  | 3 => [HOSTLINK.base 0, HOSTLINK.base 1]
  | 4 => [HOSTLINK.base 2, HOSTLINK.base 3]
  | 9 => [SCARAB.base]
  | 10 => [STOR.base]
  | 11 => [FORAGER.base]
  | 12 => [0x0074_0000]
  | 13 => [0x0078_0000]
  | d => if 5 ≤ d ∧ d ≤ 8 then [PORT.base (2 * (d - 5)), PORT.base (2 * (d - 5) + 1)]
    else if 14 ≤ d ∧ d ≤ 25 then subtree (HIVE.base (d - 14)) else []

/-- UNIT_EVT.POWER in every unit of a domain (R46). -/
def State.powerEvt (s : State) (d : Nat) : State := (domUnits d).foldl (fun s u => s.evt u 4) s

/-- TARGET of a domain (R399): the shallowest vote or hold, DEEP with neither. -/
def State.targetOf (s : State) (d : Nat) : Nat :=
  if d = 0 then 0
  else
    let h := s.g (PWR.DOM_STAT.HOLDS d)
    let v := s.votes.foldl (fun a e => if e.1 / 32 = d then min a e.2.value else a) 3
    let v := if bit h 0 then min v 1 else v
    let v := if bit h 1 then 0 else v
    let v := if bit h 2 then min v 1 else v
    if bit h 3 then 0 else v

/-- The comparators whose instant has passed and which only a running FABRIC evaluates (R88). -/
def State.trigOwed (s : State) : List Nat :=
  ((List.range 240).map (· + 16)).filter (fun n => s.gb (TRIG.CTL.ARM n) && decide (s.g (TRIG.TIME.NS n) ≤ s.ns))

/-- A change of a domain's state (R396). When FABRIC is back in RUN or IDLE, the comparators that it did not evaluate
owe their firing (R88). -/
def State.setDomState (s : State) (d st step : Nat) : State :=
  let old := s.domState d
  let s := (s.p (PWR.DOM_STAT.STATE d) st).p (PWR.DOM_STAT.STEP d) step
  let s : State := if d = 1 ∧ 2 ≤ old ∧ st ≤ 1 then { s with trigLate := s.trigOwed } else s
  if old = st then s else s.powerEvt d

/-- The rail of a domain, as k of REG_ENk (R397); 0 for one switched inside the device. -/
def railOf (d : Nat) : Nat :=
  match d with
  | 3 => 3 | 4 => 4 | 5 => 5 | 6 => 5 | 7 => 6 | 8 => 6 | 12 => 7 | 13 => 7 | _ => 0

/-- The wake group of a domain (R405). -/
inductive WakeGroup where
  | a | b | c | d | e
  deriving DecidableEq, Repr
def wakeGroup (k : Nat) : WakeGroup :=
  if 14 ≤ k then .b else if k = 3 ∨ k = 4 then .c else if 5 ≤ k ∧ k ≤ 8 then .d
  else if k = 12 ∨ k = 13 then .e else .a

/-- Fixed delay and timeout of a wake step, in µs (R405). -/
def wakeDelay (k step : Nat) : Nat × Nat :=
  match wakeGroup k, step with
  | .a, 1 => (2, 20) | .b, 1 => (2, 20) | _, 1 => (100, 5000)
  | .a, 2 => (10, 100) | .b, 2 => (10, 100) | .c, 2 => (20, 200) | .d, 2 => (50, 500) | .e, 2 => (20, 200)
  | .a, 3 => if k = 2 then (4, 4) else (1, 1)
  | .b, 3 => (4, 4) | _, 3 => (2, 2)
  | _, _ => (30, 1000)

/-- Whether a domain keeps its PLL running: above SLEEP, up to the end of D3, and from the lock of W2 (R403, R405). -/
def State.pllHeld (s : State) (d : Nat) : Bool :=
  let k := s.g (PWR.DOM_STAT.STEP d)
  match s.domState d with
  | 0 => true
  | 1 => true
  | 8 => decide (k ≤ 3)
  | 9 => decide (3 ≤ k)
  | _ => false

/-- Whether the shared PLL of a domain already runs: another domain of its group holds it (R405). -/
def State.pllShared (s : State) (d : Nat) : Bool :=
  match wakeGroup d with
  | .a => [1, 2, 9, 10, 11].any (fun e => e != d && s.pllHeld e)
  | .b => (List.range 12).any (fun h => 14 + h != d && s.pllHeld (14 + h))
  | _ => false

/-- The wake step after `k` (0: before the first); 0 when the wake is at its end (R405). `deep`: the wake
started from DEEP. -/
def State.nextWake (s : State) (d k : Nat) (deep : Bool) : Nat :=
  if k < 1 ∧ deep ∧ (railOf d = 0 ∨ !bit s.pins.regEn (railOf d)) then 1
  else if k < 2 ∧ !s.pllShared d then 2
  else if k < 3 then 3
  else if k < 4 ∧ wakeGroup d = .e then 4
  else 0

def State.setRail (s : State) (k : Nat) (b : Bool) : State :=
  if k = 0 then s else { s with pins := { s.pins with regEn := setBits s.pins.regEn k k (b2n b) } }

/-- A wake step takes its action (R405). -/
def State.wakeStep (s : State) (d k : Nat) : State :=
  let s := (s.setDomState d 9 k).setDomx d { s.domx d with stepClk := s.edryn.clk }
  if k = 1 then s.setRail (railOf d) true else s

/-- A domain begins to wake from SLEEP or DEEP (R404, R405). -/
def State.wakeStart (s : State) (d from_ : Nat) : State :=
  let s := s.setDomx d { s.domx d with left := from_ }
  s.wakeStep d (s.nextWake d 0 (from_ == 3))

/-- A power-down step begins (R403). -/
def State.drainStep (s : State) (d k : Nat) : State :=
  (s.setDomState d 8 k).setDomx d { s.domx d with stepClk := s.edryn.clk }

/-- A domain acts on its TARGET (R401, R404); a TRANSFER hold taken in D1 ends the drain (R402, R404). (DESIGN CHOICE, unsafe: assumption 149) -/
def State.actTarget (s : State) (d : Nat) : State :=
  let t := s.targetOf d
  let s := s.p (PWR.DOM_STAT.TARGET d) t
  if d = 0 ∨ 25 < d ∨ s.trust.phase = 4 then s
  else match s.domState d with
    | 0 => if 2 ≤ t then (s.setDomx d { s.domx d with left := 0 }).drainStep d 1 else s
    | 1 => if 2 ≤ t then (s.setDomx d { s.domx d with left := 1 }).drainStep d 1
           else if t = 0 then s.setDomState d 0 0 else s
    | 2 => if t < 2 then s.wakeStart d 2
           else if t = 3 then (s.setDomx d { s.domx d with left := 2 }).drainStep d 4 else s
    | 3 => if t < 3 then s.wakeStart d 3 else s
    | 8 => if s.g (PWR.DOM_STAT.STEP d) = 1 ∧ (s.domx d).left ≤ 1 ∧
               (t ≤ (s.domx d).left ∨ (t ≤ 1 ∧ bit (s.g (PWR.DOM_STAT.HOLDS d)) 0))
           then s.setDomState d (if t = 0 then 0 else (s.domx d).left) 0 else s
    | _ => s

/-- A hold bit of a domain (0 TRANSFER, 1 BEELINE, 2 LINK, 3 BOOT; R400). -/
def State.setHold (s : State) (d b : Nat) (v : Bool) : State :=
  let h := s.g (PWR.DOM_STAT.HOLDS d)
  if bit h b = v then s
  else (s.p (PWR.DOM_STAT.HOLDS d) (setBits h b b (b2n v))).actTarget d

/-- XFER and the TRANSFER hold follow the transfers (R400). -/
def State.syncXfer (s : State) (d : Nat) : State :=
  let n := (s.xfer.filter (fun e => e.1 == d)).length
  (s.p (PWR.DOM_STAT.XFER d) n).setHold d 0 (n != 0)

/-- Keys of packets and of WQ entries among the transfers. -/
def xferPkt (d : Nat) : Nat := 2 ^ 42 + d
def xferEnt (w index : Nat) : Nat := 2 ^ 80 + w * 2 ^ 32 + index
/-- The key under which a transfer aimed at a domain holds the domain it comes from. -/
def srcKey (d key : Nat) : Nat := 2 ^ 100 * (d + 1) + key

/-- A transfer takes its hold on a domain (R400). -/
def State.takeXfer (s : State) (d key : Nat) : State :=
  if d = 0 ∨ s.xfer.contains (d, key) then s else { s with xfer := s.xfer ++ [(d, key)] }.syncXfer d
/-- The holds that a test names are dropped. -/
def State.dropXfers (s : State) (p : Nat × Nat → Bool) : State :=
  (s.xfer.filter p).foldl (fun s e => s.syncXfer e.1) { s with xfer := s.xfer.filter (fun e => !p e) }
/-- A transfer aimed at a domain is accepted: its holds on that domain and on the one it comes from end. -/
def State.dropXfer (s : State) (d key : Nat) : State :=
  if s.xfer.contains (d, key) then s.dropXfers (fun e => e == (d, key) || e.2 == srcKey d key) else s
/-- A work item is over: every hold of its transfers ends. -/
def State.endXfer (s : State) (key : Nat) : State :=
  let mine (e : Nat × Nat) : Bool := e.2 % 2 ^ 100 == key
  if s.xfer.any mine then s.dropXfers mine else s

/-- What a transfer aimed at a domain does (R401, R402): it goes, waits, or is denied. -/
inductive Xfer where
  | go | wait | denied
  deriving DecidableEq, Repr

def State.lockdown (s : State) (d : Nat) : Bool := s.gb (PWR.DOM_CTL.LOCKDOWN d)

/-- A transfer from a domain (0 for one that holds none: what is stored in the Comb, R400) to another; `key` names the
work item whose holds it takes on both while it waits. (DEDUCED, unsafe: assumption 144) -/
def State.transfer (s : State) (src d key : Nat) : Xfer × State :=
  let hold (s : State) : State :=
    let s := s.takeXfer d key
    if src = d then s else s.takeXfer src (srcKey d key)
  match s.domState d with
  | 0 => (.go, s.dropXfer d key)
  | 1 => (.go, (s.dropXfer d key).setDomState d 0 0)
  | 9 => (.wait, hold s)
  | 10 => (.wait, hold s)
  | 11 => (.denied, s.dropXfer d key)
  | _ => if s.lockdown d then (.denied, s.dropXfer d key) else (.wait, hold s)

/-- A POWER_DENIED is an event of PWR (R412). -/
def State.powerDenied (s : State) : State := s.evt PWR.base 10

/-- A packet's transfer to several domains: denied if any denies, waits if any waits. What the Comb stores holds no
domain that it comes from (R400). -/
def State.transfers (s : State) (key : Nat) : List Nat → Xfer × State
  | [] => (.go, s)
  | d :: r =>
    match s.transfer 0 d key with
    | (.go, s) => s.transfers key r
    | (.wait, s) => (.wait, s)
    | (.denied, s) => (.denied, s)

/-- Which vote slots of a domain hold a vote, bit k (R46). -/
def State.voteMap (s : State) (d : Nat) : Nat :=
  ((List.range 32).filter (fun k => (s.vote d k).value != 3)).foldl (fun a k => a + 2 ^ k) 0

/-- A vote slot is written (R398); a change of the vote summary is a POWER event of the domain's units (R46). -/
def State.putVote (s : State) (d k v actor : Nat) : State :=
  let t : State := { s with votes := tset voteEmpty s.votes (d * 32 + k) ⟨v, actor, s.ns⟩ }
  let t := if s.voteMap d = t.voteMap d then t else t.powerEvt d
  t.actTarget d

/-! Fault windows (R413–R415, R419). -/

/-- The fault sources of R413. -/
def fSramCe : Nat := 0
def fHbmCe : Nat := 1
def fScarabMm : Nat := 2
def fWakeFail : Nat := 3
def fReplay : Nat := 4
def fFec : Nat := 5
def fUncorr : Nat := 6
def fAgeing : Nat := 7

/-- A change of the pins. -/
def State.withPins (s : State) (f : Pins → Pins) : State := { s with pins := f s.pins }

/-- The key of a source's member among the windows. -/
def fwcKey (src member : Nat) : Nat := src * 2 ^ 34 + member
/-- The threshold that counts for a member: the port's own bound for source 5 (R413), 1 for source 6, every
event of which is a lasting fault (R418). -/
def State.fwcThresh (s : State) (src member : Nat) : Nat :=
  if src = fFec then s.g (PORT.FEC_BOUND.SYMBOLS member)
  else if src = fUncorr then 1 else s.g (FWC.SRC.THRESH src)

/-- One counted event in its window: whether it declares a lasting fault, which clears the window
(R414, R415). Times later than now count as inside. (DESIGN CHOICE, unsafe: assumption 121) -/
def State.fwcCount (s : State) (src member row : Nat) : Bool × State :=
  let w := tget FaultWin.reset s.fwc (fwcKey src member)
  let n := s.fwcThresh src member
  let span := s.g (FWC.SRC.WINDOW_MS src) * 1_000_000
  let t := s.ns
  let inside (u : Nat) : Bool := decide (t < u + span)
  let old := w.times.filter inside
  let sub := w.counts.filter (fun e => inside e.1)
  let key := t / (span / 64) * (span / 64)
  let rows := (t, row) :: w.rows.filter (fun e => inside e.1)
  let w := if n ≤ 16 then { w with times := (t :: old).take n, counts := sub, rows := rows }
    else { w with times := old, counts := tset 0 sub key (tget 0 sub key + 1), rows := rows }
  let total := w.times.length + w.counts.foldl (fun a e => a + e.2) 0
  let s := s.pb (FWC.SRC_STAT.BUCKETED src) (decide (16 < n))
  let lasting := decide (n ≤ total)
  (lasting, { s with fwc := tset FaultWin.reset s.fwc (fwcKey src member)
                       (if lasting then FaultWin.reset else w) })

/-- An alert bit is set (R419). -/
def State.alertBit (s : State) (src : Nat) : State := s.pb ⟨FWC.ALERT.reg, src, src⟩ true

/-- A fault-window event of a source in its owning unit: counters, events and alerts; answers whether
the fault is lasting, with its record (R413, R419). The action is the caller's. -/
def State.fwcEvent (s : State) (src member row owner : Nat) : Bool × State :=
  let s := (s.inc (FWC.SRC_STAT.EVENTS src)).evt owner 2
  let s := if s.gb (FWC.SRC.ALERT_T src) then s.alertBit src else s
  match s.fwcCount src member row with
  | (false, s) => (false, s)
  | (true, s) =>
    let s := ((s.inc (FWC.SRC_STAT.LASTING src)).evt owner 3).fault owner (0xF000 + src)
    let s := ((s.p FWC.LAST.SOURCE src).p FWC.LAST.MEMBER member).pb FWC.LAST.EXHAUSTED false
    let s := s.p FWC.LAST_NS.NS s.ns
    (true, if s.gb (FWC.SRC.ALERT_L src) then s.alertBit src else s)

/-- ALERT_N is low for a pending alert, HOT, or a failed rail or boot (R419, R463, R467). -/
def State.alertLow (s : State) : Bool := s.g FWC.ALERT.PEND != 0 || s.gb PIN.THERM.HOT || s.pins.alertHold

/-- ALERT_N and its register follow what drives it. -/
def State.settleAlert (s : State) : State :=
  let low := s.alertLow
  (s.pb FWC.ALERT.ASSERTED low).withPins (fun p => { p with alertN := !low })

/-- Work that waits for a link: packets for instances bound to it, posted writes and reads (R411). -/
def State.linkWork (s : State) (l : Nat) : Bool :=
  !(s.link l).held.isEmpty || !(s.link l).waitRd.isEmpty || s.descs.any (fun e =>
    let r := tget 0 s.inst e.2.dest
    e.2.dk == 1 && rget r (byF 0 0) != 0 && rget r (biF 1 1 0) == l)

/-- Whether a link keeps HOST_WAKE_N asserted: from work that waits under PERST_N until DL_Up (R411). -/
def State.linkWakes (s : State) (l : Nat) : Bool :=
  s.linkWork l && !s.dlUp l && (s.gb (HOSTLINK.LINK_STAT.PERST l) || bit (s.g PWR.HOST_WAKE.LINKS) l)

/-- HOST_WAKE_N and its register (R411). -/
def State.settleWake (s : State) : State :=
  let m := [0, 1, 2, 3].foldl (fun m l => if s.linkWakes l then m + 2 ^ l else m) 0
  let on := s.gb PWR.HOST_WAKE.EN && m != 0
  ((s.p PWR.HOST_WAKE.LINKS m).pb PWR.HOST_WAKE.ASSERTED on).withPins (fun p => { p with hostWakeN := !on })

/-- The registers that follow the state at the end of every command: `FWC.ALERT` and `PWR.HOST_WAKE`. -/
def derivedRegs : List Nat := [FWC.ALERT.reg, PWR.HOST_WAKE.reg]

/-- The pins that the state drives follow it. (DEDUCED, unsafe: assumption 8) -/
def State.settle (s : State) : State := s.settleAlert.settleWake

/-- The end of a command: the derived pins settle, and the queue is not the command's to change. (DESIGN CHOICE, safe: assumption 1) (DEDUCED, unsafe: assumption 8) -/
def done (s t : State) : Host.Outcome State Fault Refusal :=
  .next { t.settle with pending := s.pending }

/-- A command of an actor: an ID that R17 reserves is never carried by an access. (DEDUCED, unsafe: assumption 17) -/
def act (s : State) (actor : Nat) (t : State) : Host.Outcome State Fault Refusal :=
  if actorOk actor then done s t else .refused .outsideInterface

/-- Whether an address is the base of a unit of the BAR0 map. -/
def isUnit (u : Nat) : Bool := match unitAt u with
  | some i => i.base == u
  | none => false

/-- A command on a unit named by its base; at any other address nothing is there to act (R37). (DEDUCED, unsafe: assumption 17) -/
def onUnit (s : State) (u : Nat) (t : State) : Host.Outcome State Fault Refusal := done s (if isUnit u then t else s)

end Sys2Proof.Machine
end

