-- ==== Sys2Proof/Machine/HostDma.lean ====
section
/-! DEFINITION. How the device reaches host memory for an instance: instance records (R143), address
translation (R150, R151), posted writes (R112, R117, R126), reads and their tags (R113, R114), and the
instance interrupt table (R124, R125). -/

namespace Sys2Proof.Machine

/-! The instance record (R143). -/

namespace IR
def state : RF := byF 0 0
def link : RF := biF 1 1 0
def pasidEn : RF := biF 2 0 0
def atsEn : RF := biF 2 1 1
def pasid : RF := biF 4 19 0
def nwq : RF := byF 8 9
def ncr : RF := byF 10 11
def nint : RF := byF 12 13
def nleaf : RF := byF 14 15
def wqBase : RF := byF 16 19
def crBase : RF := byF 20 23
def intBase : RF := byF 24 25
def leafBase : RF := byF 26 27
def created : RF := byF 28 35
def combLimit : RF := byF 64 67
def flowQuota : RF := byF 68 71
def keyQuota : RF := byF 72 75
def beelineQuota : RF := byF 76 79
def policerQuota : RF := byF 80 83
def encapQuota : RF := byF 84 87
def nsQuota : RF := byF 88 89
def connQuota : RF := byF 90 91
def flowUsed : RF := byF 96 99
def keyUsed : RF := byF 100 103
def beelineUsed : RF := byF 104 107
def policerUsed : RF := byF 108 111
def encapUsed : RF := byF 112 115
def nsUsed : RF := byF 116 117
def connUsed : RF := byF 118 119
def refRing : RF := byF 128 131
def refComb : RF := byF 132 135
def refScarab : RF := byF 136 139
def refForager : RF := byF 140 143
def refStor : RF := byF 144 147
def refHive : RF := byF 148 151
def refBeeline : RF := byF 152 155
def refNamed : RF := byF 156 159
def squashed : RF := byF 160 167
def droppedDb : RF := byF 168 171
end IR

def State.instRec (s : State) (i : Nat) : BitVec 1536 := tget 0 s.inst i
def State.ri (s : State) (i : Nat) (f : RF) : Nat := rget (s.instRec i) f
def State.wi (s : State) (i : Nat) (f : RF) (v : Nat) : State :=
  { s with inst := tset 0 s.inst i (rput (s.instRec i) f v) }
/-- A count of the instance record raised or lowered by `n`. -/
def State.addRef (s : State) (i : Nat) (f : RF) (n : Nat) : State :=
  if i < 2048 then s.wi i f (s.ri i f + n) else s
def State.subRef (s : State) (i : Nat) (f : RF) (n : Nat) : State :=
  if i < 2048 then s.wi i f (s.ri i f - n) else s
/-- A saturating counter of the instance record. -/
def State.satRef (s : State) (i : Nat) (f : RF) (n : Nat) : State :=
  s.wi i f (satAdd (f.hi + 1 - f.lo) (s.ri i f) n)

/-- Instance states of R143. -/
def State.instState (s : State) (i : Nat) : Nat := s.ri i IR.state
def State.instLive (s : State) (i : Nat) : Bool := s.instState i != 0
/-- An instance takes new work from the manager or a Hive (R154). -/
def State.instActive (s : State) (i : Nat) : Bool := s.instState i == 1
/-- An instance in RESETTING or DESTROYING: a request of new work for it is answered SQUASHED (R154). (DEDUCED, unsafe: assumption 147) -/
def State.instEnding (s : State) (i : Nat) : Bool := s.instState i == 2 || s.instState i == 3
/-- The link of an instance; 2048 + l stands for the physical function of link l itself. -/
def State.linkOf (s : State) (i : Nat) : Nat := if 2048 ≤ i then (i - 2048) % 4 else s.ri i IR.link
def State.instSealed (s : State) (i : Nat) : Bool := s.sealed (s.linkOf i)
def State.instBme (s : State) (i : Nat) : Bool := s.bme (s.linkOf i)
/-- The PASID prefix of an instance's requests (R150). -/
def State.pasidOf (s : State) (i : Nat) : Option Nat :=
  if s.ri i IR.pasidEn = 1 then some (s.ri i IR.pasid) else none
/-- Instances bound to a link that exist. -/
def State.instsOn (s : State) (l : Nat) : List Nat :=
  (tkeys s.inst).filter (fun i => s.instLive i && s.linkOf i == l)

/-! Translation (R151). -/

/-- Whether an instance's accesses are translated (R151). -/
def State.atsOn (s : State) (i : Nat) : Bool :=
  s.ri i IR.atsEn == 1 && (s.link (s.linkOf i)).cfgGet cfgAts == 1

/-- The cache entry that covers an address for an instance and allows the access (R151). -/
def State.xlFind (s : State) (i a : Nat) (w : Bool) : Option XlEntry :=
  s.xl.find? (fun e => e.inst == i && e.link == s.linkOf i && e.pasid == s.ri i IR.pasid &&
    decide (e.va ≤ a) && decide (a < e.va + 2 ^ e.log2) && (if w then e.wr else e.rd))

/-- An address as it goes on the link: translated when ATS is on; `none` on a miss. -/
def State.xlAddr (s : State) (i a : Nat) (w : Bool) : Option (Nat × Bool) :=
  if s.atsOn i then (s.xlFind i a w).map (fun e => (e.pa + (a - e.va), true)) else some (a, false)

/-- Tags that may not be issued: outstanding reads and Translation Requests, and quarantined ones. -/
def Link.tagUsed (k : Link) (t : Nat) : Bool :=
  (tkeys k.reads).contains t || (tkeys k.xlReqs).contains t || (tkeys k.quar).contains t
/-- How many tags a link uses: 10-bit tags once they are in use, else 8-bit ones while Extended Tag is enabled
(R107). (PRESUMED, unsafe: assumption 37) -/
def State.tagCount (s : State) (l : Nat) : Nat :=
  if s.gb (HOSTLINK.LINK_STAT.TAG10 l) then 1024
  else if bit ((s.link l).cfgGet cfgDevCtl) 8 then 256 else 32
/-- A free tag: which one the spec leaves open, so the search starts at a free value (R114). -/
def State.takeTag (s : State) (l : Nat) : Option Nat × State :=
  let (v, s) := s.fresh
  (pickFree (s.link l).tagUsed (s.tagCount l) (s.tagCount l) v.toNat, s)
/-- `TAG_STAT` follows the tags (R113). -/
def State.syncTags (s : State) (l : Nat) : State :=
  (s.p (HOSTLINK.TAG_STAT.OUTSTANDING l) ((s.link l).reads.length + (s.link l).xlReqs.length)).p
    (HOSTLINK.TAG_STAT.QUARANTINED l) (s.link l).quar.length

/-- A Translation Request for a page of 4 KiB, unless one is outstanding (R151). -/
def State.requestXl (s : State) (i a : Nat) (w : Bool) : State :=
  let l := s.linkOf i
  let va := a / 4096 * 4096
  if (s.link l).xlReqs.any (fun e => e.2.inst == i && e.2.va == va && e.2.write == w) || !s.bme l then s
  else match s.takeTag l with
    | (none, s) => s
    | (some t, s) =>
      let s := s.modLink l (fun k => { k with xlReqs := tins t ⟨i, va, w, false, s.edryn.clk, []⟩ k.xlReqs })
      (s.send l (.transReq t va (s.ri i IR.pasid) w)).syncTags l

/-- Pages of 4 KiB that a range touches. -/
def pagesOf (a n : Nat) : List Nat :=
  if n = 0 then [] else (List.range ((a + n - 1) / 4096 - a / 4096 + 1)).map (fun k => (a / 4096 + k) * 4096)

/-- What the translation of ranges answers an engine before it moves data: ready, waiting for a
Translation Completion, or a failure with its status: XLATE_FAULT, or HOST_TIMEOUT where the request had no
answer (R113, R151, R153). -/
inductive XlRes where
  | ready | wait | fault (status : Nat)
  deriving DecidableEq, Repr

def State.xlCheck (s : State) (i : Nat) (w : Bool) (ranges : List (Nat × Nat)) : XlRes × State :=
  if !s.atsOn i then (.ready, s)
  else
    let pages := ranges.flatMap (fun r => pagesOf r.1 r.2)
    let miss := pages.filter (fun p => (s.xlFind i p w).isNone)
    match miss with
    | [] => (.ready, s)
    | p :: _ =>
      match s.xlDenied.find? (fun d => d.1 == i && miss.contains d.2.1 && d.2.2.1 == w) with
      | some d =>
        (.fault d.2.2.2, { s with xlDenied := s.xlDenied.filter (fun d => !(d.1 == i && miss.contains d.2.1 && d.2.2.1 == w)) })
      | none => (.wait, s.requestXl i p w)

/-- Whether a range of an instance holds a page whose translation failed. -/
def State.xlFailed (s : State) (i : Nat) (w : Bool) (a n : Nat) : Bool :=
  s.atsOn i && (pagesOf a n).any (fun p => (s.xlFind i p w).isNone && s.xlDenied.any (fun d => d.1 == i && d.2.1 == p && d.2.2.1 == w))

/-- A translation fault's record (R153). -/
def State.xlFault (s : State) (i a : Nat) (w : Bool) : State :=
  let s := s.p INST.XFAULT_INFO.INSTANCE i
  let s := s.p INST.XFAULT_INFO.LINK (s.linkOf i)
  let s := s.pb INST.XFAULT_INFO.WRITE w
  let s := s.p INST.XFAULT_INFO.PASID (s.ri i IR.pasid)
  let s := s.inc INST.XFAULT_INFO.COUNT
  (s.p INST.XFAULT_ADDR.PAGE (a / 4096)).evt INST.base 9

/-! Posted writes. -/

/-- Enable Relaxed Ordering and Enable IDO Request of the link's function (R126). -/
def State.roEn (s : State) (l : Nat) : Bool := (s.link l).cfgGet cfgRoEn == 1
def State.idoEn (s : State) (l : Nat) : Bool := (s.link l).cfgGet cfgIdoEn == 1

/-- A write cut at Max_Payload_Size and at 4 KiB boundaries. -/
def cutWrite (mps : Nat) : Nat → Nat → Bytes → List (Nat × Bytes)
  | 0, _, _ => []
  | n + 1, a, d =>
    if d.isEmpty then []
    else
      let k := min mps (4096 - a % 4096)
      (a, d.take k) :: cutWrite mps n (a + k) (d.drop k)
def State.mps (s : State) (l : Nat) : Nat := 128 * 2 ^ (s.link l).cfgGet cfgMps
def State.mrrs (s : State) (l : Nat) : Nat := 128 * 2 ^ (s.link l).cfgGet cfgMrrs

/-- A posted item enters the transmit queue, cut into TLPs at pages, each at its translated address, and with
its attributes (R126, R150, R151). -/
def State.sendPosted (s : State) (l : Nat) (p : Posted) (tr : Bool) : State :=
  match p.vector with
  | some v => s.signal l v
  | none =>
    (cutWrite (s.mps l) (p.data.length + 1) p.addr p.data).foldl (fun s c =>
      s.send l (.memWrite (if tr then ((s.xlAddr p.inst c.1 true).getD (c.1, true)).1 else c.1) tr
        (if p.inst < 2048 then s.pasidOf p.inst else none)
        (p.ro && s.roEn l) (p.ro && s.idoEn l) p.ep c.2)) s

/-- Whether a posted item may go now: BME, its translation, and no earlier item of its instance held. -/
def State.postReady (s : State) (l : Nat) (p : Posted) : Option Bool :=
  if !s.bme l && p.vector.isNone then none
  else if (s.link l).held.any (fun q => q.inst == p.inst) then none
  else if p.vector.isSome || 2048 ≤ p.inst || !s.atsOn p.inst then some false
  else if (pagesOf p.addr p.data.length).all (fun q => (s.xlAddr p.inst q true).isSome) then some true
  else none

/-- A Translation Request for the first page that a held write misses. -/
def State.requestMiss (s : State) (p : Posted) : State :=
  if p.vector.isSome || 2048 ≤ p.inst || !s.atsOn p.inst then s
  else match (pagesOf p.addr p.data.length).find? (fun q => (s.xlAddr p.inst q true).isNone) with
    | some q => s.requestXl p.inst q true
    | none => s

/-- A DMA on a link brings its domain back from IDLE (R401). -/
def State.wakeLink (s : State) (l : Nat) : State :=
  let d := if l < 2 then 3 else 4
  if s.domState d = 1 then s.setDomState d 0 0 else s

/-- The device generates a posted write for a link: sent, or held (R112, R151). -/
def State.post (s : State) (l : Nat) (p : Posted) : State :=
  let p := { p with seq := (s.link l).seq }
  let s := (s.wakeLink l).modLink l (fun k => { k with seq := k.seq + 1 })
  match s.postReady l p with
  | some tr => s.sendPosted l p tr
  | none =>
    let s := s.modLink l (fun k => { k with held := k.held ++ [p] })
    s.requestMiss p

/-- A write of an instance's work: nothing goes while its link is sealed (R117). -/
def State.dmaWrite (s : State) (i a : Nat) (d : Bytes) (ro : Bool) : State :=
  if s.instSealed i then s
  else
    let ep := s.poison.contains (1, i)
    let s := if ep then { s with poison := s.poison.filter (fun e => e != (1, i)) } else s
    s.post (s.linkOf i) ⟨i, a, d, ro, none, 0, ep, 0⟩

/-- Held items that may go are sent, in order for each instance, and then the messages that waited behind them
(R112, R127). -/
def State.flushHeldFrom (s : State) (l : Nat) : List Posted → State
  | [] => s
  | p :: r =>
    match s.postReady l p with
    | some tr => (s.sendPosted l p tr).flushHeldFrom l r
    | none =>
      let s := s.modLink l (fun k => { k with held := k.held ++ [p] })
      (s.requestMiss p).flushHeldFrom l r
def State.flushHeld (s : State) (l : Nat) : State :=
  let h := (s.link l).held
  ((s.modLink l (fun k => { k with held := [] })).flushHeldFrom l h).sendPending l

/-! Reads. -/

/-- A read cut at Max_Read_Request_Size and at 4 KiB boundaries. -/
def cutRead (mrrs : Nat) : Nat → Nat → Nat → List (Nat × Nat)
  | 0, _, _ => []
  | n + 1, a, len =>
    if len = 0 then []
    else
      let k := min len (min mrrs (4096 - a % 4096))
      (a, k) :: cutRead mrrs n (a + k) (len - k)

/-- Reads that wait are issued while BME is 1, a tag is free and their translation is there (R112, R114). -/
def State.pumpFrom (s : State) (l : Nat) : List WaitRead → State
  | [] => s
  | w :: r =>
    let keep (s : State) := s.modLink l (fun k => { k with waitRd := k.waitRd ++ [w] })
    if !s.bme l then (keep s).pumpFrom l r
    else match (if w.inst < 2048 then s.xlAddr w.inst w.addr false else some (w.addr, false)) with
      | none => (keep (s.requestXl w.inst w.addr false)).pumpFrom l r
      | some (a, tr) =>
        match s.takeTag l with
        | (none, s) => (keep s).pumpFrom l r
        | (some t, s) =>
          let pas := if w.inst < 2048 then s.pasidOf w.inst else none
          let s := s.modLink l (fun k =>
            { k with reads := tins t ⟨w.job, w.pos, w.addr, w.len, [], w.inst, pas, s.edryn.clk, false⟩ k.reads })
          (((s.wakeLink l).send l (.memRead t a tr pas w.len)).syncTags l).pumpFrom l r
def State.pumpReads (s : State) (l : Nat) : State :=
  let w := (s.link l).waitRd
  if w.isEmpty then s else (s.modLink l (fun k => { k with waitRd := [] })).pumpFrom l w

/-- A read job over ranges of host memory, in one buffer (R113, R150). -/
def State.startRead (s : State) (use : DmaUse) (i : Nat) (ranges : List (Nat × Nat)) : State :=
  let l := s.linkOf i
  let j := s.jobN
  let pieces := ranges.flatMap (fun r => cutRead (s.mrrs l) (r.2 + 1) r.1 r.2)
  let placed := (pieces.foldl (fun (acc : List WaitRead × Nat) p =>
    (acc.1 ++ [⟨j, acc.2, p.1, p.2, i⟩], acc.2 + p.2)) ([], 0))
  let s := { s with jobN := j + 1,
                    jobs := tins j ⟨use, i, l, pieces.length, List.replicate placed.2 0, 0⟩ s.jobs }
  (s.modLink l (fun k => { k with waitRd := k.waitRd ++ placed.1 })).pumpReads l

/-- A piece of a job ends with a status; its data lands in the buffer where the status is OK. The job is
answered when it was the last piece (R113). -/
def State.endPiece (s : State) (j pos status : Nat) (d : Bytes) : Option DmaJob × State :=
  match s.jobs.find? (fun e => e.1 == j) with
  | none => (none, s)
  | some (_, job) =>
    let job := { job with left := job.left - 1,
                          buf := if status = 0 then overlay job.buf pos d else job.buf,
                          status := if job.status = 0 then status else job.status }
    if job.left = 0 then (some job, { s with jobs := tdel s.jobs j })
    else (none, { s with jobs := tins j job s.jobs })

/-- Whether a read job serves a given use. -/
def State.hasJob (s : State) (u : DmaUse) : Bool := s.jobs.any (fun e => decide (e.2.use = u))

/-! The instance interrupt table (R124, R125). -/

namespace IE
def vector : RF := ⟨10, 0⟩
def inst : RF := ⟨22, 12⟩
def valid : RF := ⟨24, 24⟩
def mask : RF := ⟨25, 25⟩
def pend : RF := ⟨26, 26⟩
end IE

def State.intEntry (s : State) (e : Nat) : Word := tget 0 s.ints e
def State.setInt (s : State) (e : Nat) (w : Word) : State := { s with ints := tset 0 s.ints e w }

/-- `raise_entry` of R125; answers whether the vector was signalled. `ordered` is the instance behind
whose held writes the message goes (R127). -/
def State.raiseEntry (s : State) (e : Nat) : Bool × State :=
  let w := s.intEntry e
  if rget w IE.valid = 0 then (false, (s.inc RING.INT_INVALID.COUNT).evt RING.base 10)
  else
    let i := rget w IE.inst
    let l := s.linkOf i
    if s.sealed l || rget w IE.mask == 1 then (false, s.setInt e (rput w IE.pend 1))
    else
      let s := s.setInt e (rput w IE.pend 0)
      if (s.link l).held.any (fun p => p.inst == i) then
        if s.bme l then (true, s.post l ⟨i, 0, [], false, some (rget w IE.vector), 0, false, e + 1⟩)
        else (true, s.signal l (rget w IE.vector))
      else (true, s.signal l (rget w IE.vector))

/-- `on_mask_cleared` of R125; AUTOMASK of the entry's CR is the caller's (R177). -/
def State.maskCleared (s : State) (e : Nat) : Bool × State :=
  let w := s.intEntry e
  if rget w IE.pend = 1 && !s.sealed (s.linkOf (rget w IE.inst)) then s.raiseEntry e else (false, s)

end Sys2Proof.Machine
end

