-- ==== Sys2Proof/Machine/Ring.lean ====
section
/-! DEFINITION. Ring discipline: WQ and CR contexts and their indices, completions, shadows and
interrupts, reservation, errors and ring commands (R161–R183, R473, R474). -/

namespace Sys2Proof.Machine

namespace WQ
def base : RF := byF 0 7
def log2 : RF := byF 8 8
def type : RF := byF 9 9
def cr : RF := byF 10 11
def state : RF := biF 12 3 0
def rem : RF := biF 12 7 4
def reason : RF := byF 13 13
def cshEn : RF := biF 14 0 0
def cshadow : RF := byF 16 23
def prod : RF := byF 24 27
def fetch : RF := byF 28 31
def retire : RF := byF 32 35
def errIndex : RF := byF 36 39
def errProd : RF := byF 40 43
def writer : RF := byF 44 45
def droppedDb : RF := byF 48 55
end WQ

namespace CR
def base : RF := byF 0 7
def log2 : RF := byF 8 8
def ext : RF := biF 9 0 0
def automask : RF := biF 9 1 1
def intMode : RF := byF 10 10
def state : RF := biF 11 3 0
def rem : RF := biF 11 7 4
def int : RF := byF 12 13
def coalCount : RF := byF 14 15
def pshadow : RF := byF 16 23
def coalNs : RF := byF 24 27
def prod : RF := byF 28 31
def cons : RF := byF 32 35
def reserved : RF := byF 36 39
def shadowed : RF := byF 40 43
def droppedCdb : RF := byF 44 47
end CR

/-- Index arithmetic is modulo 2^32 (R161). -/
def i32 (n : Nat) : Nat := n % 2 ^ 32
def sub32 (a b : Nat) : Nat := (a + 2 ^ 32 - b) % 2 ^ 32

def State.wqRec (s : State) (w : Nat) : BitVec 512 := tget 0 s.wq w
def State.wqg (s : State) (w : Nat) (f : RF) : Nat := rget (s.wqRec w) f
def State.wqp (s : State) (w : Nat) (f : RF) (v : Nat) : State :=
  { s with wq := tset 0 s.wq w (rput (s.wqRec w) f v) }
def State.crRec (s : State) (c : Nat) : BitVec 512 := tget 0 s.cr c
def State.crg (s : State) (c : Nat) (f : RF) : Nat := rget (s.crRec c) f
def State.crp (s : State) (c : Nat) (f : RF) (v : Nat) : State :=
  { s with cr := tset 0 s.cr c (rput (s.crRec c) f v) }
def State.wqa (s : State) (w : Nat) : WqAux := tget WqAux.reset s.wqx w
def State.setWqa (s : State) (w : Nat) (a : WqAux) : State := { s with wqx := tset WqAux.reset s.wqx w a }
def State.cra (s : State) (c : Nat) : CrAux := tget CrAux.reset s.crx c
def State.setCra (s : State) (c : Nat) (a : CrAux) : State := { s with crx := tset CrAux.reset s.crx c a }

/-- The instance that holds a global WQ or CR (2048: none), and its local numbers (R139). -/
def State.wqInst (s : State) (w : Nat) : Nat :=
  match s.inst.find? (fun e => rget e.2 IR.state != 0 && decide (rget e.2 IR.wqBase ≤ w) &&
      decide (w < rget e.2 IR.wqBase + rget e.2 IR.nwq)) with
  | some e => e.1
  | none => 2048
def State.crInst (s : State) (c : Nat) : Nat :=
  match s.inst.find? (fun e => rget e.2 IR.state != 0 && decide (rget e.2 IR.crBase ≤ c) &&
      decide (c < rget e.2 IR.crBase + rget e.2 IR.ncr)) with
  | some e => e.1
  | none => 2048
/-- The global CR of a WQ. -/
def State.wqCr (s : State) (w : Nat) : Nat := s.ri (s.wqInst w) IR.crBase + s.wqg w WQ.cr
/-- WQs of an instance, and those bound to a CR (R179). -/
def State.instWqs (s : State) (i : Nat) : List Nat :=
  (List.range (s.ri i IR.nwq)).map (fun k => s.ri i IR.wqBase + k)
def State.instCrs (s : State) (i : Nat) : List Nat :=
  (List.range (s.ri i IR.ncr)).map (fun k => s.ri i IR.crBase + k)
def State.boundWqs (s : State) (c : Nat) : List Nat :=
  let i := s.crInst c
  (s.instWqs i).filter (fun w => s.ri i IR.crBase + s.wqg w WQ.cr == c)

/-! Ring state codes. -/
def rIdle : Nat := 0
def rActive : Nat := 1
def rWaitCr : Nat := 2
def rStalled : Nat := 3
def rStopping : Nat := 4
def rStopped : Nat := 5
def rError : Nat := 6

/-- A ring's state, or the remembered one while it is STALLED_BME (R179). -/
def State.wqState (s : State) (w : Nat) : Nat :=
  if s.wqg w WQ.state = rStalled then s.wqg w WQ.rem else s.wqg w WQ.state
def State.crState (s : State) (c : Nat) : Nat :=
  if s.crg c CR.state = rStalled then s.crg c CR.rem else s.crg c CR.state
def State.setWqState (s : State) (w st : Nat) : State :=
  if s.wqg w WQ.state = rStalled then s.wqp w WQ.rem st else s.wqp w WQ.state st
def State.setCrState (s : State) (c st : Nat) : State :=
  if s.crg c CR.state = rStalled then s.crp c CR.rem st else s.crp c CR.state st

/-- Free space of a CR (R163). -/
def State.crFree (s : State) (c : Nat) : Nat :=
  2 ^ s.crg c CR.log2 - sub32 (s.crg c CR.prod) (s.crg c CR.cons) - s.crg c CR.reserved

/-- The CR's interrupt entry is raised; a raise that signals under AUTOMASK sets MASK (R177). -/
def State.crRaise (s : State) (c : Nat) : State :=
  let e := s.ri (s.crInst c) IR.intBase + s.crg c CR.int
  let (sent, s) := s.raiseEntry e
  if sent && s.crg c CR.automask == 1 then s.setInt e (rput (s.intEntry e) IE.mask 1) else s

/-- The producer shadow is written and the interrupt raised (R167, R176, R177). -/
def State.shadowWrite (s : State) (c : Nat) : State :=
  let i := s.crInst c
  let p := s.crg c CR.prod
  let a := s.cra c
  let s := s.dmaWrite i (s.crg c CR.pshadow) (leBytes 8 p) false
  let s := (s.crp c CR.shadowed p).setCra c { a with oldest := 0, solicited := false }
  if s.instSealed i then s
  else if s.crg c CR.intMode = 1 || (s.crg c CR.intMode == 2 && a.solicited) then s.crRaise c else s

/-- Whether a coalescing condition of R176 other than the timer holds. -/
def State.shadowDue (s : State) (c : Nat) : Bool :=
  let n := sub32 (s.crg c CR.prod) (s.crg c CR.shadowed)
  n != 0 && (decide (max 1 (s.crg c CR.coalCount) ≤ n) || (s.cra c).solicited || s.crg c CR.reserved == 0)

/-- A WQ that has stopped all its work reaches STOPPED (R179). -/
def State.wqStopCheck (s : State) (w : Nat) : State :=
  if s.wqState w = rStopping && s.wqg w WQ.retire == s.wqg w WQ.prod then s.setWqState w rStopped else s

/-- RETIRE advances over a run of completed entries (R168). -/
def retireRun : Nat → Nat → List Nat → Nat × List Nat
  | 0, r, d => (r, d)
  | n + 1, r, d => if d.contains r then retireRun n (i32 (r + 1)) (d.filter (fun x => x != r)) else (r, d)

/-- An entry of a WQ counts as completed; the consumer shadow follows RETIRE (R167, R168). -/
def State.retireEntry (s : State) (w index : Nat) : State :=
  let a := s.wqa w
  let (r, d) := retireRun (a.done.length + 1) (s.wqg w WQ.retire) (index :: a.done)
  let moved := decide (r ≠ s.wqg w WQ.retire)
  let s := (s.wqp w WQ.retire r).setWqa w
    { a with done := d, ents := a.ents.filter (fun e => e.index != index) }
  let s := if moved && s.wqg w WQ.cshEn == 1
    then s.dmaWrite (s.wqInst w) (s.wqg w WQ.cshadow) (leBytes 8 r) false else s
  s.wqStopCheck w

/-- A completion's content (R174). -/
structure Cpl where
  tag : Nat
  status : Nat
  solicit : Bool
  flags : Nat
  ts : Nat
  data : Bytes
  ext : Bytes
  deriving DecidableEq, Repr

/-- A reservation is released. -/
def State.unreserve (s : State) (c : Nat) : State := s.crp c CR.reserved (s.crg c CR.reserved - 1)

/-- A completion is written into the CR at PROD and releases its reservation; on a sealed link it is not
written and takes no CR space (R117, R163, R174). -/
def State.putCpl (s : State) (w index : Nat) (k : Cpl) : State :=
  let i := s.wqInst w
  let c := s.wqCr w
  let s := ((s.endXfer (xferEnt w index)).unreserve c).subRef i IR.refRing 1
  if s.instSealed i then s.retireEntry w index
  else
    let ext := s.crg c CR.ext
    let sz := if ext = 1 then 64 else 32
    let sol := k.solicit || k.status != 0
    let tf := s.wqg w WQ.type % 8 + 8 * ext + 16 * b2n sol + 32 * (k.flags % 2048)
    let e := leBytes 4 k.tag ++ leBytes 2 k.status ++ leBytes 2 tf ++ leBytes 4 w ++ leBytes 4 index ++
      leBytes 8 k.ts ++ padTo 8 k.data ++ (if ext = 1 then padTo 32 k.ext else [])
    let p := s.crg c CR.prod
    let s := s.dmaWrite i (s.crg c CR.base + p % 2 ^ s.crg c CR.log2 * sz) e false
    let s := s.crp c CR.prod (i32 (p + 1))
    let a := s.cra c
    let s := s.setCra c { a with oldest := if a.oldest = 0 then s.edryn.clk + 1 else a.oldest,
                                 solicited := a.solicited || sol }
    let s := s.retireEntry w index
    if s.shadowDue c then s.shadowWrite c else s

/-- Slots granted to a WQ for entries that it will not fetch are released, and it waits for none (R164). -/
def State.dropGrant (s : State) (w : Nat) : State :=
  let c := s.wqCr w
  let s := s.crp c CR.reserved (s.crg c CR.reserved - (s.wqa w).granted)
  let s := s.setWqa w { s.wqa w with granted := 0 }
  s.setCra c { s.cra c with waiters := (s.cra c).waiters.filter (fun x => x != w) }

/-- A WQ in ACTIVE or WAIT_CR enters ERROR with its reason and index (R169, R179); in any other state it
stays there. -/
def State.wqError (s : State) (w reason index : Nat) : State :=
  if s.wqState w ≠ rActive ∧ s.wqState w ≠ rWaitCr then s
  else
    let s := (((s.dropGrant w).setWqState w rError).wqp w WQ.reason reason).wqp w WQ.errIndex index
    let s := s.p RING.ERR_LOG.WQ w
    let s := s.p RING.ERR_LOG.REASON reason
    let s := s.p RING.ERR_LOG.INDEX index
    s.evt RING.base 8

/-- The entry of a WQ with an index. -/
def State.ent (s : State) (w index : Nat) : Option Ent := (s.wqa w).ents.find? (fun e => e.index == index)
def State.setEnt (s : State) (w : Nat) (e : Ent) : State :=
  s.setWqa w { s.wqa w with ents := (s.wqa w).ents.map (fun x => if x.index = e.index then e else x) }
def State.startEnt (s : State) (w index : Nat) : State :=
  match s.ent w index with
  | some e => s.setEnt w { e with phase := 3 }
  | none => s

/-! The common WQ word (R170). -/
namespace EN
def opcode : RF := biF 0 7 0
def fence : RF := biF 0 8 8
def solicit : RF := biF 0 9 9
def timed : RF := biF 0 10 10
def media : RF := biF 0 11 11
def typeFlags : RF := biF 0 15 12
def typeField : RF := biF 0 31 16
def tag : RF := biF 0 63 32
end EN

/-- The user tag and SOLICIT of a WQ's entry: a STORAGE entry's tag is its CID (R170). -/
def State.entTag (s : State) (w index : Nat) : Nat :=
  match s.ent w index with
  | some e => if s.wqg w WQ.type = 2 then rget e.raw (byF 2 3) else rget e.raw EN.tag
  | none => 0
def State.entSolicit (s : State) (w index : Nat) : Bool :=
  match s.ent w index with
  | some e => s.wqg w WQ.type != 2 && rget e.raw EN.solicit == 1
  | none => false

/-- A completion of an entry with a status, per-type flags, data and extension, at the present time. -/
def State.putEnt (s : State) (w index status flags : Nat) (data ext : Bytes) : State :=
  s.putCpl w index ⟨s.entTag w index, status, s.entSolicit w index, flags, s.ns, data, ext⟩

/-! WAIT_CR (R164). -/

/-- A WQ that wants an entry but has no free slot waits. -/
def State.enterWait (s : State) (w : Nat) : State :=
  let c := s.wqCr w
  let a := s.cra c
  (s.setWqState w rWaitCr).setCra c
    { a with waiters := if a.waiters.contains w then a.waiters else a.waiters ++ [w] }

/-- Entries of a WQ that hold no slot yet: neither fetched nor being fetched nor granted one. -/
def State.unheld (s : State) (w : Nat) : Nat :=
  let f := s.jobs.foldl (fun a e => match e.2.use with
    | .fetch x _ n => if x = w then a + n else a
    | _ => a) 0
  sub32 (s.wqg w WQ.prod) (s.wqg w WQ.fetch) - f - (s.wqa w).granted

/-- Freed slots are granted one entry at a time in WAIT_CR order, each with its reservation: a WQ that holds
one is ACTIVE again, and one that wants more takes its next turn (R164). -/
def State.grantFrom (s : State) (c : Nat) : Nat → State
  | 0 => s
  | n + 1 =>
    let a := s.cra c
    match a.waiters with
    | [] => s
    | w :: r =>
      let s := (s.setCra c { a with waiters := r }).setWqState w rActive
      if s.unheld w = 0 then s.grantFrom c n
      else
        let s := s.crp c CR.reserved (s.crg c CR.reserved + 1)
        let s := s.setWqa w { s.wqa w with granted := (s.wqa w).granted + 1 }
        let s := if s.unheld w = 0 then s else s.setCra c { s.cra c with waiters := (s.cra c).waiters ++ [w] }
        s.grantFrom c n
/-- (DEDUCED, unsafe: assumption 65) -/
def State.grant (s : State) (c : Nat) : State :=
  if s.instActive (s.crInst c) then s.grantFrom c (s.crFree c) else s

/-- A CR without free space: bound WQs with entries left wait (R164). A WQ that holds granted slots waits
once it has used them. -/
def State.crSync (s : State) (c : Nat) : State :=
  let s := s.grant c
  if s.crFree c ≠ 0 then s
  else (s.boundWqs c).foldl (fun s w =>
    if s.wqState w = rActive ∧ (s.wqa w).granted = 0 ∧ s.unheld w ≠ 0 then s.enterWait w else s) s

/-! Stopping (R180). -/

/-- A stopping WQ completes its fetched, unstarted entries ABORTED. -/
def State.abortFetched (s : State) (w : Nat) : List Ent → State
  | [] => s
  | e :: r =>
    (if e.phase < 3 then s.putEnt w e.index 1 0 [] [] else s).abortFetched w r

/-- A stopping WQ completes its unfetched entries ABORTED with tag 0, each with a slot of its own. -/
def State.abortUnfetched (s : State) (w : Nat) : Nat → State
  | 0 => s
  | n + 1 =>
    let f := s.wqg w WQ.fetch
    let c := s.wqCr w
    let i := s.wqInst w
    if s.wqState w ≠ rStopping || f == s.wqg w WQ.prod then s
    else if s.instSealed i then
      ((s.wqp w WQ.fetch (i32 (f + 1))).retireEntry w f).abortUnfetched w n
    else if s.crFree c = 0 then s
    else
      let s := (s.wqp w WQ.fetch (i32 (f + 1))).crp c CR.reserved (s.crg c CR.reserved + 1)
      let s := s.addRef i IR.refRing 1
      (s.putCpl w f ⟨0, 1, false, 0, s.ns, [], []⟩).abortUnfetched w n

/-- What a STOPPING WQ does whenever it can: it lets started entries run to completion, then aborts the others, then is
STOPPED (R180). -/
def State.stopProgress (s : State) (w : Nat) : State :=
  if s.wqState w ≠ rStopping || (s.wqa w).ents.any (fun e => e.phase == 3) || s.jobs.any (fun e => match e.2.use with | .fetch x _ _ => x == w | _ => false)
  then s
  else
    let s := s.abortFetched w (s.wqa w).ents
    (s.abortUnfetched w (sub32 (s.wqg w WQ.prod) (s.wqg w WQ.fetch))).wqStopCheck w

/-- An entry completes: its completion is written, and a WQ that is stopping goes on once the last started entry is
over (R174, R180). -/
def State.complete (s : State) (w index : Nat) (k : Cpl) : State := (s.putCpl w index k).stopProgress w

/-- An entry completes with a status, per-type flags, data and extension, at the present time. -/
def State.completeEnt (s : State) (w index status flags : Nat) (data ext : Bytes) : State :=
  s.complete w index ⟨s.entTag w index, status, s.entSolicit w index, flags, s.ns, data, ext⟩

/-- A malformed entry: its completion, then its WQ in ERROR (R169). -/
def State.malformed (s : State) (w index reason status : Nat) : State :=
  (s.wqError w reason index).completeEnt w index status 0 [] []

/-- An XLATE_FAULT that R153 assigns to the entry stops its WQ. -/
def State.xlateEnt (s : State) (w index : Nat) : State :=
  (s.wqError w 0x11 index).completeEnt w index 7 0 [] []

/-- A host access of an entry failed with a status: a translation fault stops its WQ, any other is an execution
failure (R153, R169). -/
def State.entHostFail (s : State) (w index status : Nat) : State :=
  if status = stXlate then s.xlateEnt w index else s.completeEnt w index status 0 [] []

/-- RESET of a WQ and of a CR (R181). -/
def State.resetWq (s : State) (w : Nat) : State :=
  let z (s : State) (f : RF) := s.wqp w f 0
  let s := [WQ.prod, WQ.fetch, WQ.retire, WQ.errIndex, WQ.errProd, WQ.reason].foldl z s
  (s.setWqState w rIdle).setWqa w ⟨[], [], true, 0⟩
def State.resetCr (s : State) (c : Nat) : State :=
  let z (s : State) (f : RF) := s.crp c f 0
  let s := [CR.prod, CR.cons, CR.reserved, CR.shadowed].foldl z s
  (s.setCrState c rIdle).setCra c ⟨0, false, [], true⟩

/-- Whether a context is valid at START (R179). -/
def State.wqValid (s : State) (w : Nat) : Bool :=
  let i := s.wqInst w
  decide (6 ≤ s.wqg w WQ.log2) && decide (s.wqg w WQ.log2 ≤ 20) && decide (s.wqg w WQ.type ≤ 5) &&
  decide (s.wqg w WQ.cr < s.ri i IR.ncr) && s.wqg w WQ.base % 64 == 0 &&
  (s.wqg w WQ.cshEn == 0 || s.wqg w WQ.cshadow % 8 == 0)
def State.crValid (s : State) (c : Nat) : Bool :=
  let i := s.crInst c
  decide (6 ≤ s.crg c CR.log2) && decide (s.crg c CR.log2 ≤ 20) && decide (s.crg c CR.intMode ≤ 2) &&
  (s.crg c CR.intMode == 0 || decide (s.crg c CR.int < s.ri i IR.nint)) &&
  s.crg c CR.base % 64 == 0 && s.crg c CR.pshadow % 8 == 0

/-- START, STOP and RESET of a ring: the status and the state after (R179–R182). (DESIGN CHOICE, unsafe: assumption 156) -/
def State.ringStart (s : State) (cr : Bool) (n : Nat) : Nat × State :=
  if cr then
    if s.crState n ≠ rIdle then (0x11, s)
    else if !s.crValid n then (2, s) else (0, s.setCrState n rActive)
  else
    if s.wqState n ≠ rIdle then (0x11, s)
    else if !s.wqValid n then (2, s)
    else if s.crState (s.wqCr n) ≠ rActive then (0x11, s) else (0, s.setWqState n rActive)

def State.ringStop (s : State) (cr : Bool) (n : Nat) : Nat × State :=
  if cr then
    if s.crState n ≠ rActive then (0x11, s)
    else if (s.boundWqs n).any (fun w => s.wqState w != rIdle && s.wqState w != rStopped) then (0x11, s)
    else
      let s := if s.crg n CR.prod ≠ s.crg n CR.shadowed then s.shadowWrite n else s
      (0, s.setCrState n rStopped)
  else
    let st := s.wqState n
    if st = rStopping || st = rStopped then (0, s)
    else if st = rIdle then (0x11, s)
    else
      (0, ((s.dropGrant n).setWqState n rStopping).stopProgress n)

def State.ringReset (s : State) (cr : Bool) (n : Nat) : Nat × State :=
  if cr then
    if s.crState n ≠ rIdle && s.crState n ≠ rStopped then (0x11, s)
    else if (s.boundWqs n).any (fun w => s.wqState w != rIdle) then (0x11, s)
    else (0, s.resetCr n)
  else
    if s.wqState n ≠ rIdle && s.wqState n ≠ rStopped then (0x11, s) else (0, s.resetWq n)

/-- A ring command by its OP (R182): reserved codes, foreign rings and resetting instances. -/
def State.ringOp (s : State) (op : Nat) (cr : Bool) (n : Nat) : Nat × State :=
  let i := if cr then s.crInst n else s.wqInst n
  if i = 2048 || op = 0 || 3 < op then (2, s)
  else if !s.instActive i then (0x11, s)
  else if op = 1 then s.ringStart cr n
  else if op = 2 then s.ringStop cr n
  else s.ringReset cr n

end Sys2Proof.Machine
end

