-- ==== Sys2Proof/Machine/Class.lean ====
section
/-! DEFINITION. CLASS: the classifier key and where its fields lie in a packet (R203), rule entries and
their conditions (R204–R206), versions and commits (R207–R216, R220), the result (R218, R219), and the
parser's configuration tables (R189, R190, R200). -/

namespace Sys2Proof.Machine

/-! Where a field lies (R203). -/

/-- `nb` bytes from offset `off`, shifted right by `sh` and cut to `w` bits. -/
structure Loc where
  off : Nat
  nb : Nat
  sh : Nat
  w : Nat
  deriving DecidableEq, Repr

def Loc.read (f : Bytes) (l : Loc) : Nat := beAt f l.off l.nb / 2 ^ l.sh % 2 ^ l.w
def Loc.write (f : Bytes) (l : Loc) (v : Nat) : Bytes :=
  overlay f l.off (beBytes l.nb (setBits (beAt f l.off l.nb) (l.sh + l.w - 1) l.sh v))

/-- The outer and the inner stack of R192. -/
def PRec.outer (r : PRec) : List (Nat × Nat) := if r.tun = 0xFF then r.hdrs else r.hdrs.take r.tun
def PRec.inner (r : PRec) : List (Nat × Nat) := if r.tun = 0xFF then [] else r.hdrs.drop r.tun

/-- A stack from its first header of an ID on. -/
def fromHdr (h : Nat) (l : List (Nat × Nat)) : List (Nat × Nat) := l.dropWhile (fun e => e.1 != h)
/-- VLAN tags that follow a stack's Ethernet header at once. -/
def topVlans (l : List (Nat × Nat)) : List (Nat × Nat) :=
  ((fromHdr 0x01 l).drop 1).takeWhile (fun e => e.1 == 0x02)
/-- VLAN tags of a stack's Ethernet header, those behind an unencrypted SecTAG among them (R194, R203). -/
def vlansOf (l : List (Nat × Nat)) : List (Nat × Nat) :=
  (((fromHdr 0x01 l).drop 1).takeWhile (fun e => e.1 == 0x02 || e.1 == 0x03)).filter (fun e => e.1 == 0x02)
/-- The IP header of a stack, and the headers after it; none where its L3 header is ARP. (DESIGN CHOICE, unsafe: assumption 158) -/
def ipOf (l : List (Nat × Nat)) : Option ((Nat × Nat) × List (Nat × Nat)) :=
  match l.dropWhile (fun e => !(e.1 == 0x06 || e.1 == 0x07 || e.1 == 0x08)) with
  | (0x07, o) :: r => some ((0x07, o), r)
  | (0x08, o) :: r => some ((0x08, o), r)
  | _ => none
def isL4 (h : Nat) : Bool := h == 0x0D || h == 0x0E || h == 0x0F || h == 0x10 || h == 0x11
/-- The L4 header of a stack. -/
def l4Of (l : List (Nat × Nat)) : Option (Nat × Nat) := l.find? (fun e => isL4 e.1)

/-- The EtherType field that ends an Ethernet header with its tags and an unencrypted SecTAG. -/
def etypeOff (f : Bytes) (l : List (Nat × Nat)) : Option Nat :=
  match fromHdr 0x01 l with
  | [] => none
  | e :: r =>
    let run := e :: r.takeWhile (fun x => x.1 == 0x02 || (x.1 == 0x03 && !bit (byteAt f x.2) 3))
    run.getLast?.map (fun x => x.2 + (if x.1 = 0x01 then 14 else if x.1 = 0x02 then 4
      else statedLen f 0x03 x.2 f.length) - 2)

/-- The protocol field of a stack: IPv4's, or the Next Header that selected the L4 header or ended it. -/
def protoOff (l : List (Nat × Nat)) : Option Nat :=
  match ipOf l with
  | some ((0x07, o), _) => some (o + 9)
  | some ((_, o), r) => some (match (r.takeWhile (fun e => isExt e.1)).getLast? with
      | some (_, x) => x
      | none => o + 6)
  | none => none

/-- Where a field of a stack lies, by its O_ field ID; addresses and IPVER are read apart. -/
def stackLoc (f : Bytes) (l : List (Nat × Nat)) (id : Nat) : Option Loc :=
  let eth (d n : Nat) : Option Loc := (l.find? (fun e => e.1 == 0x01)).map (fun e => ⟨e.2 + d, n, 0, 8 * n⟩)
  let ports (d : Nat) : Option Loc := match l4Of l with
    | some (h, o) => if h = 0x0D ∨ h = 0x0E then some ⟨o + d, 2, 0, 16⟩ else none
    | none => none
  match id with
  | 0x10 => eth 0 6
  | 0x11 => eth 6 6
  | 0x12 => (etypeOff f l).map (fun o => ⟨o, 2, 0, 16⟩)
  | 0x13 => (vlansOf l)[0]?.map (fun e => ⟨e.2, 2, 0, 16⟩)
  | 0x14 => (vlansOf l)[1]?.map (fun e => ⟨e.2, 2, 0, 16⟩)
  | 0x15 => (l.find? (fun e => e.1 == 0x04)).map (fun e => ⟨e.2, 3, 4, 20⟩)
  | 0x18 => (protoOff l).map (fun o => ⟨o, 1, 0, 8⟩)
  | 0x19 => (ipOf l).map (fun e => if e.1.1 = 0x07 then ⟨e.1.2 + 1, 1, 0, 8⟩ else ⟨e.1.2, 2, 4, 8⟩)
  | 0x1A => (ipOf l).map (fun e => ⟨e.1.2 + (if e.1.1 = 0x07 then 8 else 7), 1, 0, 8⟩)
  | 0x1B => ports 0
  | 0x1C => ports 2
  | 0x1D => match l4Of l with
    | some (0x0D, o) => some ⟨o + 13, 1, 0, 8⟩
    | _ => none
  | 0x1E => match l4Of l with
    | some (h, o) => if h = 0x0F ∨ h = 0x10 then some ⟨o, 2, 0, 16⟩ else none
    | none => none
  | _ => none

/-- Where the tunnel identifier lies: VNI, GRE key or tunnel label. (DESIGN CHOICE, unsafe: assumption 158) -/
def tunIdLoc (f : Bytes) (r : PRec) : Option Loc :=
  match r.hdrs[r.tun]? with
  | some (0x13, o) => some ⟨o + 4, 3, 0, 24⟩
  | some (0x14, o) => some ⟨o + 4, 3, 0, 24⟩
  | some (0x12, o) =>
    if bit (byteAt f o) 5 then some ⟨o + 4 + (if bit (byteAt f o) 7 then 4 else 0), 4, 0, 32⟩ else none
  | some (0x04, o) => some ⟨o, 3, 4, 20⟩
  | _ => none

/-- Where a field of 64 bits or fewer lies in a packet. (DESIGN CHOICE, unsafe: assumption 158) -/
def fieldLoc (f : Bytes) (r : PRec) (id : Nat) : Option Loc :=
  if id = 0x21 then tunIdLoc f r
  else if id = 0x22 then (r.hdrs.find? (fun e => e.1 == 0x11)).map (fun e => ⟨e.2, 4, 0, 32⟩)
  else if id = 0x23 then (r.hdrs.find? (fun e => e.1 == 0x17)).map (fun e => ⟨e.2 + 8, 4, 0, 32⟩)
  else if 0x10 ≤ id ∧ id ≤ 0x1F then stackLoc f r.outer id
  else if 0x30 ≤ id ∧ id ≤ 0x3F then stackLoc f r.inner (id - 0x20)
  else none

/-- Where an address of a stack lies: its offset and its length. -/
def addrLoc (r : PRec) (id : Nat) : Option (Nat × Nat) :=
  let l := if 0x30 ≤ id then r.inner else r.outer
  let src := id % 0x10 == 6
  match ipOf l with
  | some ((0x07, o), _) => some (o + (if src then 12 else 16), 4)
  | some ((_, o), _) => some (o + (if src then 8 else 24), 16)
  | none => none

def isAddr (id : Nat) : Bool := id == 0x16 || id == 0x17 || id == 0x36 || id == 0x37

/-- Width of a key field in bits; 0 for a reserved ID. -/
def fieldWidth (id : Nat) : Nat :=
  match (if 0x30 ≤ id ∧ id ≤ 0x3F then id - 0x20 else id) with
  | 0x01 => 4 | 0x02 => 11 | 0x03 => 2 | 0x04 => 8 | 0x05 => 8 | 0x06 => 8 | 0x07 => 16 | 0x08 => 3
  | 0x10 => 48 | 0x11 => 48 | 0x12 => 16 | 0x13 => 16 | 0x14 => 16 | 0x15 => 20 | 0x16 => 128 | 0x17 => 128
  | 0x18 => 8 | 0x19 => 8 | 0x1A => 8 | 0x1B => 16 | 0x1C => 16 | 0x1D => 8 | 0x1E => 16 | 0x1F => 4
  | 0x20 => 6 | 0x21 => 32 | 0x22 => 32 | 0x23 => 32 | _ => 0

/-- The source that PARSE takes a packet from (R185, R357). (DEDUCED, unsafe: assumption 78) -/
def Desc.psrc (v : Desc) : Nat := if v.by9 then 9 else v.src

/-- The value of a key field of a pass, `none` where it is absent (R203). -/
def keyField (d : Desc) (id : Nat) : Option Nat :=
  let r := d.prec
  let f := d.bytes
  match id with
  | 0x01 => some d.psrc
  | 0x02 => if d.psrc = 8 then some d.inst else none
  | 0x03 => some r.cls
  | 0x04 => some r.reason
  | 0x05 => some r.kind
  | 0x06 => some r.flags
  | 0x07 => some r.frameLen
  | 0x08 => if d.psrc = 8 then some d.tc else none
  | 0x20 => (r.hdrs[r.tun]?).map Prod.fst
  | 0x1F => (ipOf r.outer).bind (fun e => if e.1.2 < f.length then some (if e.1.1 = 0x07 then 4 else 6) else none)
  | 0x3F => (ipOf r.inner).bind (fun e => if e.1.2 < f.length then some (if e.1.1 = 0x07 then 4 else 6) else none)
  | _ =>
    if isAddr id then (addrLoc r id).bind (fun e =>
      if f.length < e.1 + e.2 then none
      else some (beAt f e.1 e.2 + (if e.2 = 4 then 0xFFFF * 2 ^ 32 else 0)))
    else (fieldLoc f r id).bind (fun l => if f.length < l.off + l.nb then none else some (l.read f))

/-! Rule entries (R204). -/

namespace RU
def state : RF := byF 0 0
def openEnded : RF := biF 1 0 0
def lookup : RF := biF 1 1 1
def count : RF := biF 1 2 2
def flags : RF := byF 1 1
def first : RF := byF 2 2
def last : RF := byF 3 3
def prio : RF := byF 4 5
def destKind : RF := byF 7 7
def dest : RF := byF 8 9
def destSub : RF := byF 10 11
def mark : RF := byF 12 15
def alist : RF := byF 16 19
def kp : RF := byF 20 20
def firstSeq : RF := byF 24 31
def lastSeq : RF := byF 32 39
def hits : RF := byF 40 47
def lastHit : RF := byF 48 55
def writer : RF := byF 56 57
/-- FIRST_SEQ to LAST_HIT_NS, which the device alone writes. -/
def ro : RF := byF 24 55
/-- Byte `a` to byte `b` of match slot k. -/
def slot (k a b : Nat) : RF := byF (64 + 24 * k + a) (64 + 24 * k + b)
end RU

def State.rule (s : State) (i : Nat) : BitVec 2048 := tget 0 s.rules i
def State.setRule (s : State) (i : Nat) (r : BitVec 2048) : State := { s with rules := tset 0 s.rules i r }

/-- Commit count and oldest live sequence number (R207, R208). -/
def State.seq (s : State) : Nat := s.g CLASS.SEQ.SEQ
/-- Number of live versions. -/
def State.nlive (s : State) : Nat := s.seq - s.oldest + 1

/-- The state of a rule entry (R209): 0 FREE, 1 ASSEMBLING, 2 PENDING, 3 LIVE, 4 DEAD. -/
def State.ruleState (s : State) (r : BitVec 2048) : Nat :=
  let st := rget r RU.state
  if st < 2 then st
  else if s.seq < rget r RU.firstSeq then 2
  else if rget r RU.lastSeq < s.oldest then 4 else 3

/-- The sequence number that an 8-bit version resolves to (R207). -/
def State.resolve (s : State) (v : Nat) : Nat :=
  let lo := s.seq + 253
  let n := lo + (v + 256 - lo % 256) % 256
  n - 256

/-- Whether a match slot holds for a pass (R205). -/
def slotHolds (d : Desc) (r : BitVec 2048) (k : Nat) : Bool :=
  let op := rget r (RU.slot k 1 1)
  let a := rget r (RU.slot k 8 15)
  let b := rget r (RU.slot k 16 23)
  let v := keyField d (rget r (RU.slot k 0 0))
  if op % 8 = 0 then true
  else
    let c := match v with
      | none => false
      | some f => match op % 8 with
        | 1 => f &&& b == a
        | 2 => decide (a ≤ f) && decide (f ≤ b)
        | 3 =>
          let n := rget r (RU.slot k 2 2)
          let w := beNat (leBytes 8 a ++ leBytes 8 b)
          f / 2 ^ (128 - n) == w / 2 ^ (128 - n)
        | _ => true
    c != bit op 7

/-- Whether a rule matches a pass (R205). -/
def ruleMatches (d : Desc) (r : BitVec 2048) : Bool := (List.range 8).all (slotHolds d r)

/-- The winning rule of a pass under its version (R208, R218): index and entry. -/
def State.winner (s : State) (d : Desc) : Option (Nat × BitVec 2048) :=
  s.rules.foldl (fun best e =>
    let r := e.2
    if 2 ≤ rget r RU.state && decide (rget r RU.firstSeq ≤ d.ver) && decide (d.ver ≤ rget r RU.lastSeq) &&
        ruleMatches d r then
      match best with
      | none => some (e.1, r)
      | some b => if rget b.2 RU.prio < rget r RU.prio then some (e.1, r) else best
    else best) none

/-- The classification of a pass, with its counters (R218). -/
def State.classify (s : State) (d : Desc) : ClsRes × State :=
  match s.winner d with
  | none => (ClsRes.none, s.inc CLASS.NOMATCH.COUNT)
  | some (i, r) =>
    let s := if rget r RU.count = 1 then
        s.setRule i (rput (rput r RU.hits (satAdd 64 (rget r RU.hits) 1)) RU.lastHit (d.ts / 65536))
      else s
    (⟨i, rget r RU.lookup == 1, rget r RU.kp, rget r RU.mark, rget r RU.alist, rget r RU.destKind,
      rget r RU.dest, rget r RU.destSub⟩, s)

/-! Destinations. -/

/-- Whether an instance is ACTIVE and has a local WQ. -/
def State.destInst (s : State) (i sub : Nat) : Bool :=
  decide (i < 2048) && s.instActive i && decide (sub < s.ri i IR.nwq)

/-- Whether a destination is an instance in RESETTING or DESTROYING with such a WQ (R154). -/
def State.destEnding (s : State) (kind i sub : Nat) : Bool :=
  kind == 1 && decide (i < 2048) && s.instEnding i && decide (sub < s.ri i IR.nwq)

/-- Whether a destination keeps the ranges of R204 and R206 for its kind. -/
def State.destOk (s : State) (kind dest sub : Nat) : Bool :=
  match kind with
  | 1 => s.destInst dest sub
  | 2 => decide (dest < 8) && decide (sub < 8)
  | 3 => decide (dest < 12) && sub == 0
  | 4 => decide (dest < 16384) && sub == 0
  | 5 => dest == 0 && sub == 0
  | _ => false

/-! The check of a rule (R206). -/

def slotOk (r : BitVec 2048) (k : Nat) : Bool :=
  let op := rget r (RU.slot k 1 1)
  let id := rget r (RU.slot k 0 0)
  let a := rget r (RU.slot k 8 15)
  let b := rget r (RU.slot k 16 23)
  let w := fieldWidth id
  bits op 6 3 == 0 && rget r (RU.slot k 3 7) == 0 &&
  (match op % 8 with
   | 0 => true
   | 1 => w != 0 && !isAddr id && decide (a < 2 ^ w) && decide (b < 2 ^ w) && a &&& b == a
   | 2 => w != 0 && !isAddr id && decide (a < 2 ^ w) && decide (b < 2 ^ w) && decide (a ≤ b)
   | 3 => isAddr id && decide (rget r (RU.slot k 2 2) ≤ 128)
   | 4 => w != 0 && (isAddr id || (decide (a < 2 ^ w) && decide (b < 2 ^ w)))
   | _ => false)

/-- Whether a flow index names an action list that FLOW defines: a LIST context (R225). -/
def State.isList (s : State) (i : Nat) : Bool := getF (tget (0 : BitVec 2048) s.flows i) 7 0 == 2

/-- (DEDUCED, unsafe: assumption 71) -/
def State.ruleOk (s : State) (r : BitVec 2048) : Bool :=
  (List.range 8).all (slotOk r) && decide (rget r RU.flags < 8) && rget r (byF 6 6) == 0 &&
  rget r (byF 21 23) == 0 && rget r (byF 58 63) == 0 &&
  (rget r RU.destKind == 0 && rget r RU.dest == 0 && rget r RU.destSub == 0 ||
    s.destOk (rget r RU.destKind) (rget r RU.dest) (rget r RU.destSub)) &&
  (rget r RU.alist == 0xFFFF_FFFF || s.isList (rget r RU.alist)) && decide (rget r RU.kp < 16) &&
  decide (s.seq < s.resolve (rget r RU.first)) &&
  (rget r RU.openEnded == 1 || decide (s.resolve (rget r RU.first) ≤ s.resolve (rget r RU.last)))

/-- A rule that passed its check, with its sequence numbers (R207, R214). -/
def State.bindRule (s : State) (r : BitVec 2048) : BitVec 2048 :=
  let r := rput (rput r RU.state 2) RU.firstSeq (s.resolve (rget r RU.first))
  let r := rput r RU.lastSeq (if rget r RU.openEnded = 1 then 2 ^ 64 - 1 else s.resolve (rget r RU.last))
  rput (rput r RU.hits 0) RU.lastHit 0

/-! Table 0 (R214, R215). -/

/-- A chunk of a record of so many bits. -/
def chunkOf {n : Nat} (r : BitVec n) (c : Nat) : BitVec 512 := BitVec.ofNat 512 (r.toNat / 2 ^ (512 * c))
def putChunk {n : Nat} (r : BitVec n) (c : Nat) (d : BitVec 512) : BitVec n :=
  putF r (512 * c + 511) (512 * c) d.toNat

/-- A TAP command of R56. -/
inductive TapOp where
  | read | write | stage | invalidate
  deriving DecidableEq, Repr

/-- What a TAP command gives: its status, the chunk a READ returns, and the state after. -/
structure TapRes where
  status : Nat
  data : BitVec 512
  st : State
  deriving DecidableEq, Repr

def TapRes.of (s : State) (status : Nat) : TapRes := ⟨status, 0, s⟩
def TapRes.bad (s : State) : TapRes := ⟨stMalformed, 0, s⟩
def TapRes.val (s : State) (d : BitVec 512) : TapRes := ⟨stOk, d, s⟩

/-- STAGE_REFUSED and CLAIM_CONFLICT of CLASS. -/
def TapRes.refusedRule (s : State) : TapRes := ⟨stMalformed, 0, s.evt CLASS.base 11⟩
def TapRes.conflictRule (s : State) : TapRes := ⟨stConflict, 0, s.evtConflict CLASS.base⟩

/-- A rule in assembly with a chunk stored: its RO fields are not taken from what is staged (R204). Its reserved
bytes are kept until the check of R206 has seen them. -/
def ruleStored (r : BitVec 2048) (c : Nat) (d : BitVec 512) (actor : Nat) : BitVec 2048 :=
  let n := putChunk r c d
  if c = 0 then rput (rput (rput n RU.ro 0) RU.state 1) RU.writer actor else n

/-- The first chunk of an assembly. -/
def State.assemble (s : State) (actor i : Nat) (d : BitVec 512) : State :=
  { s.setRule i (ruleStored 0 0 d actor) with ruleNs := tset 0 s.ruleNs i s.ns }

/-- What a rule entry reads: its state counted, its reserved bits zero (R9, R204, R209). (DEDUCED, unsafe: assumption 71) -/
def State.ruleView (s : State) (r : BitVec 2048) : BitVec 2048 :=
  let r := clearF (clearF (clearF (clearF r 15 11) 55 48) 191 168) 511 464
  let r := (List.range 8).foldl (fun r k =>
    clearF (clearF r (8 * (64 + 24 * k) + 14) (8 * (64 + 24 * k) + 11))
      (8 * (64 + 24 * k) + 63) (8 * (64 + 24 * k) + 24)) r
  rput r RU.state (s.ruleState r)

/-- A re-bound (R215). (DEDUCED, unsafe: assumption 71) -/
def State.rebound (s : State) (actor i : Nat) (r : BitVec 2048) (d : BitVec 512) : TapRes :=
  let op := getF d 8 8
  let last := s.resolve (getF d 31 24)
  if rget r RU.openEnded = 0 ∧ rget r RU.lastSeq < s.seq then TapRes.refusedRule s
  else if op = 0 ∧ last < max s.seq (rget r RU.firstSeq) then TapRes.refusedRule s
  else
    let r := rput (rput r RU.openEnded op) RU.last (getF d 31 24)
    let r := rput r RU.lastSeq (if op = 1 then 2 ^ 64 - 1 else last)
    TapRes.of (s.setRule i (rput r RU.writer actor)) stOk

/-- (DEDUCED, unsafe: assumption 71) -/
def State.stageRule (s : State) (actor i c : Nat) (d : BitVec 512) : TapRes :=
  let r := s.rule i
  match s.ruleState r with
  | 1 =>
    if rget r RU.writer = actor then
      let ro := ruleStored r c d actor
      let s := { s with ruleNs := tset 0 s.ruleNs i s.ns }
      if c < 3 then TapRes.of (s.setRule i ro) stOk
      else if s.ruleOk (rput (rput ro RU.state 0) RU.writer 0) then TapRes.of (s.setRule i (s.bindRule ro)) stOk
      else TapRes.refusedRule (s.setRule i 0)
    else if c = 0 ∧ tget 0 s.ruleNs i + 1_000_000 ≤ s.ns then TapRes.of (s.assemble actor i d) stOk
    else TapRes.conflictRule s
  | 2 => if c = 0 then s.rebound actor i r d else TapRes.refusedRule s
  | 3 => if c = 0 then s.rebound actor i r d else TapRes.refusedRule s
  | _ => if c = 0 then TapRes.of (s.assemble actor i d) stOk else TapRes.refusedRule s

def State.tapClass (s : State) (actor : Nat) (op : TapOp) (t i c : Nat) (d : BitVec 512) : TapRes :=
  if t ≠ 0 ∨ 65536 ≤ i ∨ 4 ≤ c then (if op = .stage then TapRes.refusedRule s else TapRes.bad s)
  else match op with
  | .read => TapRes.val s (chunkOf (s.ruleView (s.rule i)) c)
  | .write => TapRes.bad s
  | .stage => s.stageRule actor i c d
  | .invalidate =>
    let r := s.rule i
    match s.ruleState r with
    | 1 => if rget r RU.writer = actor then TapRes.of (s.setRule i 0) stOk else TapRes.conflictRule s
    | 3 => TapRes.bad s
    | _ => TapRes.of (s.setRule i 0) stOk

/-- Entries of CLASS by state (`CLASS.RULE_CNT`, `RULE_CNT2`). -/
def State.ruleCount (s : State) (st : Nat) : Nat := (s.rules.filter (fun e => s.ruleState e.2 == st)).length
def State.ruleFree (s : State) : Nat := 65536 - (s.rules.filter (fun e => s.ruleState e.2 != 0)).length

/-- R217: PENDING rules that name an instance go at the end of its DESTROY. -/
def State.freeRules (s : State) (i : Nat) : State :=
  { s with rules := s.rules.filter (fun e =>
      !(s.ruleState e.2 == 2 && rget e.2 RU.destKind == 1 && rget e.2 RU.dest == i)) }

/-! Versions and commits. -/

/-- Packets that hold a version (R210). -/
def State.holders (s : State) (v : Nat) : Nat := (s.descs.filter (fun e => e.2.holds && e.2.ver == v)).length

/-- The parser configuration of a version (R189). -/
def State.cfgOf (s : State) (v : Nat) : BitVec 1024 := tget pcfgDefault s.pcfg v

/-- A commit request past its sender's checks (R212). -/
def State.commitStatus (s : State) (v : Nat) : Nat :=
  if v ≠ (s.seq + 1) % 256 then stMalformed
  else if s.nlive = 4 || s.cur CLASS.base == svcFailed then stBusy
  else stOk

/-- A commit request of an actor, by a register write or a trigger (R212). (DESIGN CHOICE, unsafe: assumption 158) -/
def State.commit (s : State) (actor v : Nat) (trig : Bool) : Nat × State :=
  let st := if !s.permits actor .class then stMalformed
    else if !s.claimAllows (UNIT.CLAIM.reg CLASS.base) actor then stConflict
    else s.commitStatus v
  let s := s.p CLASS.COMMIT_STAT.STATUS st
  let s := (s.p CLASS.COMMIT_STAT.VERSION v).pb CLASS.COMMIT_STAT.BY_TRIG trig
  let s := s.p CLASS.COMMIT_STAT.ACTOR actor
  if st = stOk then
    let n := s.seq + 1
    let s := (s.p CLASS.SEQ.SEQ n).p CLASS.COMMIT_NS.NS s.ns
    let s := { s with pcfg := tset pcfgDefault s.pcfg n s.pcfgStaged }
    (st, ((s.pb PARSE.CFG_STAT.STAGED false).p PARSE.CFG_STAT.CUR_VER (n % 256)).evt CLASS.base 8)
  else (st, s.evt CLASS.base 9)

/-- A write of `CLASS.COMMIT`: one dropped for power requests nothing, and a claim that forbids it reports the
conflict (R38, R58, R212). (DESIGN CHOICE, unsafe: assumption 158) -/
def State.commitWrite (s : State) (actor v : Nat) : State :=
  if s.domDown 1 then s.inc ROOT.DROPPED_WRITES.COUNT
  else
    let x := s.commit actor v false
    if x.1 = stConflict then x.2.evtConflict CLASS.base else x.2

def execClassCommit (actor v : Nat) (s : State) : Host.Outcome State Fault Refusal :=
  act s actor (s.commitWrite actor (v % 256))

/-- R211. -/
def execVersionRetire (s : State) : Host.Outcome State Fault Refusal :=
  done s (if s.oldest < s.seq ∧ s.holders s.oldest = 0 then
    { s with oldest := s.oldest + 1, pcfg := tset pcfgDefault s.pcfg s.oldest pcfgDefault }.evt CLASS.base 10
  else s)

/-! The tables of PARSE (R189, R190, R200). -/

def State.tapParse (s : State) (op : TapOp) (t i c : Nat) (d : BitVec 512) : TapRes :=
  match t with
  | 0 =>
    if i ≠ 0 ∨ 2 ≤ c then TapRes.bad s
    else match op with
    | .read => TapRes.val s (chunkOf (s.cfgOf s.seq) c)
    | .stage =>
      let n := putChunk s.pcfgStaged c (if c = 0 then d &&& BitVec.ofNat 512 (2 ^ 272 - 1) else d)
      if (if c = 0 then pcfgOk0 n else pcfgOk1 n) then
        TapRes.of ({ s with pcfgStaged := n }.pb PARSE.CFG_STAT.STAGED true) stOk
      else TapRes.bad s
    | _ => TapRes.bad s
  | 1 => if op = .read ∧ i = 0 ∧ c < 2 then TapRes.val s (chunkOf s.pcfgStaged c) else TapRes.bad s
  | 2 => if op = .read ∧ i < 2560 ∧ c = 0 then TapRes.val s (BitVec.ofNat 512 (tget 0 s.pcount i)) else TapRes.bad s
  | 3 => if op = .read ∧ i < 80 ∧ c = 0 then TapRes.val s (BitVec.ofNat 512 (tget 0 s.pcount (4096 + i)))
         else TapRes.bad s
  | _ => TapRes.bad s

/-- A TRUNCATED or MALFORMED pass is counted (R200); `action` 3 for a DIRECT send. -/
def State.countExc (s : State) (d : Desc) (action : Nat) : State :=
  let r := d.prec
  let k := if r.cls = 2 then d.psrc * 256 + r.reason else 4096 + d.psrc * 8 + r.reason
  let s := { s with pcount := tset 0 s.pcount k (satAdd 64 (tget 0 s.pcount k) 1) }
  let s := (s.p PARSE.LAST_EXC.CLASS r.cls).p PARSE.LAST_EXC.ACTION action
  let s := (s.p PARSE.LAST_EXC.SOURCE d.psrc).p PARSE.LAST_EXC.REASON r.reason
  let s := (s.p PARSE.LAST_EXC.OFFSET r.exc).pb PARSE.LAST_EXC.RE_ENTERED d.re
  let s := (s.p PARSE.LAST_EXC.VERSION (d.ver % 256)).p PARSE.LAST_EXC_NS.NS (d.ts / 65536)
  s.evt PARSE.base (if r.cls = 1 then 8 else 9)

end Sys2Proof.Machine
end

