-- ==== Sys2Proof/Machine/HiveCore.lean ====
section
/-! DEFINITION. Hive threads and their events (R348–R354), Hive store and channels (R345, R351): what other
units need of a Hive. -/

namespace Sys2Proof.Machine

def State.th (s : State) (t : Nat) : Thread := tget Thread.reset s.thread t
def State.setTh (s : State) (t : Nat) (v : Thread) : State := { s with thread := tset Thread.reset s.thread t v }
def State.modTh (s : State) (t : Nat) (f : Thread → Thread) : State := s.setTh t (f (s.th t))
def State.hv (s : State) (h : Nat) : HiveSt := tget HiveSt.reset s.hive h
def State.setHv (s : State) (h : Nat) (v : HiveSt) : State := { s with hive := tset HiveSt.reset s.hive h v }
def State.modHv (s : State) (h : Nat) (f : HiveSt → HiveSt) : State := s.setHv h (f (s.hv h))

/-! Thread state codes. -/
def thOff : Nat := 0
def thRun : Nat := 1
def thWait : Nat := 2
def thWfe : Nat := 3
def thParked : Nat := 4
def thHalted : Nat := 5
def thStopped : Nat := 6

/-- Event bits of R350. -/
def evTimer : Nat := 0
def evChannel : Nat := 1
def evSpace : Nat := 2
def evIntake : Nat := 3
def evTxts : Nat := 4
def evDoorbell : Nat := 5
def evCells : Nat := 6
def evSev : Nat := 7
def evFault : Nat := 8
def evStall : Nat := 9
def evMigrate : Nat := 10

/-- The supervisor of a Hive. -/
def supervisor (h : Nat) : Nat := h * 64
def thActor (t : Nat) : Nat := 0x1000 + t

/-- A thread changes state; RUN re-arms stall detection (R352). -/
def State.setThState (s : State) (t st : Nat) : State :=
  let s := s.modTh t (fun v => { v with state := st, clk := s.edryn.clk })
  if st = thRun then s.modHv (t / 64) (fun v => { v with stalled := false }) else s

/-- The events that end a thread's WFE: those its mask enables, and bits 8–10 (R350). -/
def Thread.wakes (v : Thread) : Bool := v.pending &&& (v.mask ||| 0x700) != 0

/-- A thread in WFE with an enabled event pending returns to RUN: its WFE completes. -/
def State.wakeTh (s : State) (t : Nat) : State :=
  let v := s.th t
  if v.state = thWfe && v.wakes then
    (s.setTh t { v with pc := v.pc + 4, retired := v.retired + 1 }).setThState t thRun
  else s

/-- An event bit of a thread is set (R350). -/
def State.thEvent (s : State) (t b : Nat) : State :=
  (s.modTh t (fun v => { v with pending := v.pending ||| 2 ^ b })).wakeTh t

/-- A general register: q0 reads zero (R363). -/
def State.qr (s : State) (t r : Nat) : Word := if r = 0 then 0 else tget 0 (s.th t).q r
/-- A write of a general register: q0 discards it (R363). -/
def State.qw (s : State) (t r : Nat) (v : Word) : State :=
  if r = 0 ∨ 32 ≤ r then s else s.modTh t (fun x => { x with q := tset 0 x.q r v })

/-- An armed timer fires: TIMER is pending and the deadline is 0 (R369). -/
def State.timerFire (s : State) (t : Nat) : State := (s.modTh t (fun v => { v with timer := 0 })).thEvent t evTimer
/-- A deadline that Edryn time has reached fires before the instruction that looks at the timer or its event acts
(R369). -/
def State.timerFirst (s : State) (t n : Nat) : State :=
  if (n = 2 ∨ n = 4) ∧ (s.th t).timer ≠ 0 ∧ (s.th t).timer ≤ s.ns then s.timerFire t else s
/-- Every armed timer that a forward step has passed fires (R369). -/
def State.timersDue (s : State) : State :=
  (tkeys s.thread).foldl (fun s t => if (s.th t).timer ≠ 0 ∧ (s.th t).timer ≤ s.ns then s.timerFire t else s) s

/-! Hive store (R345). -/

def hsSize : Nat := 0x40_0000
/-- (DESIGN CHOICE, unsafe: assumption 9) -/
def State.hsRead (s : State) (h a n : Nat) : Bytes := mread s.store (h * hsSize + a) n
def State.hsWrite (s : State) (h a : Nat) (d : Bytes) : State :=
  { s with store := mwrite s.store (h * hsSize + a) d }
/-- First byte of a Hive's secure region (R346). -/
def State.secureFrom (s : State) (h : Nat) : Nat := hsSize - s.g (HIVE.SECURE_REGION.SIZE h) * 0x8000

/-- Hive data in HBM: behind the flow contexts, the wrapped key slots and the extent map. (DEDUCED, unsafe: assumption 54) -/
def hbmHiveFrom : Nat := 2 ^ 30 + 2 ^ 27 + 2 ^ 32
/-- (DEDUCED, unsafe: assumption 54) -/
def hbmEnd : Nat := 48 * 2 ^ 30

/-! Faults (R353, R354). -/

def fltIllegal : Nat := 1
def fltMisaligned : Nat := 2
def fltBus : Nat := 3
def fltSecure : Nat := 4
def fltImem : Nat := 5
def fltChannel : Nat := 6

/-- Base of a thread's core. -/
def qcoreBase (t : Nat) : Nat := HIVE.base (t / 64) + 0x20_0000 + 0x2_0000 * (t % 64 / 8)

/-- Key of a thread's call among the power transfers (R400). -/
def xferCall (t : Nat) : Nat := 2 ^ 46 + t

/-- A stopped thread keeps no long access, but for one that a RESET waits for (R378). (DESIGN CHOICE, unsafe: assumption 143) -/
def Thread.stop (v : Thread) : Thread := if v.later = 1 then v else { v with wait := none, later := 0 }

/-- A precise fault of a thread at an instruction, with the data address it used. -/
def State.thFault (s : State) (t code pc addr : Nat) : State :=
  let h := t / 64
  let stop := !s.gb (HIVE.CFG.FAULT_MODE h) || t == supervisor h
  let s := s.modTh t (fun v => { v with lastFault := code })
  let s := s.inc (HIVE.FAULT_LOG.COUNT h)
  let s := if s.gb (HIVE.FAULT_LOG.VALID h) then s
    else
      let s := (s.pb (HIVE.FAULT_LOG.VALID h) true).p (HIVE.FAULT_LOG.THREAD h) (t % 64)
      let s := (s.p (HIVE.FAULT_LOG.CODE h) code).pb (HIVE.FAULT_LOG.PARKED h) (!stop)
      (s.p (HIVE.FAULT_PC.VALUE h) pc).p (HIVE.FAULT_ADDR.VALUE h) addr
  if stop then
    let s := (List.range 8).foldl (fun s k =>
      let s := if (s.th (t / 8 * 8 + k)).later = 1 then s else s.endXfer (xferCall (t / 8 * 8 + k))
      (s.modTh (t / 8 * 8 + k) Thread.stop).setThState (t / 8 * 8 + k) thStopped) s
    ((s.fault (qcoreBase t) code).evt (qcoreBase t) 8).evt (HIVE.base h) 9
  else ((s.setThState t thParked).evt (HIVE.base h) 10).thEvent (supervisor h) evFault

/-! Stall detection (R352). -/

/-- Whether a thread counts as waiting. -/
def Thread.idle (v : Thread) : Bool :=
  v.state == thWfe || v.state == thOff || v.state == thParked || v.state == thStopped

/-- The channel word (R351): RECEIVER, VALID, FEED. -/
def chReceiver (w : Word) : Nat := getF w 5 0
def chValid (w : Word) : Bool := getF w 6 6 == 1
def chFeed (w : Word) : Nat := getF w 9 8

/-- Whether a thread in WFE can still be woken from outside the Hive. -/
def State.armedTh (s : State) (t : Nat) : Bool :=
  let v := s.th t
  let h := t / 64
  v.state == thWfe && (
    (bit v.mask evTimer && v.timer != 0) ||
    (bit v.mask evChannel && s.hchan.any (fun e => e.1 / 256 == h && chValid e.2 &&
      chReceiver e.2 == t % 64 && (chFeed e.2 == 1 || chFeed e.2 == 2))) ||
    (bit v.mask evIntake && s.g (HIVE.RING_CFG.INTAKE_LOG2 h) != 0) ||
    (bit v.mask evTxts && s.g (HIVE.RING_CFG.TXTS_LOG2 h) != 0) ||
    (bit v.mask evDoorbell && (List.range 1024).any (fun d =>
      bit (s.g (WAGGLE.DB_CFG.THREADS (h + 1) d)) (t % 64))) ||
    bit v.mask evCells)

/-- The condition of R352 but for its duration, and the rate clock since which it holds. -/
def State.stallNow (s : State) (h : Nat) : Bool :=
  (List.range 64).all (fun k => (s.th (h * 64 + k)).idle) &&
  (List.range 64).all (fun k => !s.armedTh (h * 64 + k))
def State.stallSince (s : State) (h : Nat) : Nat :=
  (List.range 64).foldl (fun a k => max a (s.th (h * 64 + k)).clk) (s.hv h).cfgClk

/-! Channels (R351). -/

def State.hch (s : State) (h c : Nat) : Word := tget 0 s.hchan (h * 256 + c)
def State.msgs (s : State) (h c : Nat) : List (List Word) := tget [] s.hmsg (h * 256 + c)
def State.setMsgs (s : State) (h c : Nat) (m : List (List Word)) : State :=
  { s with hmsg := tset [] s.hmsg (h * 256 + c) m }

/-- A message is appended and its receiver told. -/
def State.chanAppend (s : State) (h c : Nat) (m : List Word) : State :=
  (s.setMsgs h c (s.msgs h c ++ [m])).thEvent (h * 64 + chReceiver (s.hch h c)) evChannel

/-- A device source delivers a message to the channels that firmware opened for one (FEED 2), each with room for it
(R70, R351). (DESIGN CHOICE, unsafe: assumption 36) -/
def State.deviceFeed (s : State) (m : List Word) : State :=
  s.hchan.foldl (fun s e =>
    if chValid e.2 && chFeed e.2 == 2 && decide ((tget [] s.hmsg e.1).length < 16)
    then s.chanAppend (e.1 / 256) (e.1 % 256) m else s) s

/-- A message is taken: threads whose last commit failed for want of space are told. -/
def State.chanSpace (s : State) (h c : Nat) : State :=
  s.thread.foldl (fun s e =>
    if e.2.space.contains (h * 256 + c) then
      (s.modTh e.1 (fun v => { v with space := v.space.filter (fun x => x != h * 256 + c) })).thEvent e.1 evSpace
    else s) s

end Sys2Proof.Machine
end

