-- ==== Sys2Proof/Machine/Packet.lean ====
section
/-! DEFINITION. Packets in the Comb: port accounts, the carve and the shared pool (R250–R255), pause and
PFC requests, descriptors, handles and cells (R244–R246), and the end of a NET_TX entry (R25). -/

namespace Sys2Proof.Machine

/-! Port accounts. -/

namespace PA
def hdrm : RF := byF 0 3
def xoff : RF := byF 4 7
def xon : RF := byF 8 11
def egrLimit : RF := byF 12 15
def ecnMin : RF := byF 16 19
def ecnMax : RF := byF 20 23
def ignored : RF := byF 24 31
def marked : RF := byF 32 39
def u : RF := byF 40 43
def h : RF := byF 44 47
def egr : RF := byF 48 51
end PA

/-- The default account. -/
def acctDefault : BitVec 512 :=
  packBytes 512 (leBytes 4 0 ++ leBytes 4 8192 ++ leBytes 4 6144 ++ leBytes 4 65536 ++ leBytes 4 2048 ++
    leBytes 4 16384)

def State.acct (s : State) (k : Nat) : BitVec 512 := tget acctDefault s.accts k
def State.ag (s : State) (k : Nat) (f : RF) : Nat := rget (s.acct k) f
def State.ap (s : State) (k : Nat) (f : RF) (v : Nat) : State :=
  { s with accts := tset acctDefault s.accts k (rput (s.acct k) f v) }

def State.pfcEn (s : State) (p t : Nat) : Bool := bit (s.g (PORT.MAC_CFG.PFC_EN p)) t
def State.pauseEn (s : State) (p : Nat) : Bool := s.gb (PORT.MAC_CFG.PAUSE_EN p)
/-- The account of a port's class: with global PAUSE all eight act as one (R254). -/
def State.acctOf (s : State) (p t : Nat) : Nat := 8 * p + (if s.pauseEn p then 0 else t)
def State.inXoff (s : State) (k : Nat) : Bool := bit (s.g COMB.XOFF_STATE.XOFF) k

/-- Bit rate of a port mode in Gb/s (R439). -/
def modeRate (m : Nat) : Nat :=
  match m with
  | 1 => 1600 | 2 => 800 | 3 => 800 | 4 => 400 | 5 => 400 | 6 => 400 | 7 => 200 | 8 => 200 | 9 => 200
  | 10 => 100 | 11 => 100 | 12 => 100 | 13 => 50 | 14 => 25 | _ => 0
/-- Lanes of a mode (R439). -/
def modeLanes (m : Nat) : Nat :=
  match m with
  | 1 => 8 | 2 => 4 | 3 => 8 | 4 => 2 | 5 => 4 | 6 => 8 | 8 => 2 | 9 => 4 | 11 => 2 | 12 => 4 | 0 => 0 | _ => 1
/-- Port power domains of a port's lanes (R439). -/
def State.portDoms (s : State) (p : Nat) : List Nat :=
  ((List.range (max 1 (modeLanes (s.g (PORT.MODE.MODE p))))).map (fun k => 5 + (p + k) / 2)).eraseDups
def State.portRate (s : State) (p : Nat) : Nat := modeRate (s.g (PORT.MODE.MODE p))

def State.portSt (s : State) (p : Nat) : PortSt := tget PortSt.reset s.port p
def State.setPort (s : State) (p : Nat) (v : PortSt) : State := { s with port := tset PortSt.reset s.port p v }

/-! The carve (R250). -/

def combCells : Nat := 393216
def State.carved (s : State) : Nat :=
  (s.accts.foldl (fun a e => a + rget e.2 PA.hdrm) 0) + s.g COMB.BEELINE_RSV.CELLS +
  (s.rsvSize.foldl (fun a e => a + e.2 * 256) 0)
/-- Size and free cells of the shared pool. -/
def State.poolSize (s : State) : Nat := combCells - s.repair.retired - s.carved
def State.poolFree (s : State) : Nat := s.poolSize - s.poolUsed

/-! Pause and PFC frames (R444). -/

/-- Cycles of the rate clock that quanta take at a port's rate: 512 bit times each. -/
def State.quantaClk (s : State) (p q : Nat) : Nat :=
  let r := s.portRate p
  if r = 0 then 0 else ceilDiv (q * 512 * 3) (2 * r)

def State.isPaused (s : State) (p k : Nat) : Bool := bit (s.g (PORT.STAT.PAUSED p)) k
def State.setPaused (s : State) (p k : Nat) (b : Bool) : State :=
  s.p (PORT.STAT.PAUSED p) (setBits (s.g (PORT.STAT.PAUSED p)) k k (b2n b))

/-- An egress class is no longer paused. -/
def State.unpause (s : State) (p k : Nat) : State :=
  let v := s.portSt p
  (s.setPaused p k false).setPort p
    { v with pauseEnd := tset 0 v.pauseEnd k 0, pauseFrom := tset 0 v.pauseFrom k 0, stormed := setBits v.stormed k k 0 }
/-- An egress class is paused for quanta that are not 0. -/
def State.pauseFor (s : State) (p k q : Nat) : State :=
  let v := s.portSt p
  let from_ := if s.isPaused p k then tget 0 v.pauseFrom k else s.edryn.clk + 1
  (s.setPaused p k true).setPort p
    { v with pauseEnd := tset 0 v.pauseEnd k (s.edryn.clk + s.quantaClk p q), pauseFrom := tset 0 v.pauseFrom k from_ }

/-- A pause frame that a port sends comes back to it in a near-end loopback (R448). -/
def State.pauseLooped (s : State) (p t q : Nat) : State :=
  (if s.pauseEn p then List.range 8 else [t]).foldl (fun s k => if q = 0 then s.unpause p k else s.pauseFor p k q) s

/-- A PORT is asked for XOFF or XON on an account's class. A port in PMA far-end loopback sends no frame
of its own, and one in MAC loopback sends idles to the line (R448). (DESIGN CHOICE, unsafe: assumption 161) -/
def State.pauseSend (s : State) (p t : Nat) (on : Bool) : State :=
  let q := if on then 0xFFFF else 0
  let v := s.portSt p
  let m := s.g (PORT.LOOPBACK.MODE p)
  let s := s.setPort p { v with xoffSent := setBits v.xoffSent t t (b2n on), xoffClk := tset 0 v.xoffClk t s.edryn.clk }
  if !s.gb (PORT.STAT.LINK p) || m == 3 then s
  else
    let s := if m == 1 then s else s.emit (if s.pauseEn p then .pause p q else .pfc p t q)
    if m == 1 || m == 2 then s.pauseLooped p t q else s

/-- Bits of `XOFF_STATE` that an account covers. -/
def State.xoffBits (s : State) (p t : Nat) : Nat := if s.pauseEn p then 0xFF * 2 ^ (8 * p) else 2 ^ (8 * p + t)

/-- One account enters or leaves XOFF (R253). -/
def State.xoffStep (s : State) (p t : Nat) : State :=
  let k := 8 * p + t
  let x := s.reg COMB.XOFF_STATE.reg
  let m := BitVec.ofNat 64 (s.xoffBits p t)
  if s.inXoff k then
    if s.ag k PA.h = 0 ∧ s.ag k PA.u < s.ag k PA.xon ∧ s.g COMB.SHARED_XOFF.XON ≤ s.poolFree then
      (s.setReg COMB.XOFF_STATE.reg (x &&& ~~~m)).pauseSend p t false
    else s
  else if s.ag k PA.xoff ≤ s.ag k PA.u ∨ s.poolFree ≤ s.g COMB.SHARED_XOFF.XOFF then
    { (s.setReg COMB.XOFF_STATE.reg (x ||| m)).pauseSend p t true with
      xoffClk := tset 0 s.xoffClk k s.edryn.clk }
  else s

/-- Classes of a port whose accounts may enter XOFF. -/
def State.xoffClasses (s : State) (p : Nat) : List Nat :=
  if s.pauseEn p then [0] else (List.range 8).filter (fun t => s.pfcEn p t)
/-- Every account follows its use and the pool's free cells. -/
def State.xoffSweep (s : State) : State :=
  (List.range 8).foldl (fun s p => (s.xoffClasses p).foldl (fun s t => s.xoffStep p t) s) s

/-- What a state's shared pool reaches from that of an earlier one: SHARED_LOW when its free cells reach the XOFF
level (R261). -/
def State.poolEvt (s t : State) : State :=
  if s.g COMB.SHARED_XOFF.XOFF < s.poolFree ∧ t.poolFree ≤ t.g COMB.SHARED_XOFF.XOFF then t.evt COMB.base 12 else t
/-- A change of the carve, of the retired cells or of the XOFF levels: SHARED_LOW, and every account follows
(R253, R261). -/
def State.poolMoved (s t : State) : State := (s.poolEvt t).xoffSweep

/-- The shared pool's occupancy changes. -/
def State.setPool (s : State) (n : Nat) : State := s.poolEvt { s with poolUsed := n }

/-- Cells are taken from the shared pool (R253). -/
def State.takePool (s : State) (n : Nat) : State := (s.setPool (s.poolUsed + n)).xoffSweep

/-- One cell of a network frame is stored; `none` where it cannot be (R253, R255). -/
def State.storeCell (s : State) (p t : Nat) : Option State :=
  let k := s.acctOf p t
  if s.inXoff k then
    if s.ag k PA.h < s.ag k PA.hdrm then some (s.ap k PA.h (s.ag k PA.h + 1)) else none
  else if s.poolFree = 0 then none
  else
    let s := (s.ap k PA.u (s.ag k PA.u + 1)).setPool (s.poolUsed + 1)
    some (if (s.xoffClasses p).contains (k % 8) then s.xoffStep p (k % 8) else s)

/-- Cells of an ingress account are freed: H first (R253). -/
def State.freeAcct (s : State) (k n : Nat) : State :=
  let h := min n (s.ag k PA.h)
  let u := min (n - h) (s.ag k PA.u)
  ((s.ap k PA.h (s.ag k PA.h - h)).ap k PA.u (s.ag k PA.u - u)).setPool (s.poolUsed - u)

/-- The cells of a frame are stored one after another: whether all were, and how many. -/
def State.storeCells (s : State) (p t : Nat) : Nat → Nat → Bool × Nat × State
  | 0, n => (true, n, s)
  | k + 1, n => match s.storeCell p t with
    | some s => s.storeCells p t k (n + 1)
    | none => (false, n, s)

/-- A frame of so many cells from a port: stored, or NO_CELL (R255). -/
def State.storeFrame (s : State) (p t cells : Nat) : Bool × State :=
  match s.storeCells p t cells 0 with
  | (true, _, s) => (true, s.xoffSweep)
  | (false, n, s) =>
    let k := s.acctOf p t
    let s := s.freeAcct k n
    let fill := s.ag k PA.hdrm * 256 * 8
    let s := if s.inXoff k ∧ fill < s.since (tget 0 s.xoffClk k) * s.portRate p
      then s.ap k PA.ignored (satAdd 64 (s.ag k PA.ignored) 1) else s
    let s := ((s.inc COMB.NO_CELL.COUNT).p COMB.NO_CELL.PORT p).p COMB.NO_CELL.TC t
    (false, (s.evt COMB.base 8).xoffSweep)

/-! Hives. -/

/-- An event bit of every thread of a Hive (R350). -/
def State.hiveEvent (s : State) (h b : Nat) : State :=
  (List.range 64).foldl (fun s k => s.thEvent (h * 64 + k) b) s

def State.hiveCharge (s : State) (h : Nat) : Nat := tget 0 s.hiveCells h
/-- A Hive's charge changes; CELLS when it falls below the limit (R350). -/
def State.setHiveCharge (s : State) (h n : Nat) : State :=
  let lim := s.g COMB.HIVE_LIMIT.CELLS
  let fell := decide (lim ≤ s.hiveCharge h) && decide (n < lim)
  let s := { s with hiveCells := tset 0 s.hiveCells h n }
  if fell then s.hiveEvent h evCells else s

/-! Packets and their descriptors. -/

def Pkt.none : Pkt := ⟨[], 0, 0, false, .none, .none, .none, [], .none⟩
def State.pkt (s : State) (k : Nat) : Pkt := tget Pkt.none s.pkts k
def State.setPkt (s : State) (k : Nat) (p : Pkt) : State := { s with pkts := tset Pkt.none s.pkts k p }
def State.modPkt (s : State) (k : Nat) (f : Pkt → Pkt) : State := s.setPkt k (f (s.pkt k))

/-- A descriptor as PARSE's first pass finds it. -/
def Desc.empty : Desc :=
  { pkt := 0, handle := 0, bytes := [], ts := 0, ver := 0, holds := false, prec := PRec.empty, re := false,
    rec0 := PRec.empty, vlans := 0, decrypted := false, macsec := false, src := 0, inst := 2048, tc := 0, cr := ClsRes.none, key := [], hash := 0, flowIdx := 0xFFFF_FFFF, mark := 0,
    slot := .none, dk := 0, dest := 0, sub := 0, viaHive := false, by9 := false, words := [], jump := [], wi := 0, did := [], ipid := false,
    op := .none, again := false, reason := 0, word := 0xFF, copy := false, main := true, place := .pipe,
    admNs := 0, waitClk := 0, stuck := false, launch := .none, late := 0, lateSlot := 0, lateDiscard := false, txq := .none, txts := .none,
    egress := 0, onAt := 0 }

def State.desc (s : State) (d : Nat) : Desc := tget Desc.empty s.descs d
def State.setDesc (s : State) (d : Nat) (v : Desc) : State := { s with descs := tset Desc.empty s.descs d v }
def State.modDesc (s : State) (d : Nat) (f : Desc → Desc) : State := s.setDesc d (f (s.desc d))

/-- Packet descriptors of R245, and how many are free. -/
def descMax : Nat := 524288
def State.descFree (s : State) : Nat := descMax - s.descs.length

/-- A Comb handle for a new descriptor: a free index (which one the spec leaves open) and the index's next
generation, which skips 0 (R245). -/
def State.newHandle (s : State) : Nat × State :=
  let (v, s) := s.fresh
  let used (k : Nat) : Bool := s.descs.any (fun e => e.2.handle % 2 ^ 20 == k)
  match pickFree used descMax descMax v.toNat with
  | none => (0, s)
  | some k =>
    let g := tget 0 s.gens k % 4095 + 1
    (k + g * 2 ^ 20, { s with gens := tset 0 s.gens k g })

/-- A descriptor is taken: its serial number. -/
def State.addDesc (s : State) (v : Desc) : Nat × State :=
  let (h, s) := s.newHandle
  let d := s.serial + 1
  (d, { s with serial := d }.setDesc d { v with handle := h })

/-- Cells of a frame of so many bytes (R244). -/
def cellsOf (n : Nat) : Nat := ceilDiv n 256

/-- A stored packet: its serial number. -/
def State.addPkt (s : State) (p : Pkt) : Nat × State :=
  let k := s.serial + 1
  (k, { s with serial := k }.setPkt k p)

/-- The descriptor that a handle names, if its generation matches. -/
def State.byHandle (s : State) (h : Nat) : Option Nat :=
  (s.descs.find? (fun e => e.2.handle == h)).map Prod.fst

/-! Charges. -/

/-- Destinations are charged and credited: an instance's COMB count, or an egress account. -/
def State.chargeDest (s : State) (x n : Nat) : State :=
  if x < 4096 then s.addRef x IR.refComb n else s.ap (x - 4096) PA.egr (s.ag (x - 4096) PA.egr + n)
def State.creditDest (s : State) (x n : Nat) : State :=
  if x < 4096 then s.subRef x IR.refComb n else s.ap (x - 4096) PA.egr (s.ag (x - 4096) PA.egr - n)

/-- The sender's charge ends (R258). -/
def State.endSender (s : State) (k : Nat) : State :=
  match (s.pkt k).sender with
  | some i => (s.subRef i IR.refComb (s.pkt k).cells).modPkt k (fun p => { p with sender := none })
  | none => s
def State.endHive (s : State) (k : Nat) : State :=
  match (s.pkt k).hive with
  | some h => (s.modPkt k (fun p => { p with hive := none })).setHiveCharge h (s.hiveCharge h - (s.pkt k).cells)
  | none => s

/-- Cells are freed and every account charged for them is credited (R246). -/
def State.freePkt (s : State) (k : Nat) : State :=
  let p := s.pkt k
  let s := match p.acct with
    | some a => s.freeAcct a p.cells
    | none => if p.rsv then s.p COMB.BEELINE_RSV.USED (s.g COMB.BEELINE_RSV.USED - p.cells)
              else s.setPool (s.poolUsed - p.cells)
  let s := (s.endSender k).endHive k
  let s := p.dests.foldl (fun s x => s.creditDest x p.cells) s
  { s with pkts := tdel s.pkts k, poison := s.poison.filter (fun e => e != (3, k)),
           pad := s.pad.filter (fun e => e.1 / 16384 != k) }.xoffSweep

/-- A descriptor leaves its admission queue. -/
def State.unadmit (s : State) (d : Nat) : State :=
  { s with admq := tmap [] s.admq (fun _ l => l.filter (fun x => x != d)) }

/-- A descriptor leaves every queue. -/
def State.unlist (s : State) (d : Nat) : State :=
  let rm (l : List Nat) : List Nat := l.filter (fun x => x != d)
  { s with pipeWait := rm s.pipeWait, noHive := rm s.noHive, storIn := rm s.storIn, beeline := rm s.beeline,
           admq := tmap [] s.admq (fun _ l => rm l),
           noder := tmap Node.reset s.noder (fun _ n => { n with q := rm n.q }) }

/-- A Hive's hold ends: it stops holding the handle, windows unmap, its HIVE reference drops (R156, R356). -/
def State.endHold (s : State) (d : Nat) : State :=
  let v := s.desc d
  match v.place with
  | .held h =>
    let s := s.modHv h (fun x => { x with held := x.held.filter (fun y => y != v.handle) })
    let s := s.p (HIVE.HELD.PACKETS h) (s.g (HIVE.HELD.PACKETS h) - 1)
    let unmap (w : Option Nat) : Option Nat := if w = some v.handle then none else w
    let s := { s with thread := tmap Thread.reset s.thread (fun _ t => { t with win0 := unmap t.win0, win1 := unmap t.win1 }) }
    s.subRef v.inst IR.refHive 1
  | _ => s

/-- A descriptor is released (R246): the cells are freed with the last one. -/
def State.releaseDesc (s : State) (d : Nat) : State :=
  let s := (s.endHold d).endXfer (xferPkt d)
  let k := (s.desc d).pkt
  let s : State := { s.unlist d with descs := tdel s.descs d }
  let s := s.modPkt k (fun p => { p with refs := p.refs - 1 })
  if (s.pkt k).refs = 0 then s.freePkt k else s

/-- A copy that shares the cells, with a descriptor of its own; `none` where no descriptor is free (R246). -/
def State.copyDesc (s : State) (v : Desc) : Option (Nat × State) :=
  if s.descFree = 0 then none
  else
    let (d, s) := s.addDesc { v with main := false, txts := none }
    some (d, s.modPkt v.pkt (fun p => { p with refs := p.refs + 1 }))

/-! The end of a NET_TX entry. -/

/-- Whether an entry is TIMED, and the entry of a packet's work. -/
def State.workEnt (s : State) (w : TxWork) : BitVec 512 :=
  match s.ent w.wq w.index with
  | some e => e.raw
  | none => 0

/-- Beeline's pending count moves with its PEAK (R275). -/
def State.setPending (s : State) (n : Nat) : State :=
  let s := s.p BEELINE.PENDING.COUNT n
  if s.g BEELINE.PENDING.PEAK < n then s.p BEELINE.PENDING.PEAK n else s

/-- A timed entry gives back its pending entry and its unit of BEELINE_USED, once (R275). -/
def State.leaveBeeline (s : State) (k : Nat) : State :=
  match (s.pkt k).work with
  | some w =>
    if w.pend then
      let i := s.wqInst w.wq
      let s := s.modPkt k (fun p => { p with work := some { w with pend := false } })
      ((s.subRef i IR.beelineUsed 1).subRef i IR.refBeeline 1).setPending (s.g BEELINE.PENDING.COUNT - 1)
    else s
  | none => s

/-- The NET_TX entry of a packet completes (R25, R174, R175): per-type flags, timestamp in ns, frame bytes
sent, rule version, and byte 27. -/
def State.txComplete (s : State) (k status flags ts len ver b27 : Nat) : State :=
  match (s.pkt k).work with
  | none => s
  | some w =>
    let s := s.leaveBeeline k
    let tag := s.entTag w.wq w.index
    let sol := s.entSolicit w.wq w.index
    let s := (s.endSender k).modPkt k (fun p => { p with work := none })
    s.complete w.wq w.index ⟨tag, status, sol, flags, ts, leBytes 2 len ++ leBytes 1 (ver % 256) ++ leBytes 1 b27, []⟩

/-- A packet that is neither sent nor delivered: its entry completes OK with DISCARDED, and its descriptor
goes (R25). -/
def State.discard (s : State) (d : Nat) : State :=
  let v := s.desc d
  let s := if v.main then s.txComplete v.pkt stOk 4 s.ns 0 v.ver 0 else s
  s.releaseDesc d

/-- The same with another status: a class action, a seal or a session failure. -/
def State.discardAs (s : State) (d status : Nat) : State :=
  let v := s.desc d
  let s := if v.main then s.txComplete v.pkt status 0 s.ns 0 v.ver 0 else s
  s.releaseDesc d

/-- A discard for an instance on a sealed link (R117): the sender of a single-destination packet reads
SEALED. -/
def State.sealDiscard (s : State) (d i : Nat) : State :=
  (s.inc (HOSTLINK.SEALED_DISCARD.COUNT (s.linkOf i))).discardAs d stSealed

end Sys2Proof.Machine
end

