-- ==== Sys2Proof/Machine/Edit.lean ====
section
/-! DEFINITION. Edits of a packet by action words (R233, R237): fields, addresses, tags, decapsulation and
encapsulation, with the checksums they keep. A packet is its bytes with the record of its headers. -/

namespace Sys2Proof.Machine

/-! Checksums. -/

/-- The ones'-complement complement of 16 bits. -/
def not16 (n : Nat) : Nat := 65535 - n % 65536
def fold16 (n : Nat) : Nat := let a := n % 65536 + n / 65536; a % 65536 + a / 65536

/-- RFC 1624: a checksum after words summing to `m` were replaced by words summing to `m'`. -/
def csumUpd (hc m m' : Nat) : Nat := not16 (fold16 (fold16 (not16 hc + not16 m) + m'))

/-- The checksum field at `co` follows the change of a packet from `f` to `g` in bytes [a, a + n), counted
in words from `base`. -/
def csumFix (f g : Bytes) (base co a n : Nat) : Bytes :=
  let a' := base + (a - base) / 2 * 2
  let n' := (a + n - a' + 1) / 2 * 2
  overlay g co (beBytes 2 (csumUpd (beAt g co 2) (onesSum (slice f a' n')) (onesSum (slice g a' n'))))

/-- Where a stack's IPv4 header lies. -/
def ip4Off (l : List (Nat × Nat)) : Option Nat := match ipOf l with
  | some ((0x07, o), _) => some o
  | _ => none

/-- Where the TCP or UDP checksum of a stack lies, with its header's offset and whether it is UDP's. -/
def l4Csum (l : List (Nat × Nat)) : Option (Nat × Nat × Bool) := match l4Of l with
  | some (0x0D, o) => some (o + 16, o, false)
  | some (0x0E, o) => some (o + 6, o, true)
  | _ => none

/-- The IPv4 header checksum follows a change inside the header. -/
def fixIp4 (l : List (Nat × Nat)) (f g : Bytes) (a n : Nat) : Bytes := match ip4Off l with
  | some o => csumFix f g o (o + 10) a n
  | none => g

/-- The TCP or UDP checksum follows a change of bytes that it covers; a zero UDP checksum over IPv4 stays
zero, and one that becomes zero is sent as 0xFFFF. -/
def fixL4 (l : List (Nat × Nat)) (f g : Bytes) (base a n : Nat) : Bytes := match l4Csum l with
  | some (co, _, udp) =>
    if g.length < co + 2 then g
    else if udp && (ip4Off l).isSome && beAt g co 2 == 0 then g
    else
      let h := csumFix f g base co a n
      if udp && beAt h co 2 == 0 then overlay h co [0xFF, 0xFF] else h
  | none => g

/-- The headers of the stack that an O_ or I_ field names. -/
def Desc.stack (v : Desc) (id : Nat) : List (Nat × Nat) := if 0x30 ≤ id then v.prec.inner else v.prec.outer

def Desc.setBytes (v : Desc) (f : Bytes) : Desc :=
  { v with bytes := f, prec := { v.prec with frameLen := f.length } }

/-- A field is written with its checksums; `none` where it is absent or not writable (SET_FIELD). -/
def Desc.setField (v : Desc) (id val : Nat) : Option Desc :=
  let o := if 0x30 ≤ id then id - 0x20 else id
  let writable := id == 0x21 || o == 0x10 || o == 0x11 || o == 0x13 || o == 0x14 || o == 0x19 || o == 0x1A ||
    o == 0x1B || o == 0x1C
  if !writable then none
  else match fieldLoc v.bytes v.prec id with
  | none => none
  | some l =>
    if v.bytes.length < l.off + l.nb then none
    else
      let f := v.bytes
      let g := l.write f (if o = 0x19 then setBits (l.read f) 7 2 (val / 4) else val % 2 ^ l.w)
      let st := v.stack id
      let g := if o = 0x19 ∨ o = 0x1A then fixIp4 st f g l.off l.nb
        else if o = 0x1B ∨ o = 0x1C then fixL4 st f g l.off l.off l.nb else g
      some (v.setBytes g)

/-- An address is written with its checksums (SET_ADDR): 16 bytes, an IPv4 one mapped. (DESIGN CHOICE, unsafe: assumption 160) -/
def Desc.setAddr (v : Desc) (id : Nat) (a : Bytes) : Option Desc :=
  match addrLoc v.prec id with
  | none => none
  | some (o, n) =>
    let mapped := beNat (a.take 12) == 0xFFFF
    if v.bytes.length < o + n then none
    else if (n == 4) != mapped then none
    else
      let f := v.bytes
      let g := overlay f o (if n = 4 then a.drop 12 else a)
      let st := v.stack id
      let g := if n = 4 then fixIp4 st f g o n else g
      some (v.setBytes (fixL4 st f g o o n))

/-- The TTL or Hop Limit is decremented; `none` where it is absent, `some none` where it was 1 or less. -/
def Desc.decTtl (v : Desc) (inner : Bool) : Option (Option Desc) :=
  let id := if inner then 0x3A else 0x1A
  match keyField v id with
  | none => none
  | some t => if t ≤ 1 then some none else (v.setField id (t - 1)).map some

/-- The DSCP of the outer stack. -/
def Desc.setDscp (v : Desc) (d : Nat) : Option Desc := v.setField 0x19 (d * 4)

/-- The ECN field of a stack is set to CE (R233, R260). -/
def Desc.setCe (v : Desc) (id : Nat) : Desc :=
  match fieldLoc v.bytes v.prec id with
  | some l =>
    if v.bytes.length < l.off + l.nb then v
    else
      let g := l.write v.bytes (setBits (l.read v.bytes) 1 0 3)
      v.setBytes (fixIp4 (v.stack id) v.bytes g l.off l.nb)
  | none => v

/-! Structure. -/

/-- The header list of a packet with its indices (R192, R198). -/
def mkRec (r : PRec) (hdrs : List (Nat × Nat)) (tun : Nat) (payOff len : Nat) : PRec :=
  let outer := if tun = 0xFF then hdrs else hdrs.take tun
  let inner := if tun = 0xFF then [] else hdrs.drop tun
  let ix (l : List (Nat × Nat)) (base : Nat) (p : Nat → Bool) : Nat :=
    match findAt (fun (e : Nat × Nat) => p e.1) l with
    | some (i, _) => base + i
    | none => 0xFF
  let l3 (h : Nat) : Bool := h == 0x06 || h == 0x07 || h == 0x08
  { r with hdrs := hdrs, tun := tun, payOff := payOff, frameLen := len,
           ol3 := ix outer 0 l3, ol4 := ix outer 0 isL4, il2 := ix inner tun (fun h => h == 0x01),
           il3 := ix inner tun l3, il4 := ix inner tun isL4 }

/-- VLAN_PUSH after the current outer MACs; `none` with two tags there already. -/
def Desc.vlanPush (v : Desc) (tpid tci : Nat) : Option Desc :=
  let r := v.prec
  if 2 ≤ (vlansOf r.outer).length then none
  else
    let f := v.bytes.take 12 ++ beBytes 2 tpid ++ beBytes 2 tci ++ v.bytes.drop 12
    let hdrs := (0x01, 0) :: (0x02, 14) :: (r.hdrs.drop 1).map (fun e => (e.1, e.2 + 4))
    let tun := if r.tun = 0xFF then 0xFF else r.tun + 1
    some { v with bytes := f, prec := mkRec r hdrs tun (r.payOff + 4) f.length }

/-- VLAN_POP of the outermost tag, two bytes of which stand before its recorded offset; `none` with none. -/
def Desc.vlanPop (v : Desc) : Option Desc :=
  let r := v.prec
  match vlansOf r.outer with
  | [] => none
  | (_, o) :: _ =>
    let f := v.bytes.take (o - 2) ++ v.bytes.drop (o + 2)
    let hdrs := (r.hdrs.filter (fun e => e.2 != o)).map (fun e => (e.1, if o < e.2 then e.2 - 4 else e.2))
    let tun := if r.tun = 0xFF then 0xFF else r.tun - 1
    some { v with bytes := f, prec := mkRec r hdrs tun (r.payOff - 4) f.length }

/-- DECAP: `none` with no tunnel header, `some none` where neither an inner ETH nor an inner IP follows. -/
def Desc.decap (v : Desc) : Option (Option Desc) :=
  let r := v.prec
  if r.tun = 0xFF then none
  else
    let ce := keyField v 0x19
    let cut (from_ to_ : Nat) (hdrs : List (Nat × Nat)) (f : Bytes) : Desc :=
      let f := f.take from_ ++ f.drop to_
      { v with bytes := f, prec := mkRec r hdrs 0xFF (r.payOff - (to_ - from_)) f.length }
    let res : Option Desc :=
      match r.hdrs[r.il2]? with
      | some (_, o) => some (cut 0 o ((r.hdrs.drop r.il2).map (fun e => (e.1, e.2 - o))) v.bytes)
      | none => match r.hdrs[r.il3]? with
        | some (h, o) =>
          if h = 0x06 then none
          else
            let keep := (r.hdrs.take 1) ++ topVlans r.outer
            let e := 14 + 4 * (keep.length - 1)
            let f := overlay v.bytes (e - 2) (beBytes 2 (if h = 0x07 then 0x0800 else 0x86DD))
            some (cut e o (keep ++ (r.hdrs.drop r.il3).map (fun x => (x.1, x.2 - (o - e)))) f)
        | none => none
    some (res.map (fun w => match ce, keyField w 0x19 with
      | some a, some b => if a % 4 = 3 ∧ (b % 4 = 1 ∨ b % 4 = 2) then w.setCe 0x19 else w
      | _, _ => w))

/-! Templates (R236, R237). -/

namespace TM
def len : RF := byF 112 112
def kind : RF := byF 113 113
def l3 : RF := byF 114 114
def l4 : RF := byF 115 115
def tun : RF := byF 116 116
def entropy : RF := biF 117 0 0
def udpCsum : RF := biF 117 1 1
def zero6 : RF := biF 117 2 2
def copyTos : RF := biF 117 3 3
def copyTtl : RF := biF 117 4 4
def flags : RF := byF 117 117
def owner : RF := byF 118 119
def refs : RF := byF 120 123
end TM

/-- A template as it is kept: its reserved bits and REFS are zero (R9). -/
def tmKept (t : BitVec 1024) : BitVec 1024 := clearF (clearF t 943 941) 1023 960

def tmHdr (t : BitVec 1024) : Bytes := (recBytes t).take (rget t TM.len)

/-- Length of a GRE header with its options. -/
def greLen (b : Nat) : Nat := 4 + 4 * b2n (bit b 7) + 4 * b2n (bit b 5) + 4 * b2n (bit b 4)

/-- The check of R236 but for the owner and the quota: the header of each KIND is held to the parser's checks of it (R471),
and stands where its UDP header, if KIND has one, puts it. (DEDUCED, unsafe: assumption 145) -/
def tmOk (t : BitVec 1024) : Bool :=
  let n := rget t TM.len
  let h := tmHdr t
  let k := rget t TM.kind
  let l3 := rget t TM.l3
  let l4 := rget t TM.l4
  let u := rget t TM.tun
  let b := byteAt h u
  decide (14 ≤ n) && decide (n ≤ 112) && decide (1 ≤ k) && decide (k ≤ 7) &&
  (decide (l3 < n) || (l3 == 0xFF && k == 5)) && (decide (l4 < n) || l4 == 0xFF) && decide (u < n) &&
  (match k with
   | 1 => decide (u + 8 ≤ n) && bit b 3 && l4 + 8 == u
   | 2 => decide (u + 8 + b % 64 * 4 ≤ n) && b / 64 == 0 && l4 + 8 == u
   | 3 => decide (u + greLen b ≤ n) && b &&& 0x5F == 0 && byteAt h (u + 1) == 0 && l4 == u
   | 4 => decide (u + greLen b ≤ n) && b &&& 0x5F == 0 && byteAt h (u + 1) == 0 && l4 == u && bit b 5 &&
       beAt h (u + 2) 2 == 0x6558
   | 5 => decide (u + 4 ≤ n)
   | 6 => decide (u + 4 ≤ n) && decide (l4 + 8 ≤ u) && (u - (l4 + 8)) % 4 == 0
   | _ => u == l3 && ((b / 16 == 4 && decide (5 ≤ b % 16) && decide (u + b % 16 * 4 ≤ n)) ||
       (b / 16 == 6 && decide (u + 40 ≤ n))))

/-- VLAN tags of a template's Ethernet header. -/
def tmVlans (h : Bytes) : Nat → Nat → List (Nat × Nat)
  | 0, _ => []
  | n + 1, o => if beAt h o 2 = 0x8100 ∨ beAt h o 2 = 0x88A8 then (0x02, o + 2) :: tmVlans h n (o + 4) else []

/-- Label headers from an offset to the last one. -/
def labelsTo (o u : Nat) : List (Nat × Nat) :=
  (List.range ((u + 4 - o) / 4)).map (fun i => (0x04, o + 4 * i))

/-- The headers of a template, and how many of them stand before its tunnel header. -/
def tmHeaders (t : BitVec 1024) : List (Nat × Nat) × Nat :=
  let h := tmHdr t
  let k := rget t TM.kind
  let l3 := rget t TM.l3
  let l4 := rget t TM.l4
  let u := rget t TM.tun
  let eth := (0x01, 0) :: tmVlans h 2 12
  let ip := if k = 5 then [] else [(if byteAt h l3 / 16 = 6 then 0x08 else 0x07, l3)]
  match k with
  | 1 => (eth ++ ip ++ [(0x0E, l4), (0x13, u)], eth.length + 2)
  | 2 => (eth ++ ip ++ [(0x0E, l4), (0x14, u)], eth.length + 2)
  | 3 => (eth ++ ip ++ [(0x12, u)], eth.length + 1)
  | 4 => (eth ++ ip ++ [(0x12, u)], eth.length + 1)
  | 5 => let ls := labelsTo (14 + 4 * (eth.length - 1)) u
         (eth ++ ls, eth.length + (ls.length - 1))
  | 6 => (eth ++ ip ++ [(0x0E, l4)] ++ labelsTo (l4 + 8) u, eth.length + 2)
  | _ => (eth ++ ip, eth.length + 1)

/-- The IPv4 header checksum at an offset, computed anew. -/
def sumIp4 (f : Bytes) (o : Nat) : Bytes :=
  let g := overlay f (o + 10) [0, 0]
  overlay g (o + 10) (beBytes 2 (not16 (onesSum (slice g o (byteAt g o % 16 * 4)))))

/-- The TCP or UDP checksum of a header at `o` of `n` bytes behind an IP header at `io`, computed anew; a
UDP one that is zero is sent as 0xFFFF. -/
def sumL4 (f : Bytes) (six : Bool) (io o n co proto : Nat) : Bytes :=
  let g := overlay f co [0, 0]
  let pseudo := if six then slice g (io + 8) 32 ++ beBytes 4 n ++ [0, 0, 0, BitVec.ofNat 8 proto]
    else slice g (io + 12) 8 ++ [0, BitVec.ofNat 8 proto] ++ beBytes 2 n
  let c := not16 (onesSum (pseudo ++ slice g o n))
  overlay g co (beBytes 2 (if c = 0 ∧ proto = 17 then 0xFFFF else c))

/-- ENCAP (R237): the packet with a template prepended and its fields filled; `none` for KIND 7 over a packet that
has an Ethernet header, which the former packet brings into the inner stack. (DESIGN CHOICE, unsafe: assumption 159) -/
def Desc.encap (v : Desc) (t : BitVec 1024) (override : Bool) (tunId : Nat) : Option (Option Desc) :=
  let h := tmHdr t
  let k := rget t TM.kind
  let r := v.prec
  let n := h.length
  let ip := ipOf r.outer
  if k = 7 ∧ r.hdrs.any (fun e => e.1 == 0x01) then none
  else if k = 7 ∧ ip.isNone then some none
  else if n = 0 then some (some v)
  else
    let f := h ++ v.bytes
    let len := f.length
    let l3 := rget t TM.l3
    let l4 := rget t TM.l4
    let u := rget t TM.tun
    let six := byteAt h l3 / 16 == 6
    let tos := keyField v 0x19
    let ttl := keyField v 0x1A
    -- the outer L3 header
    let f := if k = 5 then f
      else
        let f := if six then overlay f (l3 + 4) (beBytes 2 (len - l3 - 40)) else overlay f (l3 + 2) (beBytes 2 (len - l3))
        let f := if k = 7 then overlay f (l3 + (if six then 6 else 9))
            [if (match ip with
                 | some ((0x08, _), _) => true
                 | _ => false) then 41 else 4] else f
        let f := match tos with
          | some x => if rget t TM.copyTos = 1 then
              (if six then (⟨l3, 2, 4, 8⟩ : Loc).write f x else overlay f (l3 + 1) (beBytes 1 x)) else f
          | none => f
        match ttl with
          | some x => if rget t TM.copyTtl = 1 then overlay f (l3 + (if six then 7 else 8)) (beBytes 1 x) else f
          | none => f
    -- labels
    let ls := (tmHeaders t).1.filter (fun e => e.1 == 0x04)
    let f := ls.foldl (fun f e =>
      let w := byteAt f (e.2 + 2)
      let f := overlay f (e.2 + 2) (beBytes 1 (w / 2 * 2 + (if e.2 = u then 1 else 0)))
      match ttl with
      | some x => if rget t TM.copyTtl = 1 then overlay f (e.2 + 3) (beBytes 1 x) else f
      | none => f) f
    -- the tunnel identifier and the entropy
    let gk := u + 4 + (if bit (byteAt h u) 7 then 4 else 0)
    let f := if !override then f else match k with
      | 1 => overlay f (u + 4) (beBytes 3 tunId)
      | 2 => overlay f (u + 4) (beBytes 3 tunId)
      | 3 => if bit (byteAt h u) 5 then overlay f gk (beBytes 4 tunId) else f
      | 4 => overlay f gk (beBytes 3 tunId)
      | 7 => f
      | _ => (⟨u, 3, 4, 20⟩ : Loc).write f (tunId % 2 ^ 20)
    let f := if k = 4 ∧ rget t TM.entropy = 1 then overlay f (gk + 3) (beBytes 1 (v.hash % 256)) else f
    let udp := k == 1 || k == 2 || k == 6
    let f := if udp then
        let f := overlay f (l4 + 4) (beBytes 2 (len - l4))
        let f := if rget t TM.entropy = 1 then overlay f l4 (beBytes 2 (0xC000 + v.hash % 16384)) else f
        let want := if six then rget t TM.zero6 = 0 else rget t TM.udpCsum = 1
        if want then sumL4 f six l3 l4 (len - l4) (l4 + 6) 17 else overlay f (l4 + 6) [0, 0]
      else f
    let f := if k ≠ 5 ∧ six = false then sumIp4 f l3 else f
    let (hs, tun) := tmHeaders t
    let inner := r.hdrs.map (fun e => (e.1, e.2 + n))
    some (some { v with bytes := f, ipid := decide (k ≠ 5) && !six,
                        prec := mkRec r (hs ++ inner) tun (r.payOff + n) len })

/-- The IPv4 Identification of an encapsulated packet, from its egress port's counter (R237). -/
def State.fillIpId (s : State) (d p : Nat) : State :=
  let v := s.desc d
  if !v.ipid then s
  else match ip4Off v.prec.outer with
  | none => s.modDesc d (fun v => { v with ipid := false })
  | some o =>
    let i := tget 0 s.ipId p
    let f := v.bytes
    let g := overlay f (o + 4) (beBytes 2 i)
    let s := s.setDesc d { v.setBytes (csumFix f g o (o + 10) (o + 4) 2) with ipid := false }
    { s with ipId := tset 0 s.ipId p ((i + 1) % 65536) }

/-! Checksum insertion of a NET_TX entry (R171). -/

/-- The innermost level that a record locates: its L3 and L4 headers. -/
def PRec.innermost (r : PRec) : List (Nat × Nat) := if r.tun = 0xFF then r.outer else r.inner

/-- Whether the packet is a fragment at its innermost level. -/
def isFrag (f : Bytes) (l : List (Nat × Nat)) : Bool := match ipOf l with
  | some ((0x07, o), _) => beAt f (o + 6) 2 % 0x4000 != 0
  | some (_, r) => (r.takeWhile (fun e => isExt e.1)).any (fun e => e.1 == 0x0B)
  | none => false

/-- (DEDUCED, unsafe: assumption 73) -/
def insertCsums (f : Bytes) (r : PRec) (ip4 l4 : Bool) : Bytes :=
  let l := r.innermost
  if r.cls ≠ 0 ∨ isFrag f l then f
  else
    let g := if l4 then
        match l4Csum l, ipOf l with
        | some (co, o, udp), some ((h, io), _) =>
          let fin := if h = 0x07 then io + beAt f (io + 2) 2 else io + 40 + beAt f (io + 4) 2
          sumL4 f (h == 0x08) io o (if udp then beAt f (o + 4) 2 else fin - o) co (if udp then 17 else 6)
        | _, _ => f
      else f
    if ip4 then match ip4Off l with
      | some o => sumIp4 g o
      | none => g
    else g

end Sys2Proof.Machine
end

