-- ==== Sys2Proof/Machine/Aes.lean ====
section
/-! DEFINITION. AES (FIPS 197) and the modes that the shipped mode programs compute (R286–R289): GCM, GMAC,
CTR, CMAC and XTS with ciphertext stealing, over byte lists. -/

namespace Sys2Proof.Machine.Aes

/-- Multiplication by x in GF(2^8). -/
def xtime (b : Byte) : Byte := if b.toNat < 128 then b <<< 1 else (b <<< 1) ^^^ 0x1B

/-- The product in GF(2^8), by the bits of the second factor. -/
def mulBits : Nat → Byte → Nat → Byte
  | 0, _, _ => 0
  | n + 1, a, k => (if k % 2 = 1 then a else 0) ^^^ mulBits n (xtime a) (k / 2)
def mul (a b : Byte) : Byte := mulBits 8 a b.toNat

/-- The inverse in GF(2^8): the 254th power; 0 for 0. -/
def inv (a : Byte) : Byte :=
  let a2 := mul a a
  let a4 := mul a2 a2
  let a8 := mul a4 a4
  let a16 := mul a8 a8
  let a32 := mul a16 a16
  let a64 := mul a32 a32
  mul (mul a64 a64) (mul (mul a64 a32) (mul (mul a16 a8) (mul a4 a2)))

def rotl (b : Byte) (n : Nat) : Byte := (b <<< n) ||| (b >>> (8 - n))

def sub (b : Byte) : Byte :=
  let i := inv b
  i ^^^ rotl i 1 ^^^ rotl i 2 ^^^ rotl i 3 ^^^ rotl i 4 ^^^ 0x63

def invSub (b : Byte) : Byte := inv (rotl b 1 ^^^ rotl b 3 ^^^ rotl b 6 ^^^ 0x05)

/-- Bytes combined one by one; the shorter list ends the result. -/
def xor (a b : Bytes) : Bytes := List.zipWith (· ^^^ ·) a b

/-- The round constant of a key expansion step. -/
def rcon : Nat → Byte
  | 0 => 1
  | n + 1 => xtime (rcon n)

/-- The words of a key expansion (nk words of key), newest first. -/
def expandStep (nk : Nat) (ws : List Bytes) : List Bytes :=
  let i := ws.length
  let t := ws.headD []
  let t := if i % nk = 0 then xor ((t.drop 1 ++ t.take 1).map sub) [rcon (i / nk - 1), 0, 0, 0]
    else if 6 < nk ∧ i % nk = 4 then t.map sub else t
  xor (ws.getD (nk - 1) []) t :: ws

def expandN (nk : Nat) : Nat → List Bytes → List Bytes
  | 0, ws => ws
  | n + 1, ws => expandN nk n (expandStep nk ws)

/-- A list cut into pieces of n. -/
def chunksN (n : Nat) : Nat → Bytes → List Bytes
  | 0, _ => []
  | k + 1, l => if l.isEmpty then [] else l.take n :: chunksN n k (l.drop n)
def chunks (n : Nat) (l : Bytes) : List Bytes := chunksN n (l.length + 1) l

/-- The round keys of a 16- or 32-byte key. -/
def roundKeys (key : Bytes) : List Bytes :=
  let nk := key.length / 4
  chunks 16 ((expandN nk (4 * (nk + 7) - nk) (chunks 4 key).reverse).reverse.flatten)

/-- ShiftRows and its inverse: byte r + 4c comes from column c ± r. -/
def shiftRows (s : Bytes) : Bytes :=
  (List.range 16).map (fun i => s.getD ((i % 4) + 4 * ((i / 4 + i % 4) % 4)) 0)
def invShiftRows (s : Bytes) : Bytes :=
  (List.range 16).map (fun i => s.getD ((i % 4) + 4 * ((i / 4 + 4 - i % 4) % 4)) 0)

def mixWith (k0 k1 k2 k3 : Byte) (s : Bytes) : Bytes :=
  (List.range 16).map (fun i =>
    let c := i / 4 * 4
    let at_ (j : Nat) : Byte := s.getD (c + (i + j) % 4) 0
    mul k0 (at_ 0) ^^^ mul k1 (at_ 1) ^^^ mul k2 (at_ 2) ^^^ mul k3 (at_ 3))
def mixColumns : Bytes → Bytes := mixWith 2 3 1 1
def invMixColumns : Bytes → Bytes := mixWith 14 11 13 9

def encRounds : List Bytes → Bytes → Bytes
  | [], s => s
  | [k], s => xor (shiftRows (s.map sub)) k
  | k :: r, s => encRounds r (xor (mixColumns (shiftRows (s.map sub))) k)

/-- One block enciphered under round keys. -/
def encrypt (ks : List Bytes) (b : Bytes) : Bytes := encRounds (ks.drop 1) (xor b (ks.headD []))

def decRounds : List Bytes → Bytes → Bytes
  | [], s => s
  | [k], s => xor ((invShiftRows s).map invSub) k
  | k :: r, s => decRounds r (invMixColumns (xor ((invShiftRows s).map invSub) k))

/-- One block deciphered under round keys. -/
def decrypt (ks : List Bytes) (b : Bytes) : Bytes :=
  let r := ks.reverse
  decRounds (r.drop 1) (xor b (r.headD []))

/-! Counter mode. -/

/-- A 16-byte counter block with its last 32 bits increased by n. -/
def addCtr (b : Bytes) (n : Nat) : Bytes := b.take 12 ++ beBytes 4 (beNat (b.drop 12) + n)

/-- Data combined with the key stream that starts at a counter block. -/
def ctrN (ks : List Bytes) (ctr : Bytes) : Nat → Nat → Bytes → Bytes
  | 0, _, _ => []
  | k + 1, i, d =>
    if d.isEmpty then [] else xor (d.take 16) (encrypt ks (addCtr ctr i)) ++ ctrN ks ctr k (i + 1) (d.drop 16)
def ctr (ks : List Bytes) (c d : Bytes) : Bytes := ctrN ks c (d.length / 16 + 1) 0 d

/-! GCM (SP 800-38D). -/

/-- The product in GF(2^128) of GHASH: blocks as integers whose top bit is the coefficient of 1. -/
def gmulN : Nat → Nat → Nat → Nat → Nat
  | 0, _, _, z => z
  | n + 1, x, v, z =>
    gmulN n x (if v % 2 = 1 then (v / 2) ^^^ (0xE1 * 2 ^ 120) else v / 2) (if bit x n then z ^^^ v else z)
def gmul (x h : Nat) : Nat := gmulN 128 x h 0

def ghash (h : Nat) (d : Bytes) : Nat :=
  (chunks 16 d).foldl (fun y b => gmul (y ^^^ beNat (padTo 16 b)) h) 0

def pad16 (d : Bytes) : Bytes := d ++ List.replicate ((16 - d.length % 16) % 16) 0

/-- The full tag of additional data and ciphertext. -/
def gcmTag (ks : List Bytes) (nonce aad c : Bytes) : Bytes :=
  let h := beNat (encrypt ks (List.replicate 16 0))
  let s := ghash h (pad16 aad ++ pad16 c ++ beBytes 8 (8 * aad.length) ++ beBytes 8 (8 * c.length))
  xor (beBytes 16 s) (encrypt ks (nonce ++ beBytes 4 1))

def gcmCrypt (ks : List Bytes) (nonce d : Bytes) : Bytes := ctr ks (nonce ++ beBytes 4 2) d

/-! CMAC (SP 800-38B). -/

def cmacDouble (b : Bytes) : Bytes :=
  let n := beNat b
  beBytes 16 (n * 2 % 2 ^ 128 ^^^ (if 2 ^ 127 ≤ n then 0x87 else 0))

def cmac (ks : List Bytes) (d : Bytes) : Bytes :=
  let k1 := cmacDouble (encrypt ks (List.replicate 16 0))
  let k2 := cmacDouble k1
  let bs := if d.isEmpty then [[]] else chunks 16 d
  let last := bs.getLastD []
  let fin := if last.length = 16 then xor last k1
    else xor (last ++ [0x80] ++ List.replicate (15 - last.length) 0) k2
  let y := bs.dropLast.foldl (fun y b => encrypt ks (xor y b)) (List.replicate 16 0)
  encrypt ks (xor y fin)

/-! XTS (IEEE 1619). -/

/-- The tweak of the next block: multiplication by x, little-endian. -/
def xtsNext (t : Bytes) : Bytes :=
  let n := leNat t
  leBytes 16 (n * 2 % 2 ^ 128 ^^^ (if 2 ^ 127 ≤ n then 0x87 else 0))

def xtsBlock (f : Bytes → Bytes) (t b : Bytes) : Bytes := xor (f (xor b t)) t

/-- Whole blocks first; a short last block takes part of its neighbour. `dec` swaps the last two tweaks. -/
def xtsN (f : Bytes → Bytes) (dec : Bool) : Nat → Bytes → Bytes → Bytes
  | 0, _, _ => []
  | k + 1, t, d =>
    if d.isEmpty then []
    else if d.length < 32 ∧ 16 < d.length then
      let m := d.length - 16
      let t2 := xtsNext t
      let cc := xtsBlock f (if dec then t2 else t) (d.take 16)
      xtsBlock f (if dec then t else t2) (d.drop 16 ++ cc.drop m) ++ cc.take m
    else xtsBlock f t (d.take 16) ++ xtsN f dec k (xtsNext t) (d.drop 16)

def xtsEnc (key1 key2 tweak d : Bytes) : Bytes :=
  let ks := roundKeys key1
  xtsN (encrypt ks) false (d.length / 16 + 1) (encrypt (roundKeys key2) tweak) d
def xtsDec (key1 key2 tweak d : Bytes) : Bytes :=
  let ks := roundKeys key1
  xtsN (decrypt ks) true (d.length / 16 + 1) (encrypt (roundKeys key2) tweak) d

/-! The key wrap of RFC 3394. -/

/-- One round over the 8-byte registers, from step `t` on. -/
def wrapRound (ks : List Bytes) : Nat → Bytes → List Bytes → Bytes × List Bytes
  | _, a, [] => (a, [])
  | t, a, r :: rest =>
    let b := encrypt ks (a ++ r)
    let x := wrapRound ks (t + 1) (xor (b.take 8) (beBytes 8 t)) rest
    (x.1, b.drop 8 :: x.2)

/-- The wrap of whole 8-byte registers under a key. -/
def wrap (key plain : Bytes) : Bytes :=
  let ks := roundKeys key
  let rs := chunks 8 plain
  let x := (List.range 6).foldl (fun x j => wrapRound ks (rs.length * j + 1) x.1 x.2)
    (List.replicate 8 (0xA6 : Byte), rs)
  x.1 ++ x.2.flatten

end Sys2Proof.Machine.Aes
end

