-- ==== Sys2Proof/Machine/ScarabCore.lean ====
section
/-! DEFINITION. SCARAB's key slots, generations and operations (R286–R302): what every client of Scarab
shares. -/

namespace Sys2Proof.Machine

namespace KS
def state : RF := byF 0 0
def use : RF := byF 1 1
def mode : RF := byF 2 2
def enc : RF := biF 3 0 0
def dec : RF := biF 3 1 1
def aes256 : RF := biF 3 2 2
def extSeq : RF := biF 3 3 3
def conf : RF := biF 3 4 4
def udp : RF := biF 3 5 5
def sc : RF := biF 3 6 6
def flags : RF := byF 3 3
def owner : RF := byF 4 5
def tag : RF := byF 6 6
def gen : RF := byF 8 11
def spi : RF := byF 12 15
def count : RF := byF 16 23
def soft : RF := byF 24 31
def hard : RF := byF 32 39
def window : RF := byF 40 43
def ports : RF := byF 44 47
def sci : RF := byF 48 55
def tlsBase : RF := byF 56 63
def key1 : RF := byF 64 95
def key2 : RF := byF 96 127
end KS

def slotMax : Nat := 1048576
def State.slotRec (s : State) (n : Nat) : BitVec 1024 := tget 0 s.slots n
def State.setSlot (s : State) (n : Nat) (r : BitVec 1024) : State := { s with slots := tset 0 s.slots n r }
def State.kg (s : State) (n : Nat) (f : RF) : Nat := rget (s.slotRec n) f
def State.kp (s : State) (n : Nat) (f : RF) (v : Nat) : State := s.setSlot n (rput (s.slotRec n) f v)
def State.slotState (s : State) (n : Nat) : Nat := s.kg n KS.state
def State.alarmed (s : State) : Bool := s.gb SCARAB.STATE.ALARMED

/-- What HBM holds for a slot that is not hot: the RFC 3394 wrap of its record under the KEK (R292). No actor can read
it; the model keeps the records themselves, which no reset of the KEK leaves usable. (DESIGN CHOICE, unsafe: assumption 141) -/
def State.slotWrap (s : State) (n : Nat) : Bytes := Aes.wrap s.kek (recBytes (s.slotRec n))

/-- The key of a slot's material, and its second key or salt. -/
def matKey (m : BitVec 1024) : Bytes :=
  leBytes (if rget m KS.aes256 = 1 then 32 else 16) (rget m KS.key1)
def matKey2 (m : BitVec 1024) : Bytes :=
  leBytes (if rget m KS.aes256 = 1 then 32 else 16) (rget m KS.key2)
def matSalt (m : BitVec 1024) (n : Nat) : Bytes := leBytes n (rget m KS.key2)
def matRound (m : BitVec 1024) : List Bytes := Aes.roundKeys (matKey m)

/-! Operations. -/

/-- Operations in flight on a slot's current generation, and the draining generations (R294). -/
def State.slotOps (s : State) (n : Nat) : List (Nat × SOp) :=
  s.sops.filter (fun e => e.2.slot == n && e.2.seq.isSome)
def State.slotCur (s : State) (n : Nat) : Nat :=
  ((s.slotOps n).filter (fun e => e.2.gen == s.kg n KS.gen)).length
def State.slotOld (s : State) (n : Nat) : Nat := (s.slotOps n).length - s.slotCur n
def State.draining (s : State) (n : Nat) : Nat :=
  ((((s.slotOps n).map (fun e => e.2.gen)).filter (fun g => g != s.kg n KS.gen)).eraseDups).length
/-- Whether superseding the current generation would leave three generations draining. -/
def State.drainFull (s : State) (n : Nat) : Bool := s.slotCur n != 0 && decide (2 ≤ s.draining n)

/-- The sequencer that a new operation goes to (R288): one that takes operations, with the fewest queued
blocks, the lowest-numbered among equals. A sequencer holds up to 64 operations. -/
def State.pickSeq (s : State) : Option Nat :=
  let load (q : Nat) : Nat := s.sops.foldl (fun a e => if e.2.seq = some q then a + e.2.blocks else a) 0
  let num (q : Nat) : Nat := (s.sops.filter (fun e => e.2.seq == some q)).length
  let ok (q : Nat) : Bool :=
    !(s.gb SCARAB.PROG_STAT.ROLLING && s.g SCARAB.PROG_STAT.SEQ == q) && decide (num q < 64)
  (List.range 20).foldl (fun b q =>
    if ok q then match b with
      | none => some q
      | some p => if load q < load p then some q else b
    else b) none

/-- A new value of a slot's COUNT. On ENC use SOFT_LIMIT is reported once for each generation when COUNT reaches SOFT,
and the slot becomes EXHAUSTED when it reaches HARD (R297). (DEDUCED, unsafe: assumption 88) -/
def State.setCount (s : State) (n c : Nat) : State :=
  let old := s.kg n KS.count
  let s := s.kp n KS.count c
  if s.kg n KS.enc = 0 then s
  else
    let soft := s.kg n KS.soft
    let s := if old < soft ∧ soft ≤ c ∧ tget 0 s.softSeen n ≠ s.kg n KS.gen + 1 then
        (State.p { s with softSeen := tset 0 s.softSeen n (s.kg n KS.gen + 1) } SCARAB.LIMIT_LOG.SOFT_SLOT n).evt SCARAB.base 10
      else s
    if s.kg n KS.hard ≤ c ∧ s.slotState n = 1 then
      ((s.kp n KS.state 2).p SCARAB.LIMIT_LOG.EXH_SLOT n).evt SCARAB.base 11
    else s

/-- One more invocation of a slot (R297). -/
def State.useCount (s : State) (n : Nat) : State := s.setCount n (s.kg n KS.count + 1)

/-! The word of a session (R233), as an inline operation's request begins. -/

def seSlot (w : Nat) : Nat := bits w 35 16
def seProto (w : Nat) : Nat := bits w 41 40
def seEnc (w : Nat) : Bool := bit w 42
def seRe (w : Nat) : Bool := bit w 43

/-- Whether an operation takes an invocation of its slot: one in the ENC direction that the slot's USE and flags allow
(R297, R305). A TLS transmit takes its record numbers instead. -/
def opCounts (o : SOp) (m : BitVec 1024) : Bool :=
  o.dir == 1 && rget m KS.enc == 1 && (match o.use with
    | .inline _ => rget m KS.use == seProto (leAt o.req 0 8) + 1
    | _ => true)

/-- How an operation that starts now fails, 0 where it does not (R295, R297, R302): in the ENC direction an invocation
must lie below HARD. (DEDUCED, unsafe: assumption 88) -/
def State.startFail (s : State) (o : SOp) : Nat :=
  if o.fail ≠ 0 then o.fail
  else if s.alarmed then stKeyErased
  else if o.slot = slotMax then 0
  else match s.slotState o.slot with
  | 1 => if o.dir ≠ 0 ∧ s.kg o.slot KS.enc = 1 ∧ s.kg o.slot KS.hard ≤ s.kg o.slot KS.count then stNonceExhausted else 0
  | 2 => if o.dir = 0 then 0 else stNonceExhausted
  | _ => stKeyErased

/-- An operation starts on a sequencer: it takes its generation, its material and its COUNT (R294, R297). One
that fails at its start issues no block. (DEDUCED, unsafe: assumption 86) -/
def State.startOp (s : State) (k q : Nat) (o : SOp) : State :=
  let f := s.startFail o
  let m := s.slotRec o.slot
  let o := { o with seq := some q, gen := rget m KS.gen, mat := m, count := rget m KS.count, fail := f, blocks := if f = 0 then o.blocks else 0 }
  let s := { s with sops := tins k o s.sops }
  if f = 0 && opCounts o m then s.useCount o.slot else s

/-- Whether Scarab takes operations: it is in service and its domain is up. -/
def State.scarabUp (s : State) : Bool := s.inService SCARAB.base && s.domUp 9

/-- Key of an operation's transfer to SCARAB among the power transfers (R400). -/
def xferOp (k : Nat) : Nat := 9 * 2 ^ 40 + k

/-- Waiting operations start in order while a sequencer takes them. -/
def State.pumpOps (s : State) : State :=
  if !s.scarabUp then s
  else s.sops.foldl (fun s e =>
    if e.2.seq.isNone then match s.pickSeq with
      | some q => (s.startOp e.1 q e.2).dropXfer 9 (xferOp e.1)
      | none => s
    else s) s

/-- The instance whose SCARAB count an operation raises (R143): of a session, the owner of its slot, else the packet's
own; of a CRYPTO entry, its WQ's; storage parts and Hive calls raise none. -/
def State.opInst (s : State) (use : SUse) (slot inst : Nat) : Nat :=
  match use with
  | .inline _ => if s.slotState slot ≠ 0 ∧ s.kg slot KS.owner < 2048 then s.kg slot KS.owner else inst
  | .entry _ _ => inst
  | _ => 2048

/-- The domain that hands SCARAB an operation. (DEDUCED, unsafe: assumption 144) -/
def SUse.source : SUse → Nat
  | .part _ => 10
  | .call t => 14 + t / 64
  | _ => 1

/-- A new operation: its number. It starts at once where a sequencer takes it; its transfer wakes or waits
for the domain (R402). -/
def State.newOp (s : State) (use : SUse) (slot dir blocks inst : Nat) (req : Bytes) : Nat × State :=
  let k := s.opN + 1
  let inst := s.opInst use slot inst
  let o : SOp := ⟨use, none, dir, slot, 0, 0, 0, 0, blocks, inst, false, req⟩
  let s := ({ s with opN := k, sops := tins k o s.sops }).addRef inst IR.refScarab 1
  match s.transfer use.source 9 (xferOp k) with
  | (.go, s) => (k, s.pumpOps)
  | (_, s) => (k, s)

/-- An operation is over. -/
def State.endOp (s : State) (k : Nat) : State :=
  match s.sops.find? (fun e => e.1 == k) with
  | none => s
  | some (_, o) => ((({ s with sops := tdel s.sops k }).subRef o.inst IR.refScarab 1).dropXfer 9 (xferOp k)).pumpOps

/-- Operations that satisfy a test end with a status instead of a result (R156, R295), the first that they meet. -/
def State.failOps (s : State) (p : SOp → Bool) (status : Nat) : State :=
  { s with sops := s.sops.map (fun e => if p e.2 && e.2.fail == 0 then (e.1, { e.2 with fail := status }) else e) }

/-! Pairs and their masks (R287, R288, R301). -/

/-- Pairs that are not FAULTED. -/
def State.pairsFree (s : State) : List Nat := (List.range 20).filter (fun p => !bit (s.g SCARAB.PAIR_FAULT.FAULTED) p)

/-- An operation with blocks to compute waits while every pair is FAULTED. -/
def State.opWaits (s : State) (o : SOp) : Bool := o.fail == 0 && o.blocks != 0 && s.pairsFree.isEmpty

/-- A pair's mask generator takes a new seed from the DRBG. -/
def State.reseed (s : State) (p : Nat) : State :=
  let (v, s) := s.fresh
  { s with maskSeed := tset 0 s.maskSeed p v, maskClk := tset 0 s.maskClk p (s.edryn.clk + 1) }

/-- Blocks that a pair has computed, which takes a new seed after every 2^20. (DESIGN CHOICE, safe: assumption 85) -/
def State.pairBlocks (s : State) (p n : Nat) : State :=
  let b := tget 0 s.maskBlk p + n
  let s : State := { s with maskBlk := tset 0 s.maskBlk p (b % 2 ^ 20) }
  if 2 ^ 20 ≤ b then s.reseed p else s

/-- The blocks of an operation that ends have been computed. Which pairs took them the spec leaves open: the model
counts them for one pair that is not FAULTED, chosen by a free value. (DESIGN CHOICE, safe: assumption 85) -/
def State.opBlocks (s : State) (o : SOp) : State :=
  let ps := s.pairsFree
  if o.fail ≠ 0 ∨ o.blocks = 0 ∨ ps.isEmpty then s
  else
    let (v, s) := s.fresh
    s.pairBlocks (ps.getD (v.toNat % ps.length) 0) o.blocks

/-! Slots. -/

/-- The check of R293 on both chunks of a slot. -/
def State.slotOk (s : State) (n : Nat) (r : BitVec 1024) : Bool :=
  let g (f : RF) : Nat := rget r f
  let use := g KS.use
  let old := s.slotRec n
  let big := g KS.aes256 == 1
  let xpn := use == 1 && g KS.extSeq == 1
  let keyLen := if big then 32 else 16
  let k2len := if g KS.mode = 3 then keyLen
    else if use = 1 then (if xpn then 12 else 0) else if use = 2 then 4 else if use = 3 then 12
    else if use = 0 ∧ (g KS.mode = 1 ∨ g KS.mode = 2 ∨ g KS.mode = 4) then 4
    else 0
  let cap := if (use == 1 || use == 2) && g KS.extSeq == 0 then 2 ^ 32 else 2 ^ 64 - 1
  decide (use ≤ 4) && decide (g KS.flags < 128) && decide (g KS.tag < 16) && g (byF 7 7) == 0 &&
  (s.slotState n == 0 || (use == rget old KS.use && g KS.owner == rget old KS.owner)) &&
  (g KS.owner == 0xFFFF || (decide (g KS.owner < 2048) && s.instActive (g KS.owner))) &&
  bit s.modes (g KS.mode) && decide (1 ≤ g KS.mode) && decide (g KS.mode < 16) &&
  (!(use == 1 || use == 2 || use == 3) || g KS.mode == 1) && (use != 4 || g KS.mode == 3) &&
  (g KS.enc == 1 || g KS.dec == 1) &&
  (if g KS.enc = 1 then decide (g KS.count < g KS.hard) else g KS.soft == 0 && g KS.hard == 0) &&
  decide (g KS.hard ≤ cap) &&
  (use == 1 || (use == 2 && (g KS.window == 0 || g KS.window == 1024)) || g KS.window == 0) &&
  (use == 2 || xpn || g KS.spi == 0) &&
  decide (g KS.key1 < 2 ^ (8 * keyLen)) && decide (g KS.key2 < 2 ^ (8 * k2len))

/-- New material becomes current in a slot: the fields that hardware keeps, and its generation. -/
def State.install (s : State) (n : Nat) (r : BitVec 1024) : State :=
  let g := if s.slotState n = 0 then 1 else (s.kg n KS.gen + 1) % 2 ^ 32
  let r := rput (rput (rput r KS.state 1) KS.gen g) KS.tlsBase (s.kg n KS.tlsBase)
  { s.setSlot n r with slotPend := tdel s.slotPend n }

def State.hasPend (s : State) (n : Nat) : Bool := (tkeys s.slotPend).contains n

/-- Both chunks of a WRITE or a STAGE (R293, R294). (DESIGN CHOICE, unsafe: assumption 164) -/
def State.applySlot (s : State) (n : Nat) (r : BitVec 1024) (stage : Bool) : Nat × State :=
  let free := s.slotState n == 0
  let o := rget r KS.owner
  if !s.slotOk n r then (stMalformed, s)
  else if stage then
    if s.slotState n = 0 ∨ s.slotState n = 3 then (stMalformed, s)
    else (stOk, { s with slotPend := tins n r s.slotPend })
  else if free ∧ o < 2048 ∧ s.ri o IR.keyUsed = s.ri o IR.keyQuota then (stBusy, s)
  else if s.drainFull n then (stBusy, s)
  else
    let s := if free then s.addRef o IR.keyUsed 1 else s
    (stOk, s.install n r)

/-- A switch to the pending generation (R294). (DEDUCED, unsafe: assumption 91) -/
def State.switchSlot (s : State) (n : Nat) : Nat × State :=
  match s.slotPend.find? (fun e => e.1 == n) with
  | none => (stMalformed, s)
  | some (_, r) => if s.drainFull n then (stBusy, s) else (stOk, (s.install n r).evt SCARAB.base 15)

/-- An erase: material gone, operations on it end KEY_ERASED (R295). -/
def State.eraseSlot (s : State) (n : Nat) : State :=
  let r := rput (rput (rput (s.slotRec n) KS.state 3) KS.key1 0) KS.key2 0
  { s.setSlot n r with slotPend := tdel s.slotPend n }.failOps (fun o => o.slot == n) stKeyErased

/-- A slot becomes FREE: its owner's quota is credited. -/
def State.freeSlot (s : State) (n : Nat) : State :=
  let o := s.kg n KS.owner
  State.subRef { s.setSlot n 0 with softSeen := tdel s.softSeen n } o IR.keyUsed 1

/-- INVALIDATE (R295). -/
def State.invalSlot (s : State) (n : Nat) : Nat × State :=
  match s.slotState n with
  | 0 => (stOk, s)
  | 3 => if (s.slotOps n).isEmpty then (stOk, s.freeSlot n) else (stBusy, s)
  | _ => (stOk, s.eraseSlot n)

/-- Whether an actor may command table 0 (R291). -/
def State.slotActor (s : State) (actor : Nat) : Bool :=
  s.permits actor .scarab && (!isThread actor || s.secure actor)

def State.tapScarab (s : State) (actor : Nat) (op : TapOp) (t i c : Nat) (d : BitVec 512) : TapRes :=
  match t with
  | 0 =>
    if !s.slotActor actor then TapRes.bad (s.evtErr SCARAB.base)
    else if slotMax ≤ i ∨ 2 ≤ c then TapRes.bad s
    else match op with
    | .read => TapRes.val s (if c = 0 then chunkOf (s.slotRec i) 0 else 0)
    | .invalidate =>
      let r := s.invalSlot i
      TapRes.of r.2 r.1
    | _ =>
      let k := i * 65536 + actor
      if s.alarmed then TapRes.of s stBusy
      else if c = 0 then TapRes.of { s with slotHeld := tins k d s.slotHeld } stOk
      else match s.slotHeld.find? (fun e => e.1 == k) with
        | none => TapRes.bad s
        | some (_, h) =>
          let r := putChunk (putChunk (0 : BitVec 1024) 0 h) 1 d
          let x := s.applySlot i r (op == .stage)
          -- a chunk 1 that completes BUSY changes nothing
          TapRes.of (if x.1 = stBusy then x.2 else { x.2 with slotHeld := tdel s.slotHeld k }) x.1
  | 1 =>
    if op = .stage ∧ i < 65536 ∧ c = 0 then TapRes.of { s with progStage := tins i d s.progStage } stOk
    else TapRes.bad s
  | _ => TapRes.bad s

/-! The alarm (R302). -/

/-- Steps 1–3: every operation ends KEY_ERASED, all material and the KEK are gone, every slot that is not
FREE reads ERASED. (DEDUCED, unsafe: assumption 117) (DESIGN CHOICE, unsafe: assumption 141) -/
def State.wipeKeys (s : State) : State :=
  { s with slots := s.slots.map (fun e => (e.1, rput (rput (rput e.2 KS.state 3) KS.key1 0) KS.key2 0)),
           slotPend := [], maskSeed := [], maskClk := [], maskBlk := [], kek := [],
           sops := s.sops.map (fun e => (e.1, { e.2 with fail := stKeyErased })) }

/-- The whole alarm with its cause; an ALARMED Scarab stays as it is but for the count. (DEDUCED, unsafe: assumption 92) -/
def State.scarabAlarm (s : State) (cause : Nat) : State :=
  let s := ((s.wipeKeys.pb SCARAB.STATE.ALARMED true).p SCARAB.STATE.CAUSE cause).inc SCARAB.STATE.ALARMS
  let s := (s.p SCARAB.ALARM_NS.NS s.ns).evt SCARAB.base 8
  (if cause = 1 then s else s.fault SCARAB.base 0xF002).alertBit 2

/-- Re-arming: a new KEK, READY, and a fault window that starts anew (R302). -/
def State.scarabRearm (s : State) : State :=
  if !s.alarmed then s
  else
    let (k, s) := s.freshBytes 32
    let s := ({ s with kek := k, fwc := s.fwc.filter (fun e => e.1 / 2 ^ 34 != 2) }.pb SCARAB.STATE.ALARMED false)
    s.p SCARAB.STATE.KEK_EPOCH (s.g SCARAB.STATE.KEK_EPOCH + 1)

end Sys2Proof.Machine
end

