-- ==== Sys2Proof/Machine/Sched.lean ====
section
/-! DEFINITION. SCHED: scheduler nodes and the queues they hold (R263–R267), the choice of the next packet
(R268, R269), shapers (R270), policers (R271, R272) and queue telemetry (R273, R274). -/

namespace Sys2Proof.Machine

/-! Nodes. A node's key is its kind (1 leaf, 2 inner, 3 class queue) × 65536 + its number; an egress is a
parent of kind 4. -/

namespace NR
def parent : RF := byF 0 1
def egress : RF := byF 2 2
def level : RF := byF 3 3
def strict : RF := byF 4 4
def enable : RF := biF 5 0 0
def lateDiscard : RF := biF 5 1 1
def flags : RF := byF 5 5
def weight : RF := byF 6 7
def cir : RF := byF 8 11
def pir : RF := byF 12 15
def cbs : RF := byF 16 19
def pbs : RF := byF 20 23
def finish : RF := byF 24 31
def ctok : RF := byF 32 35
def ptok : RF := byF 36 39
def depthPkts : RF := byF 40 43
def depthBytes : RF := byF 44 47
def headNs : RF := byF 48 55
end NR

def leafKey (n : Nat) : Nat := 0x1_0000 + n
def innerKey (n : Nat) : Nat := 0x2_0000 + n
def classKey (n : Nat) : Nat := 0x3_0000 + n
def egressKey (e : Nat) : Nat := 0x4_0000 + e
def isQueue (k : Nat) : Bool := k / 0x1_0000 == 1 || k / 0x1_0000 == 3

/-- A node's record after SYS_RST_N (R264). -/
def nodeDefault (k : Nat) : BitVec 512 :=
  if k / 0x1_0000 = 3 then
    packBytes 512 (leBytes 2 0xFFFF ++ leBytes 1 (k % 0x1_0000 / 8) ++ leBytes 1 0 ++ leBytes 1 15 ++ leBytes 1 1 ++
      leBytes 2 1)
  else 0
def State.nodeRec (s : State) (k : Nat) : BitVec 512 := tget (nodeDefault k) s.nodes k
def State.nd (s : State) (k : Nat) (f : RF) : Nat := rget (s.nodeRec k) f
def State.nr (s : State) (k : Nat) : Node := tget Node.reset s.noder k
def State.setNr (s : State) (k : Nat) (v : Node) : State := { s with noder := tset Node.reset s.noder k v }
def State.modNr (s : State) (k : Nat) (f : Node → Node) : State := s.setNr k (f (s.nr k))
def State.nodeOn (s : State) (k : Nat) : Bool := s.nd k NR.enable == 1

/-- A node's parent: an inner node or its egress. -/
def State.parentOf (s : State) (k : Nat) : Nat :=
  if s.nd k NR.parent = 0xFFFF then egressKey (s.nd k NR.egress) else innerKey (s.nd k NR.parent)

/-- Children of a parent: enabled nodes, leaves first, then inner nodes, then class queues. -/
def State.children (s : State) (k : Nat) : List Nat :=
  let ks := (tkeys s.nodes).filter (fun x => x / 0x1_0000 != 3) ++
    (if k / 0x1_0000 = 4 then (List.range 8).map (fun c => classKey (8 * (k % 0x1_0000) + c))
     else (tkeys s.nodes).filter (fun x => x / 0x1_0000 == 3))
  ks.filter (fun x => s.nodeOn x && s.parentOf x == k)

/-! Delivery: which entries of a NET_RX WQ a packet can fill (R168, R267). -/

namespace RX
def buf : RF := byF 8 15
def len : RF := byF 16 19
end RX

/-- The entries of a NET_RX WQ that packets may fill now, in index order: fetched and checked, none
started; none that is fenced while an earlier one has not completed (R130). -/
def State.rxFree (s : State) (w : Nat) : List Ent :=
  let es := (s.wqa w).ents
  let un := es.filter (fun e => e.phase == 2)
  if es.any (fun x => x.phase == 3) then un.takeWhile (fun x => rget x.raw EN.fence == 0) else un

/-- The entries that a packet of so many bytes takes; `none` where they do not hold it. -/
def takeEnts : List Ent → Nat → Option (List Ent)
  | [], n => if n = 0 then some [] else none
  | e :: r, n =>
    if n = 0 then some []
    else (takeEnts r (n - rget e.raw RX.len)).map (fun l => e :: l)

/-- Whether a WQ's state permits placement (R168). -/
def State.placing (s : State) (w : Nat) : Bool :=
  (s.wqg w WQ.state == rActive || s.wqg w WQ.state == rWaitCr) && s.wqg w WQ.type == 1

/-- The global WQ that a copy for an instance goes to. -/
def State.rxWq (s : State) (v : Desc) : Nat := s.ri v.dest IR.wqBase + v.sub

def State.placeable (s : State) (v : Desc) : Bool :=
  let w := s.rxWq v
  s.placing w && (takeEnts (s.rxFree w) v.bytes.length).isSome

/-! Heads and backlog. -/

/-- A frame as it leaves a port, padded to 60 bytes (R171). -/
def padFrame (b : Bytes) : Bytes := if b.length < 60 then padTo 60 b else b

/-- The length L of R268 on an egress. -/
def lenOn (e : Nat) (v : Desc) : Nat :=
  if e < 8 then (padFrame v.bytes).length + 24 else v.bytes.length

/-- Whether a copy is still on its way to Beeline (R276). -/
def Desc.timed (v : Desc) : Bool := v.launch.isSome

/-- The next sendable packet of a queue (R267). -/
def State.headOf (s : State) (k : Nat) : Option Nat :=
  let n := s.nr k
  let e := s.nd k NR.egress
  if 8 ≤ e ∧ e < 12 then
    (n.rot.filterMap (fun w => n.q.find? (fun d => s.rxWq (s.desc d) == w))).find? (fun d =>
      (s.desc d).timed || s.placeable (s.desc d))
  else n.q.head?

/-- Whether a packet's egress class is paused by the port's partner. -/
def State.pausedAt (s : State) (e : Nat) (v : Desc) : Bool :=
  decide (e < 8) && bit (s.g (PORT.STAT.PAUSED e)) v.sub

/-- Groups in the order of R268. -/
def groupOrder : List Nat := [0, 1, 2, 3, 4, 5, 6, 7, 15]

/-- The comparison of tags by the sign of their difference (R268). -/
def tagLt (a b : Nat) : Bool := decide (sgn 64 (a + 2 ^ 64 - b) < 0)

/-- The child with the least finish tag, the lowest node number among equals; nodes of two kinds with one number
stand in the order of `children`. (DEDUCED, unsafe: assumption 135) -/
def State.leastTag (s : State) : List Nat → Option Nat
  | [] => none
  | x :: r => match s.leastTag r with
    | none => some x
    | some y =>
      if tagLt (s.nr y).f (s.nr x).f ∨ ((s.nr y).f = (s.nr x).f ∧ y % 0x1_0000 < x % 0x1_0000) then some y else some x

/-- Selection from a list of eligible children (R268). -/
def State.pickFrom (s : State) (kids : List Nat) : Option Nat :=
  groupOrder.foldl (fun b g => match b with
    | some _ => b
    | none =>
      let ks := kids.filter (fun x => s.nd x NR.strict == g)
      match s.leastTag (ks.filter (fun x => (s.nr x).cir != 0 && decide (0 ≤ (s.nr x).ctok))) with
      | some x => some x
      | none => s.leastTag ks) none

/-- The packet that a node would yield; levels bound the depth. -/
def State.yield_ (s : State) : Nat → Nat → Option Nat
  | 0, _ => none
  | n + 1, k =>
    let own (x : Nat) (d : Option Nat) : Bool := match d with
      | some d => s.nodeOn x && ((s.nr x).pir == 0 || decide (0 ≤ (s.nr x).ptok)) &&
          !s.pausedAt (s.nd x NR.egress) (s.desc d)
      | none => false
    if isQueue k then s.headOf k
    else match s.pickFrom ((s.children k).filter (fun x => own x (s.yield_ n x))) with
      | some x => s.yield_ n x
      | none => none

/-- Whether a child is eligible. -/
def State.eligible (s : State) (x : Nat) : Bool :=
  match s.yield_ 5 x with
  | some d => s.nodeOn x && ((s.nr x).pir == 0 || decide (0 ≤ (s.nr x).ptok)) &&
      !s.pausedAt (s.nd x NR.egress) (s.desc d)
  | none => false

/-- Whether a node's subtree holds a sendable packet. -/
def State.backlogged (s : State) : Nat → Nat → Bool
  | 0, _ => false
  | n + 1, k => if isQueue k then (s.headOf k).isSome else (s.children k).any (fun x => s.backlogged n x)

def State.select (s : State) (k : Nat) : Option Nat := s.pickFrom ((s.children k).filter s.eligible)

/-- The path from an egress to a queue. -/
def State.pathFrom (s : State) : Nat → Nat → Option (List Nat)
  | 0, _ => none
  | n + 1, k => match s.select k with
    | none => none
    | some x => if isQueue x then some [x] else (s.pathFrom n x).map (fun p => x :: p)

/-! Shapers (R270). -/

/-- Tokens of a bucket after a refill, in units of 2^−16 byte: rate in kb/s, size in bytes, FCLK cycles. -/
def refill (tok : Int) (rate size dt : Nat) : Int :=
  min (size * 65536 : Int) (tok + (rate * dt * 2 * 65536 / (3 * 8_000_000) : Nat))

/-- A node's buckets at its rates in effect. (DESIGN CHOICE, unsafe: assumption 83) -/
def State.refillNode (s : State) (k : Nat) : State :=
  let dt := s.edryn.clk - (s.nr k).clk
  s.modNr k (fun n => { n with
    ctok := refill n.ctok n.cir (s.nd k NR.cbs) dt,
    ptok := if n.pir = 0 then n.ptok else refill n.ptok n.pir (s.nd k NR.pbs) dt,
    clk := s.edryn.clk })

/-- Key of a child's group among the virtual times. -/
def State.groupKey (s : State) (k : Nat) : Nat := s.parentOf k * 16 + s.nd k NR.strict

/-- One tag assignment (R268), with which a new weight and new rates take effect (R148). (DESIGN CHOICE, unsafe: assumption 83) -/
def State.tagNode (s : State) (k : Nat) : State :=
  let s := (s.refillNode k).modNr k (fun n => { n with cir := s.nd k NR.cir, pir := s.nd k NR.pir })
  let v := tget 0 s.groupV (s.groupKey k)
  let n := s.nr k
  let start := if tagLt v n.f then n.f else v
  let len := match s.yield_ 5 k with
    | some d => lenOn (s.nd k NR.egress) (s.desc d)
    | none => 0
  s.setNr k { n with s := start, f := (start + len * 65536 / max 1 (s.nd k NR.weight)) % 2 ^ 64 }

/-- A node that was not backlogged now is, and so for its ancestors (R268). -/
def State.onBacklog (s : State) : Nat → Nat → State
  | 0, _ => s
  | n + 1, k =>
    if k / 0x1_0000 = 4 ∨ (s.nr k).back then s
    else ((s.tagNode k).modNr k (fun x => { x with back := true })).onBacklog n (s.parentOf k)

/-- A node that is no longer backlogged, and so for its ancestors. -/
def State.offBacklog (s : State) : Nat → Nat → State
  | 0, _ => s
  | n + 1, k =>
    if k / 0x1_0000 = 4 ∨ s.backlogged 5 k then s
    else (s.modNr k (fun x => { x with back := false })).offBacklog n (s.parentOf k)

/-- Every queue's backlog follows what became sendable or ceased to be. -/
def State.schedSync (s : State) : State :=
  s.noder.foldl (fun s e =>
    let k := e.1
    if !isQueue k then s
    else if (s.headOf k).isSome then (if (s.nr k).back then s else s.onBacklog 5 k)
    else if (s.nr k).back then s.offBacklog 5 k else s) s

/-- A packet joins a queue (R266): first in, first out; a delivery queue keeps its WQs in rotation. -/
def State.joinQueue (s : State) (k d : Nat) : State :=
  let e := s.nd k NR.egress
  let w := s.rxWq (s.desc d)
  let s := s.modDesc d (fun v => { v with place := .queue k })
  (s.modNr k (fun n => { n with
    q := n.q ++ [d],
    rot := if 8 ≤ e ∧ e < 12 ∧ !n.rot.contains w then n.rot ++ [w] else n.rot })).schedSync

/-- Nodes that serve an egress. -/
def State.nodesOf (s : State) (e : Nat) : List Nat :=
  (tkeys s.nodes).filter (fun k => s.nodeOn k && s.nd k NR.egress == e)

/-- A dispatch along its path (R268): virtual times, buckets, removal, tags. -/
def State.takeHead (s : State) (path : List Nat) (d : Nat) : State :=
  let q := path.getLastD 0
  let l := lenOn (s.nd q NR.egress) (s.desc d)
  let s := path.foldl (fun s x =>
    let s := { s with groupV := tset 0 s.groupV (s.groupKey x) (s.nr x).f }
    s.modNr x (fun n => { n with ctok := n.ctok - (l * 65536 : Nat),
                                 ptok := if n.pir = 0 then n.ptok else n.ptok - (l * 65536 : Nat) })) s
  let w := s.rxWq (s.desc d)
  let s := s.modNr q (fun n =>
    let r := n.q.filter (fun x => x != d)
    let rot := n.rot.filter (fun x => x != w)
    { n with q := r, rot := if n.rot.contains w ∧ r.any (fun x => s.rxWq (s.desc x) == w) then rot ++ [w] else rot })
  (path.reverse.foldl (fun s x =>
    if s.backlogged 5 x then (s.tagNode x).modNr x (fun n => { n with back := true })
    else s.modNr x (fun n => { n with back := false })) s).schedSync

/-! What a node record reads (R264). -/

/-- Packets queued in a node's subtree. -/
def State.subPkts (s : State) : Nat → Nat → List Nat
  | 0, _ => []
  | n + 1, k => if isQueue k then (s.nr k).q else (s.children k).flatMap (fun x => s.subPkts n x)

def State.nodeView (s : State) (k : Nat) : BitVec 512 :=
  let ds := s.subPkts 5 k
  let n := s.nr k
  let r := rput (s.nodeRec k) NR.finish n.f
  let r := rput r NR.ctok (wrapInt 32 (n.ctok.ediv 65536))
  let r := rput r NR.ptok (if n.pir = 0 then 0 else wrapInt 32 (n.ptok.ediv 65536))
  let r := rput r NR.depthPkts ds.length
  let r := rput r NR.depthBytes (ds.foldl (fun a d => a + (s.pkt (s.desc d).pkt).bytes.length) 0)
  rput r NR.headNs (ds.foldl (fun a d => if a = 0 ∨ (s.desc d).admNs < a then (s.desc d).admNs else a) 0)

/-- The instance whose leaves include a leaf, ACTIVE or RESETTING. -/
def State.leafInst (s : State) (n : Nat) : Bool :=
  s.inst.any (fun e => (rget e.2 IR.state == 1 || rget e.2 IR.state == 2) &&
    decide (rget e.2 IR.leafBase ≤ n) && decide (n < rget e.2 IR.leafBase + rget e.2 IR.nleaf))

/-- A WRITE of a node (R265): the RO fields are kept. -/
def State.writeNode (s : State) (k : Nat) (d : BitVec 512) : TapRes :=
  let kind := k / 0x1_0000
  let old := s.nodeRec k
  let n := BitVec.ofNat 512 (getF d 191 0)
  let n := if kind = 3 then rput (rput (rput n NR.egress (k % 0x1_0000 / 8)) NR.level 0) NR.enable 1
    else if kind = 1 then rput n NR.level 0 else n
  let g (f : RF) : Nat := rget n f
  let par := g NR.parent
  let pk := innerKey par
  let ok := (par == 0xFFFF || (decide (par < 8192) && s.nodeOn pk && decide (g NR.level < s.nd pk NR.level) &&
      s.nd pk NR.egress == g NR.egress)) &&
    decide (g NR.egress < 24) && (kind != 2 || (decide (1 ≤ g NR.level) && decide (g NR.level ≤ 3))) &&
    (decide (g NR.strict < 8) || g NR.strict == 15) && g NR.weight != 0 &&
    (g NR.cir == 0 || g NR.pir == 0 || decide (g NR.cir ≤ g NR.pir)) &&
    decide (g NR.flags < 4) && (kind != 2 || g NR.lateDiscard == 0) &&
    decide (g NR.cir ≤ 1_600_000_000) && decide (g NR.pir ≤ 1_600_000_000) &&
    decide (g NR.cbs ≤ 16_777_215) && decide (g NR.pbs ≤ 16_777_215) &&
    (kind != 1 || s.leafInst (k % 0x1_0000))
  let moved := [NR.parent, NR.egress, NR.level, NR.strict, NR.enable].any (fun f => g f != rget old f)
  let inner := kind == 2 && [NR.level, NR.egress].any (fun f => g f != rget old f)
  if !ok then TapRes.bad s
  else if moved && !(s.subPkts 5 k).isEmpty then TapRes.of s stBusy
  else if inner && s.nodes.any (fun e => rget e.2 NR.enable == 1 && rget e.2 NR.parent == k % 0x1_0000)
  then TapRes.of s stBusy
  else
    let s := s.refillNode k
    TapRes.of ({ s with nodes := tset (nodeDefault k) s.nodes k n }.schedSync) stOk

/-- The class queue that takes a packet whose leaf is gone: its destination's egress class (R266). -/
def classOf (e : Nat) (v : Desc) : Nat :=
  classKey (8 * e + (if v.dk = 2 then v.sub % 8 else if v.dk ≠ 1 ∨ v.psrc = 9 then 0 else v.tc))

/-- The records of an instance's leaves are zeroed (R264). What becomes of packets that a leaf still holds then the spec
does not say: they join the class queues of their egress classes in their order. (DESIGN CHOICE, unsafe: assumption 136) -/
def State.zeroLeaves (s : State) (base n : Nat) : State :=
  (List.range n).foldl (fun s k =>
    let x := leafKey (base + k)
    let e := s.nd x NR.egress
    let q := (s.nr x).q
    let s : State := { s with nodes := tdel s.nodes x, noder := tdel s.noder x }
    q.foldl (fun s d => s.joinQueue (classOf e (s.desc d)) d) s) s

def State.invalNode (s : State) (k : Nat) : TapRes :=
  let named := s.nodes.any (fun e => rget e.2 NR.enable == 1 && rget e.2 NR.parent == k % 0x1_0000)
  if (k / 0x1_0000 = 1 ∧ !(s.nr k).q.isEmpty) ∨ (k / 0x1_0000 = 2 ∧ named) then TapRes.of s stBusy
  else TapRes.of { s with nodes := tdel s.nodes k, noder := tdel s.noder k } stOk

/-! Policers. -/

namespace PO
def mode : RF := byF 0 0
def owner : RF := byF 2 3
def cir : RF := byF 4 7
def pir : RF := byF 8 11
def cbs : RF := byF 12 15
def ebs : RF := byF 16 19
def tokC : RF := byF 20 23
def tokE : RF := byF 24 27
def refs : RF := byF 28 31
def green : RF := byF 32 39
def yellow : RF := byF 40 47
def red : RF := byF 48 55
end PO

def State.pol (s : State) (n : Nat) (f : RF) : Nat := rget (tget 0 s.policers n) f
def State.meterAt (s : State) (n : Nat) : Meter := tget Meter.reset s.meters n

/-- A count of a policer record raised by 1, saturating. -/
def State.polInc (s : State) (n : Nat) (f : RF) : State :=
  let r := tget 0 s.policers n
  { s with policers := tset 0 s.policers n (rput r f (satAdd 64 (rget r f) 1)) }

/-- The meter of R272: 0 green, 1 yellow, 2 red. -/
def State.meter (s : State) (n b : Nat) : Nat × State :=
  let m := s.meterAt n
  let dt := s.edryn.clk - m.clk
  let add (rate : Nat) : Nat := rate * dt * 2 * 65536 / (3 * 8_000_000)
  let need := b * 65536
  let cbs := s.pol n PO.cbs * 65536
  let ebs := s.pol n PO.ebs * 65536
  let put (s : State) (tc te : Nat) : State := { s with meters := tset Meter.reset s.meters n ⟨tc, te, s.edryn.clk⟩ }
  match s.pol n PO.mode with
  | 1 =>
    let tc := m.tc + add (s.pol n PO.cir)
    let te := min ebs (m.te + (tc - cbs))
    let tc := min tc cbs
    if need ≤ tc then (0, (put s (tc - need) te).polInc n PO.green)
    else if need ≤ te then (1, (put s tc (te - need)).polInc n PO.yellow)
    else (2, (put s tc te).polInc n PO.red)
  | 2 =>
    let tc := min cbs (m.tc + add (s.pol n PO.cir))
    let te := min ebs (m.te + add (s.pol n PO.pir))
    if te < need then (2, (put s tc te).polInc n PO.red)
    else if tc < need then (1, (put s tc (te - need)).polInc n PO.yellow)
    else (0, (put s (tc - need) (te - need)).polInc n PO.green)
  | _ => (0, s)

/-- A WRITE of a policer (R271). (DESIGN CHOICE, unsafe: assumption 162) -/
def State.writePol (s : State) (n : Nat) (d : BitVec 512) : TapRes :=
  let g (f : RF) : Nat := rget d f
  let o := g PO.owner
  let free := s.pol n PO.mode == 0
  let ok := decide (g PO.mode ≤ 2) &&
    (o == 0xFFFF || (decide (o < 2048) && s.instActive o)) && (free || o == s.pol n PO.owner) &&
    (g PO.mode != 1 || (g PO.cir != 0 && g PO.cbs + g PO.ebs != 0)) &&
    (g PO.mode != 2 || (g PO.cir != 0 && decide (g PO.cir ≤ g PO.pir) && g PO.cbs != 0 && g PO.ebs != 0))
  if !ok then TapRes.bad s
  else if free && g PO.mode != 0 && decide (o < 2048) && s.ri o IR.policerUsed == s.ri o IR.policerQuota
  then TapRes.of s stBusy
  else
    let old := tget 0 s.policers n
    let r := clearF (BitVec.ofNat 512 (getF d 159 0 + getF old 511 256 * 2 ^ 256)) 15 8
    let r := if g PO.mode = 1 then rput r PO.pir 0 else r
    let m := s.meterAt n
    let cbs := g PO.cbs * 65536
    let ebs := g PO.ebs * 65536
    let fill := g PO.mode != s.pol n PO.mode
    let m : Meter := ⟨if fill then cbs else min m.tc cbs, if fill then ebs else min m.te ebs,
      if fill then s.edryn.clk else m.clk⟩
    let s := if free && g PO.mode != 0 then s.addRef o IR.policerUsed 1
      else if !free && g PO.mode == 0 then s.subRef o IR.policerUsed 1 else s
    TapRes.of { s with policers := tset 0 s.policers n r, meters := tset Meter.reset s.meters n m } stOk

/-- A policer is freed with its quota. -/
def State.freePol (s : State) (n : Nat) : State :=
  let s := if s.pol n PO.mode = 0 then s else s.subRef (s.pol n PO.owner) IR.policerUsed 1
  { s with policers := tdel s.policers n, meters := tdel s.meters n }

/-! Telemetry. -/

namespace SS
def kind : RF := byF 0 0
def ring : RF := byF 1 1
def first : RF := byF 4 7
def count : RF := byF 8 11
end SS
namespace TR
def addr : RF := byF 0 7
def log2 : RF := byF 8 8
def prod : RF := byF 16 23
end TR

def nodeLimit (kind : Nat) : Nat := if kind = 1 then 65536 else if kind = 2 then 8192 else 192

def sampleOk (d : BitVec 512) : Bool :=
  let k := rget d SS.kind
  decide (k ≤ 3) && decide (rget d SS.ring < 64) &&
  (k == 0 || (decide (1 ≤ rget d SS.count) && decide (rget d SS.count ≤ 4096) &&
    decide (rget d SS.first + rget d SS.count ≤ nodeLimit k)))

/-- (DESIGN CHOICE, unsafe: assumption 162) -/
def tringOk (d : BitVec 512) : Bool :=
  let a := rget d TR.addr
  a % 64 == 0 && decide (hbmHiveFrom ≤ a) && decide (6 ≤ rget d TR.log2) && decide (rget d TR.log2 ≤ 20) &&
  decide (a + 32 * 2 ^ rget d TR.log2 ≤ hbmEnd)

/-- A telemetry record of a node (R273, R274). -/
def State.teleNode (s : State) (ring kind n nominal : Nat) (late stepped : Bool) : State :=
  let k := kind * 0x1_0000 + n
  let v := s.nodeView k
  let t := tget 0 s.trings ring
  let p := rget t TR.prod
  let x := s.nr k
  let h := rget v NR.headNs
  let flags := b2n late + 2 * b2n stepped + 4 * b2n (x.cir != 0 && decide (0 ≤ x.ctok)) +
    8 * b2n (x.pir == 0 || decide (0 ≤ x.ptok))
  let delay := if rget v NR.depthPkts = 0 then 0 else min (s.ns - h) (2 ^ 32 - 1)
  let b := leBytes 8 nominal ++ leBytes 2 n ++ leBytes 1 kind ++ leBytes 1 flags ++
    leBytes 4 (rget v NR.depthPkts) ++ leBytes 4 (rget v NR.depthBytes) ++ leBytes 4 delay ++ leBytes 8 p
  let s := if 2 ^ rget t TR.log2 ≤ p then s.evt SCHED.base 10 else s
  let s := { s with hbm := mwrite s.hbm (rget t TR.addr + p % 2 ^ rget t TR.log2 * 32) b,
                    trings := tset 0 s.trings ring (rput t TR.prod (p + 1)) }
  s.inc SCHED.TELE_STAT.SAMPLES

/-- A TELEMETRY action for SCHED: its status (R273). A ring that was never configured takes no record. (DESIGN CHOICE, unsafe: assumption 162) -/
def State.telemetry (s : State) (set nominal : Nat) (late stepped : Bool) : Nat × State :=
  let d := tget 0 s.samples set
  let k := rget d SS.kind
  if 1023 < set ∨ k = 0 ∨ rget (tget 0 s.trings (rget d SS.ring)) TR.log2 = 0 then
    (stMalformed, (s.inc SCHED.TELE_STAT.REFUSED).evt SCHED.base 9)
  else (stOk, (List.range (rget d SS.count)).foldl (fun s i =>
    s.teleNode (rget d SS.ring) k (rget d SS.first + i) nominal late stepped) s)

/-! The tables of SCHED (R263), but for the policers' REFS. -/

/-- Policers that a word names: `refs` is what FLOW counts. (DESIGN CHOICE, unsafe: assumption 162) -/
def State.tapSched (s : State) (refs : Nat → Nat) (op : TapOp) (t i c : Nat) (d : BitVec 512) : TapRes :=
  if c ≠ 0 then TapRes.bad s
  else match t, op with
  | 0, .read => if i < 65536 then TapRes.val s (s.nodeView (leafKey i)) else TapRes.bad s
  | 0, .write => if i < 65536 then s.writeNode (leafKey i) d else TapRes.bad s
  | 0, .invalidate => if i < 65536 then s.invalNode (leafKey i) else TapRes.bad s
  | 1, .read => if i < 8192 then TapRes.val s (s.nodeView (innerKey i)) else TapRes.bad s
  | 1, .write => if i < 8192 then s.writeNode (innerKey i) d else TapRes.bad s
  | 1, .invalidate => if i < 8192 then s.invalNode (innerKey i) else TapRes.bad s
  | 2, .read => if i < 192 then TapRes.val s (s.nodeView (classKey i)) else TapRes.bad s
  | 2, .write => if i < 192 then s.writeNode (classKey i) d else TapRes.bad s
  | 3, .read =>
    if i < 65536 then
      let m := s.meterAt i
      TapRes.val s (rput (rput (rput (tget 0 s.policers i) PO.tokC (m.tc / 65536)) PO.tokE (m.te / 65536))
        PO.refs (refs i))
    else TapRes.bad s
  | 3, .write => if i < 65536 then s.writePol i d else TapRes.bad s
  | 3, .invalidate =>
    if 65536 ≤ i then TapRes.bad s else if refs i ≠ 0 then TapRes.of s stBusy else TapRes.of (s.freePol i) stOk
  | 4, .read => if i < 1024 then TapRes.val s (tget 0 s.samples i) else TapRes.bad s
  | 4, .write => if i < 1024 ∧ sampleOk d then TapRes.of { s with samples := tset 0 s.samples i (clearF (clearF d 31 16) 511 96) } stOk
                 else TapRes.bad s
  | 4, .invalidate => if i < 1024 then TapRes.of { s with samples := tdel s.samples i } stOk else TapRes.bad s
  | 5, .read => if i < 64 then TapRes.val s (tget 0 s.trings i) else TapRes.bad s
  | 5, .write =>
    let d := rput d TR.prod 0
    if i < 64 ∧ tringOk d then TapRes.of { s with trings := tset 0 s.trings i (clearF d 511 72) } stOk else TapRes.bad s
  | 6, .read =>
    let r := tget 0 s.trings (i / 2 ^ 20)
    if i / 2 ^ 20 < 64 ∧ i % 2 ^ 20 < 2 ^ rget r TR.log2 then
      TapRes.val s (packBytes 512 (mread s.hbm (rget r TR.addr + i % 2 ^ 20 * 32) 32))
    else TapRes.bad s
  | _, _ => TapRes.bad s

/-- A node's buckets are refilled (R270). -/
def execShaperRefill (kind n : Nat) (s : State) : Host.Outcome State Fault Refusal :=
  let k := kind * 0x1_0000 + n
  done s (if 1 ≤ kind ∧ kind ≤ 3 ∧ n < nodeLimit kind ∧ s.nodeOn k then (s.refillNode k).schedSync else s)

end Sys2Proof.Machine
end

