-- ==== Sys2Proof/Machine/Flow.lean ====
section
/-! DEFINITION. FLOW: key profiles, keys and hashes (R221–R223), flow contexts and where they live
(R224–R229), action words and their checks (R232, R233), templates and steering (R236, R239), ageing (R242). -/

namespace Sys2Proof.Machine

/-! CRC-32C. -/

def crc32cBit : Nat → Nat → Nat
  | 0, c => c
  | n + 1, c => crc32cBit n (if c % 2 = 1 then c / 2 ^^^ 0x82F6_3B78 else c / 2)
/-- CRC-32C state after bytes, without the final XOR (reflected). -/
def crc32cRun (c : Nat) (bs : Bytes) : Nat := bs.foldl (fun c b => crc32cBit 8 (c ^^^ b.toNat)) c
def crc32c (init : Nat) (bs : Bytes) : Nat := crc32cRun init bs ^^^ 0xFFFF_FFFF

/-! Key profiles (R221). -/

namespace KP
def field (k : Nat) : RF := byF k k
def learn : RF := biF 8 0 0
def owner : RF := byF 10 11
def idle : RF := byF 12 15
end KP

def profileDefault : BitVec 512 := BitVec.ofNat 512 (0xFFFF * 2 ^ 80)
def State.profile (s : State) (p : Nat) : BitVec 512 := tget profileDefault s.profiles p
def profileFields (r : BitVec 512) : List Nat := (List.range 8).map (fun k => rget r (KP.field k))
def profileUsed (r : BitVec 512) : Bool := (profileFields r).any (fun f => f != 0)

def State.profileOk (s : State) (r : BitVec 512) : Bool :=
  let fs := (profileFields r).filter (fun f => f != 0)
  let o := rget r KP.owner
  fs.all (fun f => fieldWidth f != 0) && decide (fs.foldl (fun a f => a + ceilDiv (fieldWidth f) 8) 0 ≤ 46) &&
  (o == 0xFFFF || (decide (o < 2048) && s.instActive o))

/-- A profile as it is kept: its reserved bits are zero (R9). -/
def profileKept (r : BitVec 512) : BitVec 512 := clearF (clearF r 79 65) 511 128

/-- The flow key of a pass under a profile (R222). -/
def State.flowKey (s : State) (d : Desc) (p : Nat) : Bytes :=
  let fs := profileFields (s.profile p)
  let bitOf (k : Nat) : Nat :=
    let f := fs.getD k 0
    if f ≠ 0 ∧ (keyField d f).isSome then 2 ^ k else 0
  let present := (List.range 8).foldl (fun a k => a + bitOf k) 0
  padTo 48 (leBytes 1 p ++ leBytes 1 present ++
    (fs.filter (fun f => f != 0)).flatMap (fun f => beBytes (ceilDiv (fieldWidth f) 8) ((keyField d f).getD 0)))

def State.flowHash (s : State) (key : Bytes) : Nat := crc32c (s.g FLOW.HASH_SEED.SEED) key

/-! Flow contexts (R225). -/

namespace FC
def state : RF := byF 0 0
def keep : RF := biF 1 0 0
def learned : RF := biF 1 1 1
def flags : RF := byF 1 1
def owner : RF := byF 2 3
def index : RF := byF 4 7
def hash : RF := byF 8 11
def idle : RF := byF 12 15
def key : RF := byF 16 63
def pkts : RF := byF 64 71
def bytes : RF := byF 72 79
def last : RF := byF 80 87
def inserted : RF := byF 88 95
def mark : RF := byF 96 99
def hiveTag : RF := byF 100 103
def tls : RF := byF 104 111
def refs : RF := byF 112 115
/-- (DEDUCED, unsafe: assumption 17) -/
def act (k : Nat) : RF := byF (128 + 8 * k) (135 + 8 * k)
end FC

def flowMax : Nat := 4194304
def State.ctx (s : State) (i : Nat) : BitVec 2048 := tget 0 s.flows i
def State.setCtx (s : State) (i : Nat) (r : BitVec 2048) : State := { s with flows := tset 0 s.flows i r }
/-- A context as it is kept: its reserved bits are zero (R9). -/
def ctxKept (r : BitVec 2048) : BitVec 2048 := clearF (clearF r 15 10) 1023 928
def ctxState (r : BitVec 2048) : Nat := rget r FC.state
def ctxKey (r : BitVec 2048) : Bytes := leBytes 48 (rget r FC.key)
def ctxWords (r : BitVec 2048) : List Nat := (List.range 16).map (fun k => rget r (FC.act k))

/-- The two buckets of a hash (R224). -/
def bucket1 (h : Nat) : Nat := bits h 18 0
def bucket2 (h : Nat) : Nat := let b := bits h 31 13; if b = bucket1 h then b ^^^ 1 else b
def waysOf (h : Nat) : List Nat :=
  (List.range 8).map (fun w => bucket1 h * 8 + w) ++ (List.range 8).map (fun w => bucket2 h * 8 + w)

/-- The VALID context that holds a key (R224). -/
def State.findFlow (s : State) (key : Bytes) (h : Nat) : Option Nat :=
  (waysOf h).find? (fun i => ctxState (s.ctx i) == 1 && ctxKey (s.ctx i) == key)

/-! Action words (R233). -/

def wCode (w : Nat) : Nat := w % 256

/-- Words that are run, with their places: those after a SET_ADDR are its address. -/
def runWords : Nat → Nat → List Nat → List (Nat × Nat)
  | 0, _, _ => []
  | _, _, [] => []
  | n + 1, i, w :: r =>
    if wCode w = 0x04 then (i, w) :: runWords n (i + 3) (r.drop 2) else (i, w) :: runWords n (i + 1) r
/-- The words of a context that the hardware can run. -/
def ctxRun (r : BitVec 2048) : List Nat := (runWords 17 0 (ctxWords r)).map (fun e => e.2)

/-- Instances that a list of words FORWARDs to. -/
def forwardsTo (ws : List Nat) (i : Nat) : Bool :=
  ws.any (fun w => wCode w == 0x0C && bits w 10 8 == 1 && bits w 29 16 == i)
def namesTemplate (ws : List Nat) (t : Nat) : Bool := ws.any (fun w => wCode w == 0x02 && bits w 31 16 == t)
def namesPolicer (ws : List Nat) (p : Nat) : Bool := ws.any (fun w => wCode w == 0x08 && bits w 31 16 == p)

/-- REFS of a LIST (R225, R226): VALID contexts that JUMP to it, and PENDING and LIVE rules that name it. -/
def State.listRefs (s : State) (i : Nat) : Nat :=
  (s.flows.filter (fun e => ctxState e.2 == 1 &&
    (ctxRun e.2).any (fun w => wCode w == 0x0F && bits w 37 16 == i))).length +
  (s.rules.filter (fun e => (s.ruleState e.2 == 2 || s.ruleState e.2 == 3) && rget e.2 RU.alist == i)).length

/-- REFS of a template and of a policer. -/
def State.tmRefs (s : State) (t : Nat) : Nat :=
  (s.flows.filter (fun e => ctxState e.2 != 0 && namesTemplate (ctxRun e.2) t)).length
def State.polRefs (s : State) (p : Nat) : Nat :=
  (s.flows.filter (fun e => ctxState e.2 != 0 && namesPolicer (ctxRun e.2) p)).length

/-- NAMED of an instance (R143, R217, R226). -/
def State.named (s : State) (i : Nat) : Nat :=
  (s.flows.foldl (fun a e =>
    if !forwardsTo (ctxRun e.2) i then a
    else if ctxState e.2 = 1 ∧ rget e.2 FC.owner ≠ i then a + 1
    else if ctxState e.2 = 2 then a + s.listRefs e.1 else a) 0) +
  (s.rules.filter (fun e => s.ruleState e.2 == 3 && rget e.2 RU.destKind == 1 && rget e.2 RU.dest == i)).length

/-- The owner rule of R160 and R232: another instance's object is refused. -/
def ownerFits (obj ctx : Nat) : Bool := ctx == 0xFFFF || obj == 0xFFFF || obj == ctx

def State.template (s : State) (t : Nat) : BitVec 1024 := tget 0 s.templates t

/-- Whether one word keeps its format, ranges and owners (R232). -/
def State.wordOk (s : State) (owner : Nat) (list : Bool) (w : Nat) : Bool :=
  let only (mask : List (Nat × Nat)) : Bool :=
    w == mask.foldl (fun a f => a + bits w f.1 f.2 * 2 ^ f.2) (w % 256)
  match wCode w with
  | 0x00 => only []
  | 0x01 => only []
  | 0x02 => only [(8, 8), (31, 16), (63, 32)] &&
      (let t := s.template (bits w 31 16)
       rget t TM.len == 0 || ownerFits (rget t TM.owner) owner)
  | 0x03 => true
  | 0x04 => only [(15, 8)] && isAddr (bits w 15 8)
  | 0x05 => only [(31, 16), (47, 32)] &&
      (let t := bits w 47 32
       t == 0x8100 || t == 0x88A8 || (t != 0 && t == pcf (s.cfgOf s.seq) 32 2))
  | 0x06 => only []
  | 0x07 => only [(8, 8)]
  | 0x08 => only [(31, 16), (33, 32), (45, 40)] && decide (bits w 33 32 ≤ 1) &&
      (s.pol (bits w 31 16) PO.mode == 0 || ownerFits (s.pol (bits w 31 16) PO.owner) owner)
  | 0x09 => only [(29, 16)]
  | 0x0A => only [(35, 16), (41, 40), (42, 42), (43, 43)] && decide (bits w 41 40 < 3) &&
      (s.slotState (bits w 35 16) == 0 || ownerFits (s.kg (bits w 35 16) KS.owner) owner)
  | 0x0B => only [(8, 8), (9, 9), (19, 16)] && decide (bits w 19 16 < 12)
  | 0x0C => only [(10, 8), (29, 16), (43, 32)] && decide (1 ≤ bits w 10 8) &&
      s.destOk (bits w 10 8) (bits w 29 16) (bits w 43 32)
  | 0x0D => only [(63, 32)]
  | 0x0E => only []
  | 0x0F => only [(37, 16)] && !list && s.isList (bits w 37 16)
  | _ => false

/-- A word as it counts for combinations: its code, and for a SESSION whether it encrypts (0x100) or
decrypts with REENTER (0x200). -/
def wMark (w : Nat) : Nat :=
  if wCode w = 0x0A then 0x0A + (if bit w 42 then 0x100 else if bit w 43 then 0x200 else 0) else wCode w

/-- Whether a word breaks a combination rule of R232 after the words that ran before it. -/
def conflict (did : List Nat) (w : Nat) : Bool :=
  let c := wCode w
  let times (x : Nat) : Nat := (did.filter (fun m => m % 256 == x)).length
  ((c == 0x01 || c == 0x02 || c == 0x0A || c == 0x08) && times c != 0) ||
  (c == 0x09 && decide (2 ≤ times 0x09)) || (c == 0x01 && times 0x02 != 0) ||
  (did.contains 0x10A && !(c == 0x09 || c == 0x0C || c == 0x0D || c == 0x00)) ||
  (did.contains 0x20A && c != 0x00)

/-- The combination rules over a whole list. -/
def combosOk : List Nat → List Nat → Bool
  | _, [] => true
  | did, w :: r => !conflict did w && combosOk (wMark w :: did) r

def State.wordsOk (s : State) (owner : Nat) (list : Bool) (ws : List Nat) : Bool :=
  let run := (runWords 17 0 ws).map (fun e => e.2)
  run.all (s.wordOk owner list) && combosOk [] run

/-! Insertion (R228). -/

def reasonNone : Nat := 0
def reasonDup : Nat := 1
def reasonFull : Nat := 2
def reasonQuota : Nat := 3
def reasonCheck : Nat := 4
def reasonInUse : Nat := 5

/-- Instances whose FLOW_QUOTA is used up. -/
def State.flowQuotaFull (s : State) (o : Nat) : Bool :=
  decide (o < 2048) && s.ri o IR.flowUsed == s.ri o IR.flowQuota

/-- The result of an insertion: status, REASON, index. -/
structure InsRes where
  status : Nat
  reason : Nat
  index : Nat
  deriving DecidableEq, Repr

/-- Inserts a buffer by hash (R228): `learned` for hardware learning. (DESIGN CHOICE, unsafe: assumption 75) -/
def State.insertFlow (s : State) (r : BitVec 2048) (learned : Bool) : InsRes × State :=
  let o := rget r FC.owner
  let key := ctxKey r
  let p := rget r FC.key % 256
  if !s.wordsOk o false (ctxWords r) || decide (16 ≤ p) || !profileUsed (s.profile p) ||
      !(o == 0xFFFF || (decide (o < 2048) && s.instActive o))
  then (⟨stMalformed, reasonCheck, 0⟩, s)
  else if s.flowQuotaFull o then (⟨stBusy, reasonQuota, 0⟩, s)
  else
    let h := s.flowHash key
    if (s.findFlow key h).isSome then (⟨stBusy, reasonDup, 0⟩, s)
    else match (waysOf h).find? (fun i => ctxState (s.ctx i) == 0) with
      | none => (⟨stBusy, reasonFull, 0⟩, s)
      | some i =>
        let r := rput (rput (rput (ctxKept r) FC.state 1) FC.index i) FC.hash h
        let r := rput (rput r FC.inserted s.ns) FC.last s.ns
        let r := rput (rput (rput r FC.pkts 0) FC.bytes 0) FC.tls 0
        let r := rput (rput r FC.learned (b2n learned)) FC.refs 0
        (⟨stOk, reasonNone, i⟩, (s.setCtx i r).addRef o IR.flowUsed 1)

/-- Creates a LIST at an index (R227). -/
def State.makeList (s : State) (i : Nat) (r : BitVec 2048) : InsRes × State :=
  if rget r FC.owner ≠ 0xFFFF || !s.wordsOk 0xFFFF true (ctxWords r) then (⟨stMalformed, reasonCheck, i⟩, s)
  else if ctxState (s.ctx i) ≠ 0 then (⟨stBusy, reasonInUse, i⟩, s)
  else
    let r := rput (rput (rput (rput (ctxKept r) FC.state 2) FC.index i) FC.hash 0) FC.key 0
    let r := rput (rput (rput (rput r FC.inserted s.ns) FC.last s.ns) FC.pkts 0) FC.bytes 0
    (⟨stOk, reasonNone, i⟩, s.setCtx i (rput (rput (rput r FC.tls 0) FC.learned 0) FC.refs 0))

/-- A context becomes FREE; its owner's quota is credited. -/
def State.freeCtx (s : State) (i : Nat) : State :=
  let r := s.ctx i
  let s := s.setCtx i 0
  if ctxState r = 1 then s.subRef (rget r FC.owner) IR.flowUsed 1 else s

/-- INSERT_REFUSED for an insertion of TAP or CONTROL that does not complete OK (R243). -/
def State.insEvent (s : State) (st : Nat) : State := if st = stOk then s else s.evt FLOW.base 8

/-- A staged record of four chunks: inserted, or made a LIST (R227). -/
def State.insertRec (s : State) (i : Nat) (r : BitVec 2048) : InsRes × State :=
  match rget r FC.state with
  | 1 =>
    let x := s.insertFlow r false
    (x.1, x.2.insEvent x.1.status)
  | 2 => s.makeList i r
  | _ => (⟨stMalformed, reasonCheck, 0⟩, s)

/-- What a context reads (R225): REFS is counted. -/
def State.ctxView (s : State) (i : Nat) : BitVec 2048 :=
  let r := s.ctx i
  if ctxState r = 2 then rput r FC.refs (s.listRefs i) else r

/-- A WRITE of a context's chunk (R227). -/
def State.writeCtx (s : State) (actor i c : Nat) (d : BitVec 512) : TapRes :=
  let r := s.ctx i
  let k := i * 65536 + actor
  if ctxState r = 0 then TapRes.bad s
  else match c with
  | 0 =>
    let x := putChunk (0 : BitVec 2048) 0 d
    TapRes.of (s.setCtx i (rput (rput r FC.keep (rget x FC.keep)) FC.idle (rget x FC.idle))) stOk
  | 1 =>
    let x := putChunk (0 : BitVec 2048) 1 d
    let r := rput (rput r FC.pkts (rget x FC.pkts)) FC.bytes (rget x FC.bytes)
    TapRes.of (s.setCtx i (rput (rput r FC.mark (rget x FC.mark)) FC.hiveTag (rget x FC.hiveTag))) stOk
  | 2 => TapRes.of { s with flowHeld := tins k d s.flowHeld } stOk
  | _ =>
    let h := match s.flowHeld.find? (fun e => e.1 == k) with
      | some (_, h) => h
      | none => chunkOf r 2
    let n := putChunk (putChunk r 2 h) 3 d
    if s.wordsOk (rget r FC.owner) (ctxState r == 2) (ctxWords n) then
      TapRes.of { s.setCtx i n with flowHeld := tdel s.flowHeld k } stOk
    else TapRes.bad s

/-- INVALIDATE of a context (R227). -/
def State.invalCtx (s : State) (i : Nat) : Nat × State :=
  match ctxState (s.ctx i) with
  | 1 => (stOk, s.freeCtx i)
  | 2 => if s.listRefs i ≠ 0 then (stBusy, s) else (stOk, s.freeCtx i)
  | _ => (stOk, s)

/-! Templates and steering (R236, R239). -/

/-- (DESIGN CHOICE, unsafe: assumption 159) -/
def State.writeTm (s : State) (t c : Nat) (d : BitVec 512) : TapRes :=
  let old := s.template t
  let n := putChunk old c d
  -- chunk 0 is held until chunk 1 completes the template
  if s.tmRefs t ≠ 0 ∧ c = 0 then TapRes.of s stBusy
  else if c = 0 then TapRes.of { s with flowHeld := tins (2 ^ 40 + t) d s.flowHeld } stOk
  else
    let n := match s.flowHeld.find? (fun e => e.1 == 2 ^ 40 + t) with
      | some (_, h) => putChunk n 0 h
      | none => n
    let n := tmKept n
    let o := rget n TM.owner
    let was := rget old TM.owner
    let used := rget old TM.len != 0
    if !tmOk n || !(o == 0xFFFF || (decide (o < 2048) && s.instActive o)) then TapRes.bad s
    else if s.tmRefs t ≠ 0 then TapRes.of s stBusy
    else if !(used && was == o) && decide (o < 2048) && s.ri o IR.encapUsed == s.ri o IR.encapQuota then TapRes.of s stBusy
    else
      let s := if used then s.subRef was IR.encapUsed 1 else s
      let s := s.addRef o IR.encapUsed 1
      TapRes.of { s with templates := tset 0 s.templates t n, flowHeld := tdel s.flowHeld (2 ^ 40 + t) } stOk

def State.freeTm (s : State) (t : Nat) : State :=
  let r := s.template t
  let s := if rget r TM.len = 0 then s else s.subRef (rget r TM.owner) IR.encapUsed 1
  { s with templates := tdel s.templates t }

/-- Steering entry i: HIVE + 16 × ALT. -/
def steerDefault (i : Nat) : Nat := i % 12 + 16 * ((i + 1) % 12)
def State.steerEntry (s : State) (i : Nat) : Nat := tget (steerDefault i) s.steer i

def State.hiveIn (s : State) (h : Nat) : Bool := s.inService (HIVE.base h)

/-- The Hive that R239 chooses: a named one, else by the steering entry; `none` where the punt waits. -/
def State.puntHive (s : State) (hash : Nat) (named : Option Nat) : Option Nat :=
  let e := s.steerEntry (hash % 256)
  let st := if s.hiveIn (e % 16) then some (e % 16) else if s.hiveIn (e / 16) then some (e / 16) else none
  match named with
  | some h => if s.hiveIn h then some h else st
  | none => st

/-- (DESIGN CHOICE, unsafe: assumption 159) -/
def State.tapFlow (s : State) (actor : Nat) (op : TapOp) (t i c : Nat) (d : BitVec 512) : TapRes :=
  match t with
  | 0 =>
    let b := putChunk (tget 0 s.insBuf actor) c d
    if op = .stage ∧ c < 3 then TapRes.of { s with insBuf := tset 0 s.insBuf actor b } stOk
    else if flowMax ≤ i ∨ 4 ≤ c then TapRes.bad s
    else match op with
    | .read => TapRes.val s (chunkOf (s.ctxView i) c)
    | .stage =>
        let x := s.insertRec i b
        let s := (x.2.p FLOW.INS_STAT.INDEX x.1.index).p FLOW.INS_STAT.STATUS x.1.status
        TapRes.of ((s.p FLOW.INS_STAT.REASON x.1.reason)) x.1.status
    | .write => s.writeCtx actor i c d
    | .invalidate =>
      let x := s.invalCtx i
      TapRes.of x.2 x.1
  | 1 =>
    if 16 ≤ i ∨ c ≠ 0 then TapRes.bad s
    else match op with
    | .read => TapRes.val s (s.profile i)
    | .invalidate => TapRes.bad s
    | _ =>
      if !s.profileOk d then TapRes.bad s
      else if s.flows.any (fun e => ctxState e.2 == 1 && rget e.2 FC.key % 256 == i) then TapRes.of s stBusy
      else TapRes.of { s with profiles := tset profileDefault s.profiles i (profileKept d) } stOk
  | 2 =>
    if 65536 ≤ i ∨ 2 ≤ c then TapRes.bad s
    else match op with
    | .read => TapRes.val s (chunkOf (rput (s.template i) TM.refs (s.tmRefs i)) c)
    | .invalidate => if s.tmRefs i ≠ 0 then TapRes.of s stBusy else TapRes.of (s.freeTm i) stOk
    | _ => s.writeTm i c d
  | 3 =>
    if 256 ≤ i ∨ c ≠ 0 then TapRes.bad s
    else match op with
    | .read => TapRes.val s (BitVec.ofNat 512 (s.steerEntry i))
    | .write =>
      let v := getF d 7 0
      if 11 < v % 16 ∨ 11 < v / 16 then TapRes.bad s
      else TapRes.of { s with steer := tset (steerDefault i) s.steer i v } stOk
    | _ => TapRes.bad s
  | _ => TapRes.bad s

/-- Contexts of FLOW by state (`FLOW.COUNT`). -/
def State.ctxCount (s : State) (st : Nat) : Nat := (s.flows.filter (fun e => ctxState e.2 == st)).length

/-! Punt descriptors and notices (R238, R241). -/

/-- The 32 bytes of a punt descriptor. -/
def puntBytes (reason profile : Nat) (copy : Bool) (rule hash flow mark cells len word : Nat) : Bytes :=
  padTo 32 (leBytes 1 reason ++ leBytes 1 (profile + 16 * b2n copy) ++ leBytes 2 rule ++ leBytes 4 hash ++
    leBytes 4 flow ++ leBytes 4 mark ++ leBytes 4 cells ++ leBytes 2 len ++ leBytes 1 word)

/-- Whether a Hive's intake has room (R356). -/
def State.intakeRoom (s : State) (h : Nat) : Bool :=
  let l := s.g (HIVE.RING_CFG.INTAKE_LOG2 h)
  l != 0 && decide (sub32 (s.g (HIVE.INTAKE_IDX.PROD h)) (s.g (HIVE.INTAKE_IDX.CONS h)) < 2 ^ l)

/-- An intake entry is written and its PROD advances (R356). -/
def State.intakePut (s : State) (h : Nat) (record punt : Bytes) : State :=
  let p := s.g (HIVE.INTAKE_IDX.PROD h)
  let a := s.g (HIVE.RING_CFG.INTAKE_BASE h) * 128 + p % 2 ^ s.g (HIVE.RING_CFG.INTAKE_LOG2 h) * 128
  let s := s.hsWrite h (a % hsSize) (padTo 128 (padTo 64 record ++ padTo 32 punt ++ leBytes 8 s.ns))
  (s.p (HIVE.INTAKE_IDX.PROD h) (i32 (p + 1))).hiveEvent h evIntake

/-- A notice to the steering Hive of a context (R241, R356). -/
def State.notice (s : State) (reason i : Nat) (rule : Nat) (r : BitVec 2048) : State :=
  let s := s.inc FLOW.PUNTS.PUNTS
  match s.puntHive (rget r FC.hash) none with
  | none => s
  | some h =>
    if s.intakeRoom h then
      s.intakePut h [] (puntBytes reason (rget r FC.key % 16) false rule (rget r FC.hash) i (rget r FC.mark) 0 0 0xFF)
    else s.inc (HIVE.HELD.NOTICES_LOST h)

/-- The ager visits a VALID context (R242), once in every `AGE.SCAN_MS`; it stops while FABRIC is in SLEEP or below. -/
def execAgeVisit (i : Nat) (s : State) : Host.Outcome State Fault Refusal :=
  let r := s.ctx i
  let t := s.ns
  let k := tget 0 s.ageClk i
  done s (
    if ctxState r ≠ 1 ∨ !(s.domUp 1 || s.domState 1 == 8) ∨
      (k ≠ 0 ∧ s.since (k - 1) < s.g FLOW.AGE.SCAN_MS * 1_000_000) then s
    else
      let s : State := { s with ageClk := tset 0 s.ageClk i (s.edryn.clk + 1) }
      if rget r FC.idle = 0 ∨ t < rget r FC.last ∨ t - rget r FC.last < rget r FC.idle * 1_000_000 then s
      else if rget r FC.keep = 1 then
        ((s.setCtx i (rput r FC.last t)).notice 0x12 i 0xFFFF r).evt FLOW.base 10
      else (((s.freeCtx i).inc FLOW.AGE.AGED).notice 0x11 i 0xFFFF r).evt FLOW.base 10)

end Sys2Proof.Machine
end

