-- ==== Sys2Proof/Machine/Inline.lean ====
section
/-! DEFINITION. Inline sessions (R305–R308): what MACsec, ESP and TLS 1.3 do to a packet, and how an inline
operation fails. -/

namespace Sys2Proof.Machine

/-- How an inline operation ends: a kind (0 none, 1 AUTH, 2 REPLAY, 3 KEY, 4 FORMAT) and the status its
sender reads. -/
structure InRes where
  kind : Nat
  status : Nat
  st : State
  deriving DecidableEq, Repr

def inAuth : Nat := 1
def inReplay : Nat := 2
def inKey : Nat := 3
def inFormat : Nat := 4

def InRes.ok (s : State) : InRes := ⟨0, stOk, s⟩
/-- A FORMAT failure of R307, whose segment is delivered as it came (R308). -/
def InRes.passed (s : State) : InRes := ⟨inFormat, stOk, s⟩
def InRes.fail (s : State) (kind : Nat) : InRes := ⟨kind, stMalformed, s⟩

/-! MACsec. -/

/-- The place of a packet's SecTAG, as its record has it: at its TCI (R194). -/
def Desc.secTag (v : Desc) : Option Nat := (v.prec.outer.find? (fun e => e.1 == 0x03)).map (fun e => e.2)

/-- The nonce of a MACsec frame: SCI and PN, or with XPN the salt over SSCI and the whole PN. (PRESUMED, unsafe: assumption 165) -/
def macsecNonce (m : BitVec 1024) (sci : Bytes) (pn : Nat) : Bytes :=
  if rget m KS.extSeq = 1 then Aes.xor (matSalt m 12) (leBytes 4 (rget m KS.spi) ++ beBytes 8 pn)
  else sci ++ beBytes 4 pn

/-- A frame under MACsec, with a material and its COUNT (R305). -/
def macsecEnc (m : BitVec 1024) (count : Nat) (f : Bytes) : Bytes :=
  let conf := rget m KS.conf
  let sc := rget m KS.sc
  let tag := rget m KS.tag
  let tci := 64 * bits tag 2 2 + 32 * sc + 16 * bits tag 3 3 + 12 * conf + tag % 4
  let plain := f.drop 12
  let sl := if plain.length < 48 then plain.length else 0
  let sci := leBytes 8 (rget m KS.sci)
  let hdr := f.take 12 ++ [0x88, 0xE5] ++ leBytes 1 tci ++ leBytes 1 sl ++ beBytes 4 count ++
    (if sc = 1 then sci else [])
  let nonce := macsecNonce m sci count
  let ks := matRound m
  if conf = 1 then
    let c := Aes.gcmCrypt ks nonce plain
    hdr ++ c ++ Aes.gcmTag ks nonce hdr c
  else hdr ++ plain ++ Aes.gcmTag ks nonce (hdr ++ plain) []

/-- The packet's bytes and record after MACsec. -/
def Desc.macsecOut (v : Desc) (m : BitVec 1024) (count : Nat) : Desc :=
  let f := macsecEnc m count v.bytes
  let n := if rget m KS.sc = 1 then 16 else 8
  let r := v.prec
  let rest := if rget m KS.conf = 1 then [] else (r.hdrs.drop 1).map (fun e => (e.1, e.2 + n))
  let tun := if r.tun = 0xFF ∨ rest.isEmpty then 0xFF else r.tun + 1
  { v with bytes := f, prec := mkRec r ((0x01, 0) :: (0x03, 14) :: rest) tun (r.payOff + n) f.length, macsec := true }

/-- The PN that a frame's 32 bits stand for (IEEE 802.1AE): with XPN recovered from the lowest acceptable
PN. (PRESUMED, unsafe: assumption 165) -/
def macsecPn (m : BitVec 1024) (next : Nat) (pn : Nat) : Nat :=
  if rget m KS.extSeq = 0 then pn
  else
    let low := next - rget m KS.window
    let hi := low / 2 ^ 32
    (if 2 ^ 31 ≤ low % 2 ^ 32 ∧ pn < 2 ^ 31 then hi + 1 else hi) * 2 ^ 32 + pn

/-- The SCI of a frame: carried, formed from an end station's address, or implied by its slot. (PRESUMED, unsafe: assumption 165) -/
def macsecSci (m : BitVec 1024) (f : Bytes) (o : Nat) : Bytes :=
  let tci := byteAt f o
  if bit tci 5 then slice f (o + 6) 8
  else if bit tci 6 ∧ !bit tci 4 then slice f 6 6 ++ [0x00, 0x01]
  else leBytes 8 (rget m KS.sci)

/-- A protected frame verified and opened; `n` is the slot that checks it. (DEDUCED, unsafe: assumption 87) -/
def State.macsecIn (s : State) (d n : Nat) (m : BitVec 1024) (gen : Nat) : InRes :=
  let v := s.desc d
  match v.secTag with
  | none => InRes.fail s inFormat
  | some o =>
    let f := v.bytes
    let tci := byteAt f o
    let e := bit tci 3
    let hdrEnd := o + (if bit tci 5 then 14 else 6)
    let sl := byteAt f (o + 1) % 64
    let len := if sl = 0 then f.length - hdrEnd - 16 else sl
    let sci := macsecSci m f o
    let live := s.kg n KS.gen == gen
    let next := if live then s.kg n KS.count else rget m KS.count
    let pn := macsecPn m next (beAt f (o + 2) 4)
    let hdr := f.take hdrEnd
    let c := slice f hdrEnd len
    let icv := slice f (hdrEnd + len) 16
    let nonce := macsecNonce m sci pn
    let ks := matRound m
    if f.length < hdrEnd + len + 16 ∨ bit tci 7 ∨ e != bit tci 2 then InRes.fail s inFormat
    else if sci ≠ leBytes 8 (rget m KS.sci) then InRes.fail s inAuth
    else if pn = 0 ∨ pn + rget m KS.window < next then InRes.fail s inReplay
    else if icv ≠ (if e then Aes.gcmTag ks nonce hdr c else Aes.gcmTag ks nonce (hdr ++ c) []) then
      InRes.fail s inAuth
    else
      let plain := if e then Aes.gcmCrypt ks nonce c else c
      let g := f.take (o - 2) ++ plain
      let r := v.prec
      let before := r.hdrs.takeWhile (fun x => x.1 != 0x03)
      let rest := if e then [] else
        ((r.hdrs.dropWhile (fun x => x.1 != 0x03)).drop 1).map (fun x => (x.1, x.2 - (hdrEnd - (o - 2))))
      let tun := if r.tun = 0xFF ∨ rest.isEmpty then 0xFF else r.tun - 1
      let v := { v with bytes := g, decrypted := true, slot := some n,
                        prec := mkRec r (before ++ rest) tun (min r.payOff g.length) g.length }
      let s := s.setDesc d v
      InRes.ok (if live then s.setCount n (max next (pn + 1)) else s)

/-! ESP. -/

/-- Where an ESP header goes: behind the outer IPv4 header, or the outer IPv6 header with what must precede
it; with the IP header's ID and offset, and the place of the protocol field. -/
def Desc.espPlace (v : Desc) : Option (Nat × Nat × Nat × Nat) :=
  match ipOf v.prec.outer with
  | some ((0x07, o), _) => some (0x07, o, o + byteAt v.bytes o % 16 * 4, o + 9)
  | some ((h, o), r) =>
    let ext := r.takeWhile (fun e => e.1 == 0x09 || e.1 == 0x0A || e.1 == 0x0B)
    match ext.getLast? with
    | some (x, p) => some (h, o, p + statedLen v.bytes x p v.bytes.length, p)
    | none => some (h, o, o + 40, o + 6)
  | none => none

/-- Whether the packet is a fragment other than the first. -/
def Desc.laterFrag (v : Desc) : Bool :=
  match ipOf v.prec.outer with
  | some ((0x07, o), _) => beAt v.bytes (o + 6) 2 % 0x2000 != 0
  | some (_, r) => (r.takeWhile (fun e => isExt e.1)).any (fun e => e.1 == 0x0B && beAt v.bytes (e.2 + 2) 2 / 8 != 0)
  | none => false

/-- Where the IP packet ends. -/
def ipEnd (f : Bytes) (h o : Nat) : Nat := if h = 0x07 then o + beAt f (o + 2) 2 else o + 40 + beAt f (o + 4) 2

/-- The IP lengths and the IPv4 checksum after a change behind the header. -/
def fixIpLen (f : Bytes) (h o : Nat) : Bytes :=
  if h = 0x07 then sumIp4 (overlay f (o + 2) (beBytes 2 (f.length - o))) o
  else overlay f (o + 4) (beBytes 2 (f.length - o - 40))

/-- Additional data of ESP: SPI and the sequence number, whole with ESN (RFC 4106). (PRESUMED, unsafe: assumption 165) -/
def espAad (m : BitVec 1024) (seq : Nat) : Bytes :=
  leBytes 4 (rget m KS.spi) ++ (if rget m KS.extSeq = 1 then beBytes 8 seq else beBytes 4 seq)

/-- Growth of a packet under ESP. -/
def espGrow (m : BitVec 1024) (n : Nat) : Nat :=
  (if rget m KS.udp = 1 then 8 else 0) + 32 + (ceilDiv (n + 2) 4 * 4 - n)

def Desc.espOut (v : Desc) (m : BitVec 1024) (count : Nat) : Desc :=
  match v.espPlace with
  | none => v
  | some (h, o, p, pf) =>
    let f := v.bytes
    let plain := slice f p (ipEnd f h o - p)
    let pad := ceilDiv (plain.length + 2) 4 * 4 - plain.length - 2
    let body := plain ++ (List.range pad).flatMap (fun k => leBytes 1 (k + 1)) ++ leBytes 1 pad ++ slice f pf 1
    let iv := beBytes 8 count
    let nonce := matSalt m 4 ++ iv
    let ks := matRound m
    let c := Aes.gcmCrypt ks nonce body
    let esp := leBytes 4 (rget m KS.spi) ++ beBytes 4 count ++ iv ++ c ++ Aes.gcmTag ks nonce (espAad m count) c
    let udp := rget m KS.udp == 1
    let port := rget m KS.ports
    let u := if udp then beBytes 2 (port % 65536) ++ beBytes 2 (port / 65536) ++ beBytes 2 (esp.length + 8) ++ [0, 0]
      else []
    let g := overlay (f.take p) pf [if udp then 17 else 50] ++ u ++ esp
    let g := fixIpLen g h o
    let hdrs := v.prec.outer.filter (fun e => decide (e.2 < p)) ++ (if udp then [(0x0E, p)] else []) ++ [(0x11, p + u.length)]
    { v with bytes := g, prec := mkRec v.prec hdrs 0xFF (p + u.length + 8) g.length }

/-- The whole sequence number of a received one, for the highest authenticated (RFC 4303, appendix A). (PRESUMED, unsafe: assumption 165) -/
def espSeq (m : BitVec 1024) (top lo : Nat) : Nat :=
  if rget m KS.extSeq = 0 then lo
  else
    let th := top / 2 ^ 32
    let tl := top % 2 ^ 32
    if 1023 ≤ tl then (if tl - 1023 ≤ lo then th else th + 1) * 2 ^ 32 + lo
    else if (tl + 2 ^ 32 - 1023) ≤ lo ∧ th ≠ 0 then (th - 1) * 2 ^ 32 + lo
    else th * 2 ^ 32 + lo

/-- The anti-replay bitmap of a slot in HBM: the byte and the bit of a sequence number. -/
def State.espBit (s : State) (n q : Nat) : Nat × Nat :=
  (s.g SCARAB.REPLAY_BASE.ADDR + 128 * n + q % 1024 / 8, q % 8)
def State.espSeen (s : State) (n q : Nat) : Bool :=
  let b := s.espBit n q
  bit (tget 0 s.hbm b.1).toNat b.2
def State.espMark (s : State) (n q : Nat) (on : Bool) : State :=
  let b := s.espBit n q
  let v := (tget 0 s.hbm b.1).toNat
  { s with hbm := tset 0 s.hbm b.1 (BitVec.ofNat 8 (setBits v b.2 b.2 (b2n on))) }

/-- The window advances to a sequence number that has verified. -/
def State.espAdvance (s : State) (n top q : Nat) : State :=
  let s := (List.range (min 1024 (q - top))).foldl (fun s k => s.espMark n (q - k) false) s
  (s.espMark n q true).setCount n (max top q)

/-- (DEDUCED, unsafe: assumption 87) -/
def State.espIn (s : State) (d n : Nat) (m : BitVec 1024) (gen : Nat) : InRes :=
  let v := s.desc d
  let f := v.bytes
  match v.prec.outer.find? (fun e => e.1 == 0x11), v.espPlace with
  | some (_, eo), some (h, o, _, pf) =>
    let fin := ipEnd f h o
    let udp := v.prec.outer.any (fun e => e.1 == 0x0E && e.2 + 8 == eo)
    let live := s.kg n KS.gen == gen
    let top := if live then s.kg n KS.count else rget m KS.count
    let q := espSeq m top (beAt f (eo + 4) 4)
    let c := slice f (eo + 16) (fin - 16 - (eo + 16))
    let icv := slice f (fin - 16) 16
    let nonce := matSalt m 4 ++ slice f (eo + 8) 8
    let ks := matRound m
    let win := rget m KS.window != 0
    if fin < eo + 16 + 4 + 16 ∨ f.length < fin ∨ c.length % 4 ≠ 0 then InRes.fail s inFormat
    else if slice f eo 4 ≠ leBytes 4 (rget m KS.spi) then InRes.fail s inAuth
    else if win && (q == 0 || decide (q + 1024 ≤ top) || (decide (q ≤ top) && s.espSeen n q)) then
      InRes.fail s inReplay
    else if icv ≠ Aes.gcmTag ks nonce (espAad m q) c then InRes.fail s inAuth
    else
      let s := if !live then s else if win then s.espAdvance n top q else s.setCount n (max top q)
      let p := Aes.gcmCrypt ks nonce c
      let pad := byteAt p (p.length - 2)
      let nh := byteAt p (p.length - 1)
      let len := p.length - 2 - pad
      if p.length < pad + 2 ∨ slice p len pad ≠ (List.range pad).flatMap (fun k => leBytes 1 (k + 1)) then
        InRes.fail s inFormat
      else
        let at_ := if udp then eo - 8 else eo
        let g := fixIpLen (overlay (f.take at_) pf (leBytes 1 nh) ++ p.take len) h o
        let hdrs := v.prec.outer.filter (fun e => decide (e.2 < at_))
        let r := mkRec v.prec hdrs 0xFF at_ g.length
        InRes.ok (s.setDesc d { v with bytes := g, decrypted := true, slot := some n, prec := r })
  | _, _ => InRes.fail s inFormat

/-! TLS 1.3 (R306, R307). -/

/-- The stack whose TCP header a session works on, with the offsets of its IP and TCP headers. -/
def Desc.tcpAt (v : Desc) : Option ((Nat × Nat) × Nat) :=
  let in_ (l : List (Nat × Nat)) : Option ((Nat × Nat) × Nat) := match l4Of l, ipOf l with
    | some (0x0D, o), some (ip, _) => some (ip, o)
    | _, _ => none
  match in_ v.prec.outer with
  | some x => some x
  | none => in_ v.prec.inner

/-- Where a TCP payload starts and ends, and its sequence number. -/
def Desc.tcpPayload (v : Desc) : Option (Nat × Nat × Nat) :=
  v.tcpAt.map (fun e =>
    let p := e.2 + byteAt v.bytes (e.2 + 12) / 16 * 4
    (p, max p (min v.bytes.length (ipEnd v.bytes e.1.1 e.1.2)), beAt v.bytes (e.2 + 4) 4))

namespace TL
def seq : RF := ⟨31, 0⟩
def l : RF := ⟨35, 32⟩
def sync : RF := ⟨63, 63⟩
end TL

/-- TLS_STATE of the flow that a packet hit; an operation that a TLS_SYNC overtook has the old one in its
request (R309). (DESIGN CHOICE, unsafe: assumption 166) -/
def State.tlsOf (s : State) (d : Nat) (o : SOp) : Word :=
  if o.req.length = 24 then BitVec.ofNat 64 (leAt o.req 8 8)
  else
    let i := (s.desc d).flowIdx
    if i < flowMax ∧ ctxState (s.ctx i) = 1 then BitVec.ofNat 64 (rget (s.ctx i) FC.tls) else 0
def State.setTls (s : State) (d : Nat) (o : SOp) (w : Word) : State :=
  let i := (s.desc d).flowIdx
  if o.req.length = 24 ∨ flowMax ≤ i ∨ ctxState (s.ctx i) ≠ 1 then s
  else s.setCtx i (rput (s.ctx i) FC.tls w.toNat)

def tlsNonce (m : BitVec 1024) (r : Nat) : Bytes := Aes.xor (matSalt m 12) (beBytes 12 r)

/-- Records of 2^L bytes encrypted in place, from a record number on. -/
def tlsSealN (m : BitVec 1024) (ks : List Bytes) (size : Nat) : Nat → Nat → Bytes → Bytes
  | 0, _, _ => []
  | n + 1, r, b =>
    if b.isEmpty then []
    else
      let hdr := b.take 5
      let c := Aes.gcmCrypt ks (tlsNonce m r) (slice b 5 (size - 21))
      hdr ++ c ++ Aes.gcmTag ks (tlsNonce m r) hdr c ++ tlsSealN m ks size n (r + 1) (b.drop size)

/-- COUNT of a TLS transmit slot becomes the greater of its value and the record number after the last (R306). -/
def State.tlsCount (s : State) (n to_ : Nat) : State := if to_ ≤ s.kg n KS.count then s else s.setCount n to_

/-- (DEDUCED, unsafe: assumption 88) (DESIGN CHOICE, unsafe: assumption 166) -/
def State.tlsOut (s : State) (d n : Nat) (o : SOp) : InRes :=
  let v := s.desc d
  match v.tcpPayload, v.tcpAt with
  | some (p, e, sq), some (ip, to_) =>
    let t := s.tlsOf d o
    let l := rget t TL.l
    let size : Nat := 2 ^ l
    let base := if o.req.length = 24 then leAt o.req 16 8 else s.kg n KS.tlsBase
    let delta := sgn 32 (sq + 2 ^ 32 - rget t TL.seq)
    let len := e - p
    let r := (base : Int) + delta.tdiv (size : Int)
    let pay := slice v.bytes p len
    let recs := len / size
    let hdr := [0x17, 0x03, 0x03] ++ beBytes 2 (size - 5)
    if len = 0 then InRes.ok s
    else if rget t TL.sync = 0 ∨ len % size ≠ 0 ∨ delta.tmod (size : Int) ≠ 0 ∨ r < 0 ∨
        (List.range recs).any (fun k => slice pay (k * size) 5 != hdr) then InRes.fail s inFormat
    else
      let r := r.toNat
      if rget o.mat KS.hard < r + recs then ⟨inKey, stNonceExhausted, s⟩
      else
        let c := tlsSealN o.mat (matRound o.mat) size recs r pay
        let f := overlay v.bytes p c
        let f := sumL4 f (ip.1 == 0x08) ip.2 to_ (e - to_) (to_ + 16) 6
        let s := s.setDesc d { v with bytes := f, slot := some n }
        let s := if s.kg n KS.gen = o.gen then s.tlsCount n (r + recs) else s
        InRes.ok (if 2 ^ 30 ≤ delta ∧ o.req.length ≠ 24 then
          (s.setTls d o (rput t TL.seq sq)).kp n KS.tlsBase (base + (delta.tdiv (size : Int)).toNat) else s)
  | _, _ => InRes.fail s inFormat

/-- The walk over record headers: places of the records in the payload, the next header's place, and
whether every header was good. -/
def tlsWalk (b : Bytes) : Nat → Nat → List (Nat × Nat) × Nat × Bool
  | 0, at_ => ([], at_, true)
  | n + 1, at_ =>
    if b.length < at_ + 5 then ([], at_, true)
    else
      let len := beAt b (at_ + 3) 2
      if byteAt b at_ ≠ 0x17 ∨ beAt b (at_ + 1) 2 ≠ 0x0303 ∨ 16640 < len then ([], at_, false)
      else
        let r := tlsWalk b n (at_ + 5 + len)
        ((at_, len) :: r.1, r.2)

/-- The inner content type of an opened record: its last byte that is not zero. -/
def innerType (p : Bytes) : Nat := ((p.reverse.find? (fun b => b != 0)).map BitVec.toNat).getD 0

/-- Records opened in place: the payload, whether every tag verified, and whether every type was 23. -/
def tlsOpenN (m : BitVec 1024) (ks : List Bytes) : List (Nat × Nat) → Nat → Bytes → Bytes × Bool × Bool
  | [], _, b => (b, true, true)
  | (a, len) :: rest, r, b =>
    let hdr := slice b a 5
    let c := slice b (a + 5) (len - 16)
    let tag := slice b (a + 5 + (len - 16)) 16
    if len < 17 ∨ tag ≠ Aes.gcmTag ks (tlsNonce m r) hdr c then (b, false, true)
    else
      let p := Aes.gcmCrypt ks (tlsNonce m r) c
      let x := tlsOpenN m ks rest (r + 1) (overlay b (a + 5) p)
      (x.1, x.2.1, x.2.2 && innerType p == 23)

/-- (DESIGN CHOICE, unsafe: assumption 166) -/
def State.tlsIn (s : State) (d n : Nat) (o : SOp) : InRes :=
  let v := s.desc d
  match v.tcpPayload with
  | none => InRes.fail s inFormat
  | some (p, e, sq) =>
    let t := s.tlsOf d o
    let len := e - p
    let next := rget t TL.seq
    -- distance from the segment's first byte to the next header
    let ahead := sgn 32 (next + 2 ^ 32 - sq)
    let pay := slice v.bytes p len
    let count := if o.req.length = 24 then leAt o.req 16 8 else s.kg n KS.count
    if rget t TL.sync = 0 ∨ (len : Int) ≤ ahead then InRes.ok s
    else if ahead < 0 then InRes.ok (s.setTls d o (rput t TL.sync 0))
    else
      let w := tlsWalk pay (len + 1) ahead.toNat
      let old := o.req.length == 24
      let t' := rput t TL.seq (sq + w.2.1)
      let s := if old ∨ s.kg n KS.gen ≠ o.gen then s else s.setCount n (count + w.1.length)
      if !w.2.2 then InRes.passed (s.setTls d o (rput t' TL.sync 0))
      else
        let s := s.setTls d o t'
        if ahead ≠ 0 ∨ w.2.1 ≠ len then InRes.ok s
        else
          let x := tlsOpenN o.mat (matRound o.mat) w.1 count pay
          if !x.2.1 then InRes.fail (s.setTls d o (rput t' TL.sync 0)) inAuth
          else
            let s := s.setDesc d { v with bytes := overlay v.bytes p x.1, decrypted := true, slot := some n }
            InRes.ok (if x.2.2 then s else s.setTls d o (rput t' TL.sync 0))

/-! Starting and ending. -/

/-- Whether a packet lacks what a session's protocol needs. (DEDUCED, unsafe: assumption 87) -/
def Desc.sessionLacks (v : Desc) (proto : Nat) (enc : Bool) : Bool :=
  match proto, enc with
  | 0, true => decide (v.bytes.length < 14)
  | 0, false => v.secTag.isNone
  | 1, true => v.espPlace.isNone || v.laterFrag
  | 1, false => v.espPlace.isNone || v.laterFrag || !(v.prec.outer.any (fun e => e.1 == 0x11))
  | _, _ => v.tcpPayload.isNone

/-- Growth of a packet under an encrypting session. -/
def Desc.sessionGrow (v : Desc) (m : BitVec 1024) (proto : Nat) : Nat :=
  match proto with
  | 0 => 24 + 8 * rget m KS.sc
  | 1 => match v.espPlace with
    | some (h, o, p, _) => espGrow m (ipEnd v.bytes h o - p)
    | none => 0
  | _ => 0

/-- The slot of a session: a decrypting MACsec one takes its low bits from the frame's AN. -/
def Desc.sessionSlot (v : Desc) (w : Nat) : Nat :=
  match v.secTag with
  | some o => if seProto w = 0 ∧ !seEnc w then seSlot w / 4 * 4 + byteAt v.bytes o % 4 else seSlot w
  | none => seSlot w

/-- What an operation does to its packet once it may (R305–R307): a slot of another USE or direction is a
FORMAT failure. -/
def State.inlineRun (s : State) (d : Nat) (o : SOp) : InRes :=
  let w := leAt o.req 0 8
  let v := s.desc d
  let proto := seProto w
  let enc := seEnc w
  if o.fail ≠ 0 then ⟨inKey, o.fail, s⟩
  else if rget o.mat KS.use ≠ proto + 1 ∨ rget o.mat (if enc then KS.enc else KS.dec) = 0 then InRes.fail s inFormat
  else match proto, enc with
  | 0, true => InRes.ok (s.setDesc d { v.macsecOut o.mat o.count with slot := some o.slot })
  | 0, false => s.macsecIn d o.slot o.mat o.gen
  | 1, true => InRes.ok (s.setDesc d { v.espOut o.mat o.count with slot := some o.slot })
  | 1, false => s.espIn d o.slot o.mat o.gen
  | _, true => s.tlsOut d o.slot o
  | _, false => s.tlsIn d o.slot o

/-- An inline failure is counted once (R308). -/
def State.countInline (s : State) (kind : Nat) : State :=
  (match kind with
   | 1 => s.inc SCARAB.INLINE_FAIL0.AUTH
   | 2 => s.inc SCARAB.INLINE_FAIL0.REPLAY
   | 3 => s.inc SCARAB.INLINE_FAIL1.KEY
   | _ => s.inc SCARAB.INLINE_FAIL1.FORMAT).evt SCARAB.base 12

end Sys2Proof.Machine
end

