-- ==== Sys2Proof/Machine/Pass.lean ====
section
/-! DEFINITION. A pass of a packet through PARSE, CLASS and FLOW (R185–R188, R198–R201, R218, R219,
R230–R235, R238–R240), up to the Comb's admission queues. -/

namespace Sys2Proof.Machine

/-! Admission queues (R247): port and class 0–63, NET_TX WQs from 64, the instances of packets whose entry
is over, Hives. (DEDUCED, unsafe: assumption 78) -/
def State.admKey (s : State) (v : Desc) : Nat :=
  if v.src < 8 then 8 * v.src + v.tc
  else if v.src = 9 then 2 ^ 21 + (v.inst - 2048)
  else match (s.pkt v.pkt).work with
    | some w => 64 + w.wq
    | none => 2 ^ 20 + v.inst

/-- The admission queue that a packet stands in. -/
def State.admOf (s : State) (d : Nat) : Option Nat := (s.admq.find? (fun e => e.2.contains d)).map Prod.fst

/-- A packet takes its place in the admission queue of its source, where it waits until it is admitted (R247). (DEDUCED, unsafe: assumption 80) -/
def State.joinAdm (s : State) (d : Nat) : State :=
  match s.admOf d with
  | some _ => s
  | none =>
    let q := s.admKey (s.desc d)
    { s with admq := tset [] s.admq q (tget [] s.admq q ++ [d]) }

/-- A packet whose words are over stands ready in its admission queue. (DEDUCED, unsafe: assumption 80) -/
def State.toAdmission (s : State) (d : Nat) : State :=
  let s := s.joinAdm d
  let q := (s.admOf d).getD 0
  s.modDesc d (fun v => { v with place := .adm q, waitClk := 0, stuck := false, words := [], jump := [] })

/-! Punts. -/

/-- An admitted copy joins a queue of an egress (R266): the leaf of its NET_TX entry where that leaf is enabled and serves
the egress, else the class queue, which SCHED counts as a redirect. -/
def State.joinEgress (s : State) (e d : Nat) : State :=
  let v := s.desc d
  let c := classOf e v
  if v.psrc ≠ 8 then s.joinQueue c d
  else
    let q := leafKey ((v.txq.map Prod.snd).getD 0)
    if v.txq.isSome && s.nodeOn q && s.nd q NR.egress == e then s.joinQueue q d
    else ((s.inc SCHED.LEAF_REDIRECT.COUNT).evt SCHED.base 8).joinQueue c d

/-- An admitted punt joins the egress of the Hive that R239 chooses, or waits in the Comb for one. A punt that moves to
another Hive joins that Hive's egress as at admission. (DEDUCED, unsafe: assumption 137) -/
def State.puntGo (s : State) (d : Nat) : State :=
  let v := s.desc d
  match s.puntHive v.hash (if v.dk = 3 then some v.dest else none) with
  | some h => s.joinEgress (12 + h) d
  | none => { s.modDesc d (fun v => { v with place := .noHive }) with noHive := s.noHive ++ [d] }

/-- Reasons that are faults (R238). -/
def puntFault (r : Nat) : Bool := (decide (6 ≤ r) && decide (r ≤ 0x0A)) || r == 0x0C

/-- A packet is punted with a reason, the punting word's index and the Hive that is named, if any; it is admitted in its
queue's order like any other (R247, R266). (DEDUCED, unsafe: assumption 137) -/
def State.punt (s : State) (d reason word : Nat) (named : Option Nat) : State :=
  let s := s.modDesc d (fun v => { v with reason := reason, word := word, words := [], jump := [], again := true })
  let s := s.modDesc d (fun v => { v with dk := if named.isSome then 3 else 0, dest := named.getD 0, sub := 0 })
  let s := s.inc FLOW.PUNTS.PUNTS
  let s := if puntFault reason then
      let s := (s.inc FLOW.PUNTS.FAULTS).p FLOW.LAST_FAULT.REASON reason
      let s := s.p FLOW.LAST_FAULT.WORD word
      (s.p FLOW.LAST_FAULT.FLOW_INDEX (s.desc d).flowIdx).evt FLOW.base 11
    else s
  s.toAdmission d

/-- Punts that wait for a Hive look again (R239). -/
def State.resumePunts (s : State) : State :=
  let l := s.noHive
  l.foldl (fun s d => s.puntGo d) { s with noHive := [] }

/-- Packets queued on an egress. -/
def State.queuedOn (s : State) (e : Nat) : List Nat :=
  (s.noder.filter (fun x => isQueue x.1 && s.nd x.1 NR.egress == e)).flatMap (fun x => x.2.q)

/-- Punts queued for a Hive that is not in service move, in queue order, to the Hive that R239 then chooses
(R356). (DEDUCED, unsafe: assumption 137) -/
def State.hivesLeft (s : State) : State :=
  (List.range 12).foldl (fun s h =>
    if s.hiveIn h then s else (s.queuedOn (12 + h)).foldl (fun s d => (s.unlist d).puntGo d) s) s

/-! The words (R233). -/

/-- A MIRROR copy as the packet stands goes to its Swarm. (DESIGN CHOICE, unsafe: assumption 72) -/
def State.mirror (s : State) (d swarm : Nat) : State :=
  match s.copyDesc { s.desc d with dk := 4, dest := swarm, sub := 0, holds := false, words := [], jump := [] } with
  | some (c, s) => s.toAdmission c
  | none => s.inc COMB.COPY_SKIPPED.COUNT

/-- A PUNT with COPY. (DESIGN CHOICE, unsafe: assumption 72) -/
def State.puntCopy (s : State) (d word : Nat) (named : Option Nat) : State :=
  match s.copyDesc { s.desc d with copy := true } with
  | some (c, s) => s.punt c 0x03 word named
  | none => s.inc COMB.COPY_SKIPPED.COUNT

/-- Whether a pass hit the receive flow of an UP connection (R320). -/
def State.storFlow (s : State) (flow : Nat) : Bool :=
  flow != 0xFFFF_FFFF && s.connRec.any (fun e => getF e.2 7 0 == 1 && getF e.2 127 96 == flow)

/-- The end of the words: the destination acts (R234); a packet that hit the receive flow of an UP
connection goes to STOR, whatever its destination (R320). (DESIGN CHOICE, unsafe: assumption 72) -/
def State.finish (s : State) (d : Nat) : State :=
  let v := s.desc d
  if s.storFlow v.flowIdx then
    let s := s.unadmit d
    { s.modDesc d (fun v => { v with place := .stor, words := [], jump := [] }) with storIn := s.storIn ++ [d] }
  else
  match v.dk with
  | 0 => s.punt d 0x0B 0xFF none
  | 3 => s.punt d 0x02 0xFF (some v.dest)
  | 5 => (s.inc FLOW.DROPS.WORD).discard d
  | 1 => if s.instLive v.dest && s.instSealed v.dest then s.sealDiscard d v.dest else s.toAdmission d
  | 2 => (s.fillIpId d v.dest).toAdmission d
  | _ => s.toAdmission d

/-- Words of a LIST. -/
def State.listWords (s : State) (i : Nat) : List Nat :=
  if i < flowMax ∧ ctxState (s.ctx i) = 2 then ctxWords (s.ctx i) else []

/-- Words that a lookup read behind a JUMP among the words it gave (R229). -/
def State.jumpWords (s : State) (ws : List Nat) : List Nat :=
  match (runWords 17 0 ws).find? (fun e => wCode e.2 == 0x0F) with
  | some e => s.listWords (bits e.2 37 16)
  | none => []

/-- A packet of more than 16,380 bytes punts TOO_LONG (R235). -/
def tooLong (v : Desc) : Bool := decide (16380 < v.bytes.length)

/-- What one word does to a packet alone: the packet after it, or a punt reason. (DESIGN CHOICE, unsafe: assumption 160) -/
def State.editWord (s : State) (v : Desc) (w : Nat) (rest : List Nat) : Except Nat Desc :=
  let opt (r : Nat) (o : Option Desc) : Except Nat Desc := match o with
    | some x => if tooLong x && decide (v.bytes.length < x.bytes.length) then .error 0x06 else .ok x
    | none => .error r
  match wCode w with
  | 0x01 => match v.decap with
    | none => .error 0x09
    | some o => opt 0x08 o
  | 0x02 => match v.encap (s.template (bits w 31 16)) (bit w 8) (bits w 63 32) with
    | none => .error 0x06
    | some o => opt 0x08 o
  | 0x03 => opt 0x08 (v.setField (bits w 15 8) (bits w 63 16))
  | 0x04 => match rest with
    | a :: b :: _ => opt 0x08 (v.setAddr (bits w 15 8) (leBytes 8 a ++ leBytes 8 b))
    | _ => .error 0x08
  | 0x05 => opt 0x07 (v.vlanPush (bits w 47 32) (bits w 31 16))
  | 0x06 => opt 0x07 v.vlanPop
  | 0x07 => match v.decTtl (bit w 8) with
    | none => .error 0x08
    | some o => opt 0x05 o
  | 0x0C => .ok { v with dk := bits w 10 8, dest := bits w 29 16, sub := bits w 43 32 }
  | 0x0D => .ok { v with mark := bits w 63 32 }
  | _ => .ok v

/-- A SESSION word: the packet waits for its operation, or punts (R305). (DEDUCED, unsafe: assumption 163) -/
def State.startSession (s : State) (d w wi : Nat) : State :=
  let v := s.desc d
  let slot := v.sessionSlot w
  let grow := if seEnc w then v.sessionGrow (s.slotRec slot) (seProto w) else 0
  if v.sessionLacks (seProto w) (seEnc w) then s.punt d 0x08 wi none
  else if 16380 < v.bytes.length + grow then s.punt d 0x06 wi none
  else
    let dir := if !seEnc w then 0 else if seProto w = 2 then 2 else 1
    let s := s.modDesc d (fun v => { v with place := .flow })
    let x := s.newOp (.inline d) slot dir (ceilDiv v.bytes.length 16 + 2) v.inst (leBytes 8 w)
    x.2.modDesc d (fun v => { v with op := some x.1 })

/-- The words of a packet run until they end, stop, or wait for a session. -/
def State.run (s : State) (d : Nat) : Nat → State
  | 0 => s.finish d
  | n + 1 =>
    let v := s.desc d
    match v.words with
    | [] => s.finish d
    | w :: rest =>
      if conflict v.did w then s.punt d 0x0A v.wi none
      else
        let skip := if wCode w = 0x04 then 3 else 1
        let step (x : Desc) : Desc :=
          { x with words := rest.drop (skip - 1), wi := v.wi + skip, did := wMark w :: v.did }
        match wCode w with
        | 0x00 => s.finish d
        | 0x0E => (s.inc FLOW.DROPS.WORD).discard d
        | 0x0F =>
          (s.setDesc d { step v with words := v.jump, jump := [], wi := 16 }).run d n
        | 0x08 =>
          let (c, s) := s.meter (bits w 31 16) v.bytes.length
          if c = 2 then (s.inc FLOW.DROPS.RED).discard d
          else if c = 1 ∧ bits w 33 32 = 1 then
            match v.setDscp (bits w 45 40) with
            | some x => (s.setDesc d (step x)).run d n
            | none => s.punt d 0x08 v.wi none
          else (s.setDesc d (step v)).run d n
        | 0x09 => ((s.setDesc d (step v)).mirror d (bits w 29 16)).run d n
        | 0x0A => (s.setDesc d (step v)).startSession d w v.wi
        | 0x0B =>
          let named := if bit w 9 then some (bits w 19 16) else none
          if bit w 8 then ((s.setDesc d (step v)).puntCopy d v.wi named).run d n
          else s.punt d 0x03 v.wi named
        | _ => match s.editWord v w rest with
          | .ok x => (s.setDesc d (step x)).run d n
          | .error r => s.punt d r v.wi none

/-- At most 16 words run before a JUMP and 16 after it. -/
def runFuel : Nat := 34

/-! FLOW (R230, R231). -/

/-- A learned insertion (R231). (DESIGN CHOICE, unsafe: assumption 74) -/
def State.learn (s : State) (v : Desc) : State :=
  let p := s.profile v.cr.kp
  let skip (s : State) : State := (s.inc FLOW.LEARN.SKIPPED).evt FLOW.base 9
  if s.learnClk ≠ 0 ∧ s.edryn.clk + 1 ≤ s.learnClk + 10 then skip s
  else
    let act := if v.cr.alist = 0xFFFF_FFFF then 0 else 0x0F + v.cr.alist * 65536
    let r := rput (rput (0 : BitVec 2048) FC.owner (rget p KP.owner)) FC.idle (rget p KP.idle)
    let r := rput (rput (rput r FC.key (leNat v.key)) FC.mark v.cr.mark) (FC.act 0) act
    let x := s.insertFlow r true
    if x.1.status ≠ stOk then skip s
    else
      let s := State.inc { x.2 with learnClk := s.edryn.clk + 1 } FLOW.LEARN.LEARNED
      s.notice 0x10 x.1.index v.cr.rule (s.ctx x.1.index)

/-- A hit: counters, words and mark (R230). Whether the flow cache held the context is left open. -/
def State.hitFlow (s : State) (d i : Nat) : State :=
  let v := s.desc d
  let r := s.ctx i
  let r := rput r FC.pkts (satAdd 64 (rget r FC.pkts) 1)
  let r := rput r FC.bytes (satAdd 64 (rget r FC.bytes) v.prec.frameLen)
  let r := rput r FC.last (v.ts / 65536)
  let s := s.setCtx i r
  let (x, s) := s.fresh
  let s := s.inc (if bit x.toNat 0 then FLOW.CACHE.HIT else FLOW.CACHE.FILL)
  s.modDesc d (fun v => { v with flowIdx := i, mark := rget r FC.mark, words := ctxWords r, jump := s.jumpWords (ctxWords r) })

/-- `flow_pass` of R230, on the pass's key, hash and CLASS result. (DESIGN CHOICE, unsafe: assumption 74) -/
def State.flowPass (s : State) (d : Nat) : State :=
  let v := s.desc d
  let r := v.cr
  let v' := { v with place := .flow, dk := r.dk, dest := r.dest, sub := r.sub, mark := r.mark, flowIdx := 0xFFFF_FFFF }
  let ws := s.listWords r.alist
  let s := s.setDesc d { v' with words := ws, jump := s.jumpWords ws, wi := 0, did := [], reason := 0 }
  if !r.lookup then s.run d runFuel
  else match s.findFlow v.key v.hash with
    | some i => ((s.inc FLOW.LOOKUP.HIT).hitFlow d i).run d runFuel
    | none =>
      let s := s.inc FLOW.LOOKUP.MISS
      if r.dk = 0 then s.punt d (if v.again then 0x0C else 0x01) 0xFF none
      else
        let s := if rget (s.profile r.kp) KP.learn = 1 then s.learn v else s
        s.run d runFuel

/-- A re-injected packet: a VALID index runs its words, any other repeats the pass (R240). (DESIGN CHOICE, unsafe: assumption 159) -/
def State.reinjectPass (s : State) (d i : Nat) : State :=
  let s := s.modDesc d (fun v => { v with again := true, holds := true })
  if i < flowMax ∧ ctxState (s.ctx i) = 1 then
    let r := (s.desc d).cr
    let s := s.modDesc d (fun v => { v with place := .flow, dk := r.dk, dest := r.dest, sub := r.sub, wi := 0, did := [] })
    (s.hitFlow d i).run d runFuel
  else s.flowPass d

/-! CLASS and PARSE. -/

/-- The key and the hash under a profile (R223). -/
def State.withKey (s : State) (v : Desc) (p : Nat) : Desc :=
  let k := s.flowKey v p
  { v with key := k, hash := s.flowHash k }

/-- The classification of a pass, and what CLASS does alone (R218, R219). -/
def State.classPass (s : State) (d : Nat) : State :=
  let x := s.classify (s.desc d)
  let cr := x.1
  let s := x.2
  let s := s.setDesc d (s.withKey { s.desc d with cr := cr } cr.kp)
  if cr.dk = 5 && !cr.lookup then (s.inc CLASS.DROPPED.COUNT).discard d
  else if cr.dk == 1 && !cr.lookup && s.instLive cr.dest && s.instSealed cr.dest then s.sealDiscard d cr.dest
  else s.flowPass d

/-- What PARSE does with a pass's class (R199, R200). (DESIGN CHOICE, unsafe: assumption 160) -/
def State.classAct (s : State) (d : Nat) : State :=
  let v := s.desc d
  let r := v.prec
  if r.cls = 0 then s.classPass d
  else
    let a := classAction (s.cfgOf v.ver) v.psrc r.cls
    let s := s.countExc v a
    match a with
    | 0 => ((s.inc (if r.cls = 1 then PARSE.DROP.TRUNC v.psrc else PARSE.DROP.MALF v.psrc)).evt PARSE.base 10).discardAs d
        stMalformed
    | 1 => (s.setDesc d (s.withKey { v with cr := { ClsRes.none with lookup := true } } 0)).punt d 0x04 0xFF none
    | _ => s.classPass d

/-- The record of a pass with its first two VLAN tags. -/
def Desc.withRec (v : Desc) (r : PRec) : Desc :=
  let t := (vlansOf r.outer).map (fun e => beAt v.bytes e.2 2)
  { v with prec := r, rec0 := r, vlans := t.getD 0 0 + 65536 * t.getD 1 0 }

/-- A first pass (R186, R171): version and, for sources 8 and 9, time are stamped, checksums inserted. A
packet that a Hive sends with DIRECT has its destination already and takes no action. One transmitted from a
held handle keeps its version and time, which R21 fixes once (R357). (DEDUCED, unsafe: assumption 73) -/
def State.firstPass (s : State) (d : Nat) : State :=
  let v := s.desc d
  let v := if v.by9 then v else
    { v with ver := s.seq, holds := true, ts := if v.src < 8 then v.ts else quant125 s.edryn.time }
  let c := s.cfgOf v.ver
  let r := parseFrame c v.bytes
  let k := match (s.pkt v.pkt).work with
    | some w => w.csum
    | none => 0
  let f := if v.psrc = 8 then insertCsums v.bytes r (bit k 0) (bit k 1) else v.bytes
  let v := { v with bytes := f }.withRec (if f = v.bytes then r else parseFrame c f)
  let s := s.setDesc d v
  if v.dk ≠ 0 then
    let s := if v.prec.cls = 0 then s else s.countExc v 3
    s.finish d
  else s.classAct d

/-- A re-entry after inline decryption (R22, R201). (DEDUCED, unsafe: assumption 73) -/
def State.rePass (s : State) (d : Nat) : State :=
  let v := s.desc d
  let r := if v.re then { v.prec with cls := 2, reason := 0x70, exc := 0 } else parseFrame (s.cfgOf v.ver) v.bytes
  (s.setDesc d ({ v with re := true, again := false }.withRec r)).classAct d

/-! The pipeline's gate (R42, R49, R402). -/

/-- Whether PARSE, CLASS and FLOW take packets. (DESIGN CHOICE, unsafe: assumption 59) -/
def State.pipeUp (s : State) : Bool :=
  s.domUp 1 && s.inService PARSE.base && s.inService CLASS.base && s.inService FLOW.base

def State.goPass (s : State) (d : Nat) : State :=
  match (s.desc d).place with
  | .pipeRe => s.rePass d
  | .pipeFlow => s.reinjectPass d (s.desc d).flowIdx
  | _ => s.firstPass d

/-- A packet enters the pipeline, or waits for it. (DESIGN CHOICE, unsafe: assumption 59) -/
def State.enterPipe (s : State) (d : Nat) (p : Place) : State :=
  let s := (s.modDesc d (fun v => { v with place := p })).joinAdm d
  match s.transfer 0 1 (xferPkt d) with
  | (.go, s) => if s.pipeUp then s.goPass d else { s with pipeWait := s.pipeWait ++ [d] }
  | (_, s) => { s with pipeWait := s.pipeWait ++ [d] }

/-- Packets that wait for the pipeline enter it in order. -/
def State.resumePipe (s : State) : State :=
  if !s.pipeUp then s
  else
    let l := s.pipeWait
    l.foldl (fun s d => (s.dropXfer 1 (xferPkt d)).goPass d) { s with pipeWait := [] }

/-- A Hive re-injects a packet with a flow index (R240). -/
def State.reinject (s : State) (d i : Nat) : State :=
  (s.modDesc d (fun v => { v with flowIdx := i, viaHive := true, reason := 0, word := 0xFF, copy := false })).enterPipe d .pipeFlow

/-! The end of an inline operation (R308). -/

/-- An inline operation on a packet is over: its result acts, and the words go on. (DEDUCED, unsafe: assumption 87) -/
def State.inlineDone (s : State) (k : Nat) (o : SOp) (d : Nat) : State :=
  let w := leAt o.req 0 8
  let x := s.inlineRun d o
  let s := x.st.endOp k
  let s := s.modDesc d (fun v => { v with op := none })
  if x.kind ≠ 0 ∧ x.status = stSquashed then
    -- removed by a squash (R156): an owed completion says so, other work is counted
    if (s.desc d).main && (s.pkt (s.desc d).pkt).work.isSome then s.discardAs d stSquashed
    else (s.satRef o.inst IR.squashed 1).releaseDesc d
  else
  let s := if x.kind = 0 then s else s.countInline x.kind
  if x.kind = 0 ∨ (x.kind = inFormat ∧ x.status = stOk) then
    if x.kind = 0 ∧ !seEnc w ∧ seRe w ∧ (s.desc d).decrypted then s.enterPipe d .pipeRe
    else s.run d runFuel
  else if seEnc w then s.discardAs d x.status else s.discard d

end Sys2Proof.Machine
end

