-- ==== Sys2Proof/Machine/Comb.lean ====
section
/-! DEFINITION. COMB: admission (R247–R249, R258, R260), the grant of a NET_TX entry's cells (R257, R275), stuck
packets and pause storms (R248, R256), and the tables of COMB (R249–R252). -/

namespace Sys2Proof.Machine

/-! Holds of Beeline (R283). -/

/-- Whether a descriptor is a timed packet that has not been launched or handed on. -/
def Desc.waitsTimed (v : Desc) : Bool :=
  v.launch.isSome && (match v.place with
    | .wire _ => false
    | .held _ => false
    | _ => true)

/-- FABRIC and COMB stay in RUN while a timed packet is pending, and so do the groups of its port's lanes. -/
def State.syncBee (s : State) : State :=
  let ws := s.descs.filter (fun e => e.2.waitsTimed)
  let any := s.g BEELINE.PENDING.COUNT != 0 || !ws.isEmpty
  let s := (s.setHold 1 1 any).setHold 2 1 any
  (List.range 4).foldl (fun s g =>
    s.setHold (5 + g) 1 (ws.any (fun e => e.2.dk == 2 && (s.portDoms e.2.dest).contains (5 + g)))) s

/-! The grant of cells (R257). -/

/-- Whether a NET_TX entry's own instance keeps it from its cells or from its place in Beeline. -/
def State.cellsOver (s : State) (c : CellWait) : Bool :=
  let i := s.wqInst c.wq
  decide (s.ri i IR.combLimit < s.ri i IR.refComb + c.cells) ||
    (c.timed && decide (s.ri i IR.beelineQuota ≤ s.ri i IR.beelineUsed))

/-- Whether a waiting entry may still start: its WQ runs and its link is open. -/
def State.cellAsked (s : State) (c : CellWait) : Bool :=
  (s.wqg c.wq WQ.state == rActive || s.wqg c.wq WQ.state == rWaitCr) && !s.instSealed (s.wqInst c.wq)

/-- The waiting entry to which the next grant goes, and whether the Beeline reserve gives its cells. Entries are
granted in the order in which they began to wait; one that its own instance's limit or quota holds up holds up
that instance's later entries and no other's (R160). (DEDUCED, unsafe: assumption 65) -/
def State.grantNext (s : State) : List CellWait → List Nat → Bool → Option (CellWait × Bool)
  | [], _, _ => none
  | c :: r, held, short =>
    let i := s.wqInst c.wq
    let rsv := c.timed && decide (s.g COMB.BEELINE_RSV.USED + c.cells ≤ s.g COMB.BEELINE_RSV.CELLS)
    if !s.cellAsked c then s.grantNext r held short
    else if held.contains i || s.cellsOver c then s.grantNext r (i :: held) short
    else if c.timed && decide (262144 ≤ s.g BEELINE.PENDING.COUNT) then s.grantNext r (i :: held) short
    else if !rsv && (short || decide (s.poolFree < c.cells)) then s.grantNext r held true
    else some (c, rsv)

namespace TX
def launch : RF := byF 8 15
def leaf : RF := byF 16 17
def tc : RF := biF 18 2 0
def len : RF := byF 20 23
def addr0 : RF := byF 24 31
def len0 : RF := byF 32 35
def addr1 : RF := byF 40 47
def len1 : RF := byF 48 51
def nseg : RF := biF 0 17 16
def csum : RF := biF 0 13 12
end TX

/-- Address and length of each element of a list of 16-byte elements (R171). -/
def gatherN : Nat → Bytes → List (Nat × Nat)
  | 0, _ => []
  | n + 1, b => (leAt b 0 8, leAt b 8 4) :: gatherN n (b.drop 16)

/-- The host ranges of a NET_TX entry's frame. -/
def txRanges (e : Ent) : List (Nat × Nat) :=
  if rget e.raw EN.opcode = 2 then gatherN (e.list.length / 16) e.list
  else (rget e.raw TX.addr0, rget e.raw TX.len0) ::
    (if rget e.raw TX.nseg = 2 then [(rget e.raw TX.addr1, rget e.raw TX.len1)] else [])

/-- A NET_TX entry starts with its cells: charges, and the read of its frame (R257, R275). -/
def State.startTx (s : State) (c : CellWait) (rsv : Bool) : State :=
  let i := s.wqInst c.wq
  match s.ent c.wq c.index with
  | none => s
  | some e =>
    let s := s.addRef i IR.refComb c.cells
    let s := if rsv then s.p COMB.BEELINE_RSV.USED (s.g COMB.BEELINE_RSV.USED + c.cells)
      else s.takePool c.cells
    let s := if c.timed then
        ((s.addRef i IR.beelineUsed 1).addRef i IR.refBeeline 1).setPending (s.g BEELINE.PENDING.COUNT + 1)
      else s
    let w : TxWork := ⟨c.wq, c.index, s.ri i IR.leafBase + rget e.raw TX.leaf, 0, false, rget e.raw TX.csum, c.timed⟩
    let x := s.addPkt { Pkt.none with cells := c.cells, rsv := rsv, sender := some i, work := some w }
    let s := x.2.setEnt c.wq { e with phase := 3, data := x.1 }
    (s.startRead (.data c.wq c.index) i (txRanges e)).syncBee

/-- A frame that has been read takes its descriptor and enters the pipeline (R245). -/
def State.formTx (s : State) (k : Nat) : State :=
  match (s.pkt k).work with
  | none => s
  | some w =>
    let r := s.workEnt w
    let s := s.modPkt k (fun p => { p with refs := 1 })
    let (d, s) := s.addDesc { Desc.empty with
      pkt := k, bytes := (s.pkt k).bytes, src := 8, inst := s.wqInst w.wq, tc := rget r TX.tc, txq := some (w.wq, w.leaf),
      launch := if rget r EN.timed = 1 then some (rget r TX.launch) else none }
    s.enterPipe d .pipe

/-- CELL_RESERVE_GRANT: a frame that was read and found no descriptor takes the first that is free (a case that the spec
does not treat); else the next entry in order starts with its cells. (DESIGN CHOICE, unsafe: assumption 138) -/
def execCellReserveGrant (s : State) : Host.Outcome State Fault Refusal :=
  done s (match s.pkts.find? (fun e => e.2.refs == 0 && !e.2.bytes.isEmpty) with
    | some (k, _) => if s.descFree = 0 then s else s.formTx k
    | none => match s.grantNext s.cellWait [] false with
      | some (c, rsv) => State.startTx { s with cellWait := s.cellWait.filter (fun x => x != c) } c rsv
      | none => s)

/-! Destinations (R248, R249). -/

/-- Why a destination is skipped: 0 not, 1 sealed, 2 squashed, 3 its own source, 4 no NET_RX WQ, 5 no kind. (DESIGN CHOICE, unsafe: assumption 161) -/
def State.skipWhy (s : State) (v : Desc) (k dest sub : Nat) (skipSrc : Bool) : Nat :=
  match k with
  | 1 =>
    if !s.instLive dest then 4
    else if s.instSealed dest then 1
    else if (tget InstCmd.none s.instCmd dest).squash then 2
    else if skipSrc && v.src == 8 && v.inst == dest then 3
    else if s.ri dest IR.nwq ≤ sub || s.wqg (s.ri dest IR.wqBase + sub) WQ.type != 1 then 4
    else 0
  | 2 => if skipSrc && v.src == dest then 3 else 0
  | _ => 5

def memberAt (s : State) (i : Nat) : Nat := tget 0 s.members i

/-- The destinations of a packet, each with why it is skipped. (DESIGN CHOICE, unsafe: assumption 161) -/
def State.expand (s : State) (v : Desc) : List (Nat × Nat × Nat × Nat) :=
  if v.dk = 4 then
    let g := tget 0 s.groups v.dest
    (List.range (bits g 27 18)).map (fun i =>
      let m := memberAt s (bits g 17 0 + i)
      (bits m 2 0, bits m 18 8, bits m 31 20,
        s.skipWhy v (bits m 2 0) (bits m 18 8) (bits m 31 20) (bit m 32)))
  else [(v.dk, v.dest, v.sub, s.skipWhy v v.dk v.dest v.sub false)]

/-- The account that a destination charges. -/
def destKey (k dest sub : Nat) : Nat := if k = 1 then dest else 4096 + 8 * dest + sub % 8

/-- Whether a destination's charge keeps a packet from admission. -/
def State.destOver (s : State) (cells : Nat) (d : Nat × Nat × Nat × Nat) : Bool :=
  if d.1 = 1 then decide (s.ri d.2.1 IR.combLimit < s.ri d.2.1 IR.refComb + cells)
  else decide (s.ag (8 * d.2.1 + d.2.2.1 % 8) PA.egrLimit < s.ag (8 * d.2.1 + d.2.2.1 % 8) PA.egr + cells)

/-- Whether a packet waits in its admission queue. -/
def State.admWait (s : State) (cells : Nat) (ds : List (Nat × Nat × Nat × Nat)) : Bool :=
  ds.any (s.destOver cells) || decide (s.descFree < ds.length)

/-- A destination instance whose whole limit a packet exceeds (R248). -/
def State.tooWide (s : State) (cells : Nat) (ds : List (Nat × Nat × Nat × Nat)) : Option Nat :=
  (ds.find? (fun d => d.1 == 1 && decide (s.ri d.2.1 IR.combLimit < cells))).map (fun d => d.2.1)

/-- A skip is counted (R117, R156, R248, R249). -/
def State.countSkip (s : State) (swarm : Bool) (x : Nat × Nat × Nat × Nat) : State :=
  let i := x.2.1
  if x.2.2.2 = 4 then (s.inc COMB.DEST_SKIP.COUNT).evt COMB.base 13
  else
    let s := if swarm then (s.inc COMB.SWARM_SKIP.COUNT).evt COMB.base 11 else s
    if x.2.2.2 = 1 then s.inc (HOSTLINK.SEALED_DISCARD.COUNT (s.linkOf i))
    else if x.2.2.2 = 2 then s.satRef i IR.squashed 1 else s

/-! ECN (R260). -/

/-- One step of the LFSR. -/
def lfsrStep (v : Nat) : Nat := v / 2 + ((v ^^^ v / 4 ^^^ v / 8 ^^^ v / 32) % 2) * 32768

/-- Whether a destination's probability exceeds the LFSR's value over 65,536. -/
def State.ecnOver (s : State) (x : Nat) (k dest sub : Nat) : Bool :=
  let ovr (o lo hi : Nat) : Bool := decide (x * (hi - lo) < (o - lo) * 65536) && decide (lo < hi)
  if k = 2 then
    let a := 8 * dest + sub % 8
    ovr (s.ag a PA.egr) (s.ag a PA.ecnMin) (s.ag a PA.ecnMax)
  else
    let l := s.ri dest IR.combLimit
    s.g COMB.INST_ECN.MAX_PCT != 0 &&
      ovr (100 * s.ri dest IR.refComb) (s.g COMB.INST_ECN.MIN_PCT * l) (s.g COMB.INST_ECN.MAX_PCT * l)

/-- The outermost IP header of a packet as it leaves: the O_TOS or the I_TOS field. -/
def Desc.outerTos (v : Desc) : Nat := if (ipOf v.prec.outer).isSome then 0x19 else 0x39

def State.ecnMark (s : State) (d : Nat) (ds : List (Nat × Nat × Nat × Nat)) : State :=
  let s := { s with lfsr := lfsrStep s.lfsr }
  let v := s.desc d
  let e := (keyField v v.outerTos).getD 0 % 4
  if (e = 1 ∨ e = 2) ∧ ds.any (fun x => s.ecnOver s.lfsr x.1 x.2.1 x.2.2.1) then
    ds.foldl (fun s x =>
      if x.1 = 2 then
        let a := 8 * x.2.1 + x.2.2.1 % 8
        s.ap a PA.marked (satAdd 64 (s.ag a PA.marked) 1)
      else s) (s.setDesc d (v.setCe v.outerTos))
  else s

/-! Admission (R248, R258, R266). -/

/-- An admitted copy joins its queue. -/
def State.joinCopy (s : State) (d k dest sub : Nat) : State :=
  let s := s.modDesc d (fun v => { v with dk := k, dest := dest, sub := sub, admNs := s.ns, waitClk := 0, holds := false })
  let s := if k = 2 then s.fillIpId d dest else s
  s.joinEgress (if k = 2 then dest else 8 + s.linkOf dest) d

/-- The copies of a packet beyond the first take descriptors of their own. -/
def State.joinAll (s : State) (v : Desc) (d : Nat) : List (Nat × Nat × Nat × Nat) → State
  | [] => s
  | x :: r =>
    let s := match s.copyDesc v with
      | some (c, s) => (s.modDesc c (fun y => { y with main := v.main && x.1 == 2 })).joinCopy c x.1 x.2.1 x.2.2.1
      | none => s
    s.joinAll v d r

/-- The sender's side of an admission (R25, R258): completion where no copy leaves through a port. -/
def State.admSender (s : State) (d : Nat) (ds : List (Nat × Nat × Nat × Nat)) : State :=
  let v := s.desc d
  let ports := (ds.filter (fun x => x.1 == 2)).length
  if !v.main then s
  else
    let s := s.endHive v.pkt
    if ports = 0 then s.txComplete v.pkt stOk 0 s.ns v.bytes.length v.ver 0x80
    else s.modPkt v.pkt (fun p => { p with work := p.work.map (fun w => { w with left := ports }) })

/-- The packet at an admission queue's head is admitted, released, or waits; a punt is admitted to the Hive's egress. The
time for which it has waited on an instance's whole limit is noted. (DEDUCED, unsafe: assumption 80) -/
def State.admitPkt (s : State) (d : Nat) : State :=
  let v := s.desc d
  if v.reason ≠ 0 then
    if s.descFree = 0 then s
    else ((((s.unadmit d).endHive v.pkt).modDesc d (fun v => { v with admNs := s.ns })).puntGo d).syncBee
  else
  let all := s.expand v
  let ds := all.filter (fun x => x.2.2.2 == 0)
  let cells := (s.pkt v.pkt).cells
  if s.admWait cells ds then
    if v.waitClk = 0 && (s.tooWide cells ds).isSome then s.modDesc d (fun v => { v with waitClk := s.edryn.clk + 1 }) else s
  else
    let s := s.unadmit d
    let swarm := v.dk == 4
    let s := (all.filter (fun x => x.2.2.2 != 0)).foldl (fun s x => s.countSkip swarm x) s
    let s := if swarm && all.isEmpty then (s.inc COMB.SWARM_SKIP.COUNT).evt COMB.base 11 else s
    match ds with
    | [] => if !swarm ∧ all.any (fun x => x.2.2.2 == 1) then s.discardAs d stSealed else s.discard d
    | x :: r =>
      let s := ds.foldl (fun s y => s.chargeDest (destKey y.1 y.2.1 y.2.2.1) cells) s
      let s := s.modPkt v.pkt (fun p => { p with dests := p.dests ++ ds.map (fun y => destKey y.1 y.2.1 y.2.2.1) })
      let s := s.ecnMark d ds
      let s := s.admSender d ds
      let v := s.desc d
      let s := s.modDesc d (fun y => { y with main := v.main && x.1 == 2 })
      ((s.joinCopy d x.1 x.2.1 x.2.2.1).joinAll v d r).syncBee

/-- Whether a packet's words are over, so that it may be admitted (R247). -/
def Desc.ready (v : Desc) : Bool := match v.place with
  | .adm _ => true
  | _ => false

/-- ADMISSION of the queue with a key: the Comb and SCHED are in service and awake, and the queue's head is ready. -/
def execAdmission (q : Nat) (s : State) : Host.Outcome State Fault Refusal :=
  done s (match tget [] s.admq q with
    | [] => s
    | d :: _ =>
      if !(s.desc d).ready || !s.inService COMB.base || !s.inService SCHED.base then s
      else match s.transfers (xferPkt d) [1, 2] with
        | (.go, s) => s.admitPkt d
        | (_, s) => s)

/-- A packet with more cells than a destination instance's COMB_LIMIT that has waited 1 ms (R248). (DEDUCED, unsafe: assumption 80) -/
def execStuckDetect (q : Nat) (s : State) : Host.Outcome State Fault Refusal :=
  done s (match tget [] s.admq q with
    | [] => s
    | d :: _ =>
      let v := s.desc d
      let cells := (s.pkt v.pkt).cells
      match s.tooWide cells ((s.expand v).filter (fun x => x.2.2.2 == 0)) with
      | none => s
      | some i =>
        if !v.ready ∨ v.reason ≠ 0 ∨ v.waitClk = 0 ∨ v.stuck ∨ s.edryn.clk + 1 - v.waitClk < 1_500_000 then s
        else
          let s := (s.p COMB.STUCK.INSTANCE i).p COMB.STUCK.CELLS cells
          (s.modDesc d (fun v => { v with stuck := true })).evt COMB.base 10)

/-- A pause of egress (p, t) that has lasted WATCHDOG.MS without a break (R256). -/
def execPauseStorm (p t : Nat) (s : State) : Host.Outcome State Fault Refusal :=
  let v := s.portSt p
  let from_ := tget 0 v.pauseFrom t
  done s (if 8 ≤ p ∨ 8 ≤ t ∨ !bit (s.g (PORT.STAT.PAUSED p)) t ∨ from_ = 0 ∨ bit v.stormed t ∨
      s.g COMB.WATCHDOG.MS = 0 ∨ s.edryn.clk + 1 - from_ < s.g COMB.WATCHDOG.MS * 1_500_000 then s
    else
      let s := (s.p COMB.WATCHDOG.PORT p).p COMB.WATCHDOG.TC t
      (s.setPort p { v with stormed := setBits v.stormed t t 1 }).evt COMB.base 9)

/-! Tables (R249–R252). -/

/-- Cells that the shared pool must keep (R250). -/
def poolMin : Nat := 16384

/-- Whether a state's carve leaves the shared pool large enough. -/
def State.carveOk (s : State) : Bool := decide (s.carved + s.repair.retired + poolMin ≤ combCells)

/-- A WRITE of a port account (R250, R253). (DEDUCED, unsafe: assumption 77) -/
def State.writeAcct (s : State) (k : Nat) (d : BitVec 512) : TapRes :=
  let old := s.acct k
  let r := BitVec.ofNat 512 (getF d 191 0 + getF old 511 192 * 2 ^ 192)
  let t := { s with accts := tset acctDefault s.accts k r }
  if rget r PA.xoff < rget r PA.xon ∨ rget r PA.ecnMax ≤ rget r PA.ecnMin ∨
      !t.carveOk ∨ (rget r PA.hdrm ≠ 0 ∧ s.g (PORT.MAC_CFG.PFC_EN (k / 8)) = 0 ∧ !s.pauseEn (k / 8))
  then TapRes.bad s else TapRes.of (s.poolMoved t) stOk

/-! Fields of an applied peer window (R120). -/
namespace PW
def en : RF := ⟨0, 0⟩
def wr : RF := ⟨1, 1⟩
def rd : RF := ⟨2, 2⟩
def base : RF := ⟨29, 16⟩
def log2 : RF := ⟨36, 32⟩
def kind : RF := ⟨65, 64⟩
def hive : RF := ⟨71, 68⟩
def region : RF := ⟨79, 72⟩
def off : RF := ⟨106, 96⟩
def rid : RF := ⟨143, 128⟩
def ridMask : RF := ⟨159, 144⟩
end PW

/-- Whether an applied peer window of any link targets a reserve region. -/
def State.windowsOn (s : State) (r : Nat) : Bool :=
  s.peerWin.any (fun e => rget e.2 PW.en == 1 && rget e.2 PW.kind == 0 && rget e.2 PW.region == r)

/-- A WRITE of a reserve region's size (R252): its content is zeroed. -/
def State.writeRegion (s : State) (r size : Nat) : TapRes :=
  let t := { s with rsvSize := tset 0 s.rsvSize r size,
                    rsvMem := s.rsvMem.filter (fun e => e.1 / 2 ^ 24 != r) }
  if 256 < size then TapRes.bad s
  else if s.g (COMB.RSV_CLAIM.OWNER r) ≠ 0 || s.windowsOn r then TapRes.of s stBusy
  else if !t.carveOk then TapRes.bad s
  else TapRes.of (s.poolMoved t) stOk

/-- A Swarm member as R249 allows it. -/
def memberOk (w : Nat) : Bool :=
  bits w 2 0 == 1 || (bits w 2 0 == 2 && decide (bits w 18 8 < 8) && decide (bits w 31 20 < 8))

def State.tapComb (s : State) (op : TapOp) (t i c : Nat) (d : BitVec 512) : TapRes :=
  let w := getF d 63 0
  let lim := if t = 0 then 64 else if t = 1 then 16384 else if t = 2 then 262144 else 16
  if 4 ≤ t ∨ lim ≤ i ∨ c ≠ 0 ∨ op = .stage ∨ op = .invalidate then TapRes.bad s
  else if op = .read then
    TapRes.val s (match t with
      | 0 => s.acct i
      | 1 => BitVec.ofNat 512 (tget 0 s.groups i)
      | 2 => BitVec.ofNat 512 (tget 0 s.members i)
      | _ => BitVec.ofNat 512 (tget 0 s.rsvSize i))
  else match t with
  | 0 => s.writeAcct i d
  | 1 => TapRes.of { s with groups := tset 0 s.groups i (bits w 27 0) } stOk
  | 2 =>
    if memberOk w then
      TapRes.of { s with members := tset 0 s.members i (bits w 2 0 + bits w 18 8 * 2 ^ 8 + bits w 32 20 * 2 ^ 20) } stOk
    else TapRes.bad s
  | _ => s.writeRegion i (bits w 8 0)

end Sys2Proof.Machine
end

