-- ==== Sys2Proof/Machine/Egress.lean ====
section
/-! DEFINITION. What leaves the Comb: frames on a port's wire with their egress times and one-step PTP fields
(R73, R74, R446–R448), delivery into NET_RX entries (R168, R174) and into a Hive's intake (R356), dispatch by
SCHED (R262–R269), and Beeline's launches (R276–R283). -/

namespace Sys2Proof.Machine

/-! Ports. -/

/-- Lane signalling of a mode: 0 NRZ 25.78125 GBd, 1 PAM4 26.5625, 2 PAM4 53.125, 3 PAM4 106.25 (R439). -/
def modeSignal (m : Nat) : Nat :=
  match m with
  | 1 => 3 | 2 => 3 | 4 => 3 | 7 => 3 | 3 => 2 | 5 => 2 | 8 => 2 | 10 => 2 | 12 => 0 | 14 => 0 | _ => 1
/-- Device delays in ps, receive and transmit (R446). -/
def devDelay (sig : Nat) : Nat × Nat :=
  match sig with
  | 3 => (2350, 1610) | 2 => (2910, 1980) | 1 => (3870, 2640) | _ => (5120, 3460)

/-- The reference time of a frame whose first bit after the SFD passes the PMA now (R74, R446). -/
def State.egressTime (s : State) (p : Nat) : Nat :=
  quantPs s.edryn.time ((devDelay (modeSignal (s.g (PORT.MODE.MODE p)))).2 + sgn 20 (s.g (PORT.TS_ADJ.TX_PS p)))
/-- The reference time of a received frame captured at the PMA at an instant. (DESIGN CHOICE, unsafe: assumption 152) -/
def State.ingressTime (s : State) (p cap : Nat) : Nat :=
  quantPs cap (-((devDelay (modeSignal (s.g (PORT.MODE.MODE p)))).1 + sgn 20 (s.g (PORT.TS_ADJ.RX_PS p))))

/-- A port that can carry frames. -/
def State.portUp (s : State) (p : Nat) : Bool :=
  s.gb (PORT.STAT.LINK p) && s.inService (PORT.base p) && (s.portDoms p).all s.domUp

/-- Descriptors on a port's wire. -/
def State.onWire (s : State) (p : Nat) : List Nat :=
  (s.descs.filter (fun e => e.2.place == .wire p)).map Prod.fst

/-- Transmission time of a frame in units of 2^−16 ns, with preamble, FCS and gap. -/
def State.txTime (s : State) (p len : Nat) : Nat :=
  let r := s.portRate p
  if r = 0 then 0 else ceilDiv ((len + 24) * 8 * 65536) r

/-! One-step PTP (R73, R447). -/

/-- The PTP header of a packet that its sender wants completed in one step: a Sync or a Pdelay_Resp with
twoStepFlag 0 that a Hive sends. One that a Hive forwards from a handle is an ordinary packet (R72). (DEDUCED, unsafe: assumption 79) -/
def Desc.oneStep (v : Desc) : Option (Nat × Nat) :=
  match v.prec.hdrs.find? (fun e => e.1 == 0x15) with
  | some (_, o) =>
    let t := byteAt v.bytes o % 16
    if v.src = 9 && !v.by9 && (t == 0 || t == 3) && !bit (byteAt v.bytes (o + 6)) 1 then some (t, o) else none
  | none => none

/-- A frame's time fields as it leaves. What the device takes as the receipt time of the request that a
Pdelay_Resp answers the spec does not say: the turnaround time is a free value. (DEDUCED, unsafe: assumption 79) -/
def State.oneStepEdit (s : State) (d p : Nat) : State :=
  let v := s.desc d
  match v.oneStep with
  | none => s
  | some (t, o) =>
    if v.macsec then s.inc (PORT.ONESTEP_SKIP.COUNT p)
    else
      let (x, s) := s.fresh
      let ns := v.egress / 65536
      let corr (n : Nat) : Bytes := beBytes 8 ((beAt v.bytes (o + 8) 8 + n) % 2 ^ 64)
      let f := if t = 0 then
          overlay (overlay v.bytes (o + 34) (beBytes 6 (ns / 1_000_000_000) ++ beBytes 4 (ns % 1_000_000_000))) (o + 8)
            (corr (v.egress % 65536))
        else overlay v.bytes (o + 8) (corr x.toNat)
      let l := v.prec.innermost
      let f := match l4Csum l, ipOf l with
        | some (co, u, true), some ((h, io), _) =>
          if h = 0x07 ∧ beAt f co 2 = 0 then f else sumL4 f (h == 0x08) io u (beAt f (u + 4) 2) co 17
        | _, _ => f
      s.modDesc d (fun v => { v with bytes := f })

/-- A transmit timestamp record for the Hive that asked for it (R73, R357); one that finds no room is lost. (DEDUCED, unsafe: assumption 79) -/
def State.putTxts (s : State) (d p : Nat) : State :=
  match (s.desc d).txts with
  | none => s
  | some (tag, h) =>
    let l := s.g (HIVE.RING_CFG.TXTS_LOG2 h)
    let prod := s.g (HIVE.TXTS_IDX.PROD h)
    if l = 0 ∨ 2 ^ l ≤ sub32 prod (s.g (HIVE.TXTS_IDX.CONS h)) then s
    else
      let a := s.g (HIVE.RING_CFG.TXTS_BASE h) * 128 + prod % 2 ^ l * 16
      let e := (s.desc d).egress
      let s := s.hsWrite h (a % hsSize) (leBytes 8 (e / 65536) ++ leBytes 2 (e % 65536) ++ leBytes 2 p ++ leBytes 4 tag)
      (s.p (HIVE.TXTS_IDX.PROD h) (i32 (prod + 1))).hiveEvent h evTxts

/-- A frame starts on a port; in MAC loopback the line carries idles (R448). -/
def State.startFrame (s : State) (d p : Nat) : State :=
  let s := s.fillIpId d p
  let s := s.modDesc d (fun v => { v with place := .wire p, egress := s.egressTime p, onAt := s.edryn.time })
  let s := s.oneStepEdit d p
  let v := s.desc d
  if s.g (PORT.LOOPBACK.MODE p) = 1 then s
  else s.emit (.frame p (padFrame v.bytes) (v.egress / 65536) (s.poison.contains (3, v.pkt)))

/-! The end of a port copy. -/

/-- A port copy is over: sent or not, late or not, launched from Beeline or not; its NET_TX entry completes
after its last port copy (R25, R281). (DEDUCED, unsafe: assumption 146) -/
def State.portCopyEnd (s : State) (d p status : Nat) (sent launched : Bool) : State :=
  let v := s.desc d
  match v.main, (s.pkt v.pkt).work with
  | true, some w =>
    let late := w.lateAny || status == stLate
    if 2 ≤ w.left then s.modPkt v.pkt (fun k => { k with work := some { w with left := w.left - 1, lateAny := late } })
    else
      let st := if late then stLate else status
      s.txComplete v.pkt st (b2n launched + 2 * b2n sent) (if sent then v.egress / 65536 else s.ns)
        (if sent then (padFrame v.bytes).length else 0) v.ver p
  | _, _ => s

/-- The last bit of a frame passes the PMA. -/
def State.frameDone (s : State) (d p : Nat) : State :=
  let v := s.desc d
  let s := s.putTxts d p
  ((s.portCopyEnd d p (if v.late = 0 then stOk else stLate) true v.launch.isSome).releaseDesc d).syncBee

/-! Delivery to an instance (R168, R174). -/

def Desc.rxFlags (v : Desc) : Nat :=
  let r := v.rec0
  let inner := r.tun != 0xFF
  2 * b2n (bit r.flags (if inner then 2 else 0)) + 4 * b2n (bit r.flags (if inner then 3 else 1)) +
  8 * b2n v.decrypted + 16 * b2n (r.cls == 1) + 32 * b2n (r.cls == 2) + 64 * b2n v.viaHive

/-- The entries filled one after another; `ro` where no fence orders the packet's writes (R126, R130). -/
def State.fillEnts (s : State) (v : Desc) (w : Nat) (ro : Bool) : List Ent → Bytes → State
  | [], _ => s
  | e :: r, b =>
    let n := min b.length (rget e.raw RX.len)
    let s := s.startEnt w e.index
    let s := s.dmaWrite v.dest (rget e.raw RX.buf) (b.take n) ro
    let ext := leBytes 4 v.hash ++ leBytes 4 v.flowIdx ++ leBytes 4 v.vlans ++ leBytes 2 (v.ts % 65536) ++ [0, 0] ++
      leBytes 4 (v.slot.getD 0)
    let data := leBytes 2 n ++ leBytes 1 (v.ver % 256) ++ leBytes 1 v.src ++ leBytes 4 v.mark
    let k : Cpl := ⟨s.entTag w e.index, stOk, s.entSolicit w e.index, v.rxFlags + b2n (!r.isEmpty), v.ts / 65536, data, padTo 32 ext⟩
    (s.complete w e.index k).fillEnts v w ro r (b.drop n)

/-- A packet is written to its instance where its entries hold it and their addresses are translated;
otherwise it stays. -/
def State.deliver (s : State) (d : Nat) : Bool × State :=
  let v := s.desc d
  let w := s.rxWq v
  match takeEnts (s.rxFree w) v.bytes.length with
  | none => (false, s)
  | some es =>
    -- a fenced packet follows every completion of its instance that is still held (R130)
    if !s.placing w || (es.any (fun e => rget e.raw EN.fence == 1) &&
        (s.link (s.linkOf v.dest)).held.any (fun p => p.inst == v.dest)) then (false, s)
    else match s.xlCheck v.dest true (es.map (fun e => (rget e.raw RX.buf, rget e.raw RX.len))) with
    | (.wait, s) => (false, s)
    | (.fault st, t) =>
      let e := (es.find? (fun e => s.xlFailed v.dest true (rget e.raw RX.buf) (rget e.raw RX.len))).getD ⟨0, 0, 0, [], 0⟩
      (false, t.entHostFail w e.index st)
    | (.ready, s) =>
      let s := if s.poison.contains (3, v.pkt) then { s with poison := s.poison ++ [(1, v.dest)] } else s
      (true, (s.fillEnts v w (es.all (fun e => rget e.raw EN.fence == 0)) es v.bytes).releaseDesc d)

/-! Delivery to a Hive (R356). -/

def State.intake (s : State) (d h : Nat) : State :=
  let v := s.desc d
  let s := s.intakePut h (v.rec0.bytes (v.ts / 65536) (v.ts % 65536) (v.ver % 256) v.psrc v.re)
    (puntBytes v.reason (v.cr.kp % 16) v.copy v.cr.rule v.hash v.flowIdx v.mark v.handle v.bytes.length v.word)
  let s := s.modDesc d (fun v => { v with place := .held h, launch := none })
  let s := s.modHv h (fun x => { x with held := x.held ++ [v.handle] })
  (s.p (HIVE.HELD.PACKETS h) (s.g (HIVE.HELD.PACKETS h) + 1)).addRef v.inst IR.refHive 1

/-! Beeline (R276–R281). -/

/-- The launch slot of a packet (R275). -/
def slotOf (launch : Nat) : Nat := (launch + 4) / 8

/-- A late outcome: counters, event and log (R278). The port of a copy that leaves through none is a free value. (DESIGN CHOICE, safe: assumption 139) -/
def State.logLate (s : State) (d reason : Nat) (sent : Bool) (at_ : Nat) : State :=
  let v := s.desc d
  let s := if sent then s.inc BEELINE.LATE.SENT else s.inc BEELINE.LATE.UNSENT
  let s := s.p BEELINE.LAST_LATE.WQ ((v.txq.map Prod.fst).getD 0)
  let (x, s) := if v.dk = 2 then (v.dest, s) else (s.fresh.1.toNat % 8, s.fresh.2)
  let s := (s.p BEELINE.LAST_LATE.REASON reason).p BEELINE.LAST_LATE.PORT x
  let s := s.pb BEELINE.LAST_LATE.SENT sent
  let lag := if sent then min (2 ^ 32 - 1) (at_ - v.launch.getD 0) else 0
  (s.p BEELINE.LAST_LATE.LAG lag).evt BEELINE.base 8

/-- A descriptor leaves Beeline. -/
def State.outOfBeeline (s : State) (d : Nat) : State := { s with beeline := s.beeline.filter (fun x => x != d) }

/-- A timed port copy that is late: unsent with LATE_DISCARD, else marked to be sent. -/
def State.lateCopy (s : State) (d reason : Nat) : State :=
  let v := s.desc d
  if v.late ≠ 0 then s
  else if v.lateDiscard then
    (((s.logLate d reason false 0).portCopyEnd d v.dest stLate false false).releaseDesc d).syncBee
  else s.modDesc d (fun v => { v with late := reason, lateSlot := s.ns / 8 })

/-- A packet beyond the horizon completes FAR and is not sent (R276, R280). -/
def State.farCopy (s : State) (d : Nat) : State :=
  let v := s.desc d
  let owed := v.main && (match (s.pkt v.pkt).work with
    | some w => decide (w.left < 2)
    | none => false)
  let s := (if owed then s.inc BEELINE.FAR.COUNT else s).evt BEELINE.base 9
  (if v.dk = 2 then (s.portCopyEnd d v.dest stFar false false).releaseDesc d else s.discardAs d stFar).syncBee

/-- A copy for an instance or a Hive is handed on to its destination, or to waiting there; a late one is logged (R278,
R281). A punt gives back its pending entry (R275). -/
def State.handOn (s : State) (d reason : Nat) : State :=
  let s := s.outOfBeeline d
  let s := if reason = 0 then s else s.logLate d reason true s.ns
  let s := s.modDesc d (fun v => { v with launch := none })
  let v := s.desc d
  let s := if v.main then s.leaveBeeline v.pkt else s
  if v.dk = 1 then
    match s.deliver d with
    | (true, s) => s.syncBee
    | (false, s) => (s.joinQueue (classOf (8 + s.linkOf v.dest) v) d).syncBee
  else match s.puntHive v.hash (if v.dk = 3 then some v.dest else none) with
    | some h => (s.joinQueue (classOf (12 + h) v) d).syncBee
    | none => (State.syncBee { s.modDesc d (fun v => { v with place := .noHive }) with noHive := s.noHive ++ [d] })

/-- SCHED hands a timed packet to Beeline (R276). -/
def State.insertTimed (s : State) (d : Nat) : State :=
  let v := s.desc d
  let sl := slotOf (v.launch.getD 0)
  let late := decide (8 * sl < s.ns + s.g BEELINE.LEAD.NS)
  let s := { s.modDesc d (fun v => { v with place := .beeline }) with beeline := s.beeline ++ [d] }
  if s.ns / 8 + 2 ^ 20 ≤ sl then s.farCopy d
  else if !late then s
  else if v.dk = 2 then s.lateCopy d 1 else s.handOn d 1

/-- Timed packets of a port that are due, in the order of R279: a packet that became late on insertion or by a step
stands at the slot that was current then. -/
def State.dueOn (s : State) (p : Nat) : List Nat :=
  let due := s.beeline.filter (fun d =>
    let v := s.desc d
    v.dk == 2 && v.dest == p && (v.late != 0 || decide (8 * slotOf (v.launch.getD 0) ≤ s.ns)))
  let key (d : Nat) : Nat :=
    let v := s.desc d
    if v.late = 1 ∨ v.late = 2 then v.lateSlot else slotOf (v.launch.getD 0)
  due.foldl (fun l d => (l.takeWhile (fun x => decide (key x ≤ key d))) ++ [d] ++ l.dropWhile (fun x => decide (key x ≤ key d))) []

/-- Whether a timed packet of a port is blocked (R278). (DESIGN CHOICE, unsafe: assumption 162) -/
def State.blockedOn (s : State) (d p : Nat) : Bool :=
  !s.portUp p || s.g (PORT.LOOPBACK.MODE p) == 3 || bit (s.g (PORT.STAT.PAUSED p)) ((s.desc d).sub % 8)

/-- Whether a timed frame may start on a port now. -/
def State.wireFree (s : State) (p : Nat) : Bool :=
  (s.onWire p).all (fun d => s.gb (PORT.PREEMPT.ACTIVE p) && !(s.desc d).timed)

/-- A due packet launches, or is blocked (R277, R278). -/
def State.launchOne (s : State) (d p : Nat) : State :=
  if s.blockedOn d p then s.lateCopy d 3
  else if !s.wireFree p then s
  else
    let v := s.desc d
    let s := { s.outOfBeeline d with blHold := tset false s.blHold p false }
    let s := s.startFrame d p
    let late := if v.late ≠ 0 then v.late else if (v.launch.getD 0 + 4) * 65536 < s.edryn.time then 4 else 0
    let s := s.modDesc d (fun v => { v with late := late })
    (if late = 0 then s else s.logLate d late true ((s.desc d).egress / 65536)).syncBee

/-- BEELINE_LAUNCH of a port: the first due packet that can launch, or that its block makes late now; `p` = 8: copies
whose destination is no port. -/
def execBeelineLaunch (p : Nat) (s : State) : Host.Outcome State Fault Refusal :=
  done s (if p < 8 then
      match (s.dueOn p).find? (fun d => !s.blockedOn d p || (s.desc d).late == 0) with
      | some d => s.launchOne d p
      | none => s
    else match s.beeline.find? (fun d => (s.desc d).dk != 2 && decide (8 * slotOf ((s.desc d).launch.getD 0) ≤ s.ns)) with
      | some d => s.handOn d 0
      | none => s)

/-- HOLD_NS of a port's rate (R277). (DESIGN CHOICE, unsafe: assumption 12) -/
def holdNs (rate : Nat) : Nat := if rate = 0 then 0 else ceil8 (ceilDiv 1280 rate)

/-- Whether preemptible traffic of a port is to be held for a timed packet (R277): the packet's hold has begun once its
port's hold has been taken. -/
def State.inHold (s : State) (p d : Nat) : Bool :=
  let v := s.desc d
  v.dk == 2 && v.dest == p && !s.blockedOn d p &&
    decide (8 * slotOf (v.launch.getD 0) ≤ s.ns + holdNs (s.portRate p))
def State.holding (s : State) (p : Nat) : Bool := tget false s.blHold p && s.beeline.any (s.inHold p)

/-- BEELINE_HOLD: preemptible traffic is held from 8 × s − HOLD_NS. -/
def execBeelineHold (p : Nat) (s : State) : Host.Outcome State Fault Refusal :=
  done s (if p < 8 && s.gb (PORT.PREEMPT.ACTIVE p) && s.beeline.any (s.inHold p)
    then { s with blHold := tset false s.blHold p true } else s)

/-- A step of Edryn time from T0 to T1, in ns, as Beeline sees it (R280). -/
def State.beelineStep (s : State) (t0 t1 : Nat) : State :=
  let l := s.beeline
  let s := l.foldl (fun s d =>
    let v := s.desc d
    let at_ := 8 * slotOf (v.launch.getD 0)
    if t0 < at_ ∧ at_ ≤ t1 then (if v.dk = 2 then s.lateCopy d 2 else s.handOn d 2)
    else if t1 < t0 ∧ t1 / 8 + 2 ^ 20 ≤ at_ / 8 then s.farCopy d
    else s) s
  if t0 < t1 then s.evt BEELINE.base 10 else s

/-! Dispatch (R262, R268, R269). -/

/-- Whether a frame of a length would still be under way at the instant of a pending timed packet (R277). -/
def State.guarded (s : State) (p len : Nat) : Bool :=
  s.gb (BEELINE.PORT_CTL.GUARD p) && !s.gb (PORT.PREEMPT.ACTIVE p) && s.beeline.any (fun d =>
    let v := s.desc d
    v.dk == 2 && v.dest == p && v.late == 0 &&
      decide (s.edryn.time ≤ 8 * slotOf (v.launch.getD 0) * 65536) &&
      decide (8 * slotOf (v.launch.getD 0) * 65536 < s.edryn.time + s.txTime p len))

/-- Whether an egress can take a packet: a timed one goes to Beeline, any other starts on its port behind what is due
there and can launch. (DESIGN CHOICE, unsafe: assumption 162) -/
def State.egressReady (s : State) (e d : Nat) : Bool :=
  if e < 8 then
    s.portUp e && (s.onWire e).isEmpty && s.g (PORT.LOOPBACK.MODE e) != 3 &&
    ((s.desc d).timed || (!s.holding e && (s.dueOn e).all (fun x => s.blockedOn x e) &&
      !s.guarded e (padFrame (s.desc d).bytes).length))
  else if e < 12 then true
  else s.intakeRoom (e - 12) && s.hiveIn (e - 12) && s.domUp (14 + (e - 12))

/-- The domains that a dispatch on an egress needs. -/
def State.egressDoms (s : State) (e : Nat) : List Nat :=
  if e < 8 then s.portDoms e else if e < 12 then [if e < 10 then 3 else 4] else [14 + (e - 12)]

/-- One dispatch on an egress. -/
def State.dispatch (s : State) (e d : Nat) (path : List Nat) : State :=
  if !s.egressReady e d then s
  else if (s.desc d).timed then
    let late := s.nd (path.getLastD 0) NR.lateDiscard == 1
    (s.takeHead path d |>.modDesc d (fun v => { v with lateDiscard := late })).insertTimed d
  else if e < 8 then (s.takeHead path d).startFrame d e
  else if e < 12 then
    -- the queue is left only by a packet that is placed
    match (s.takeHead path d).deliver d with
    | (true, t) => t.schedSync
    | (false, _) => (s.deliver d).2
  else (s.takeHead path d).intake d (e - 12)

/-- (DESIGN CHOICE, unsafe: assumption 83) -/
def execDispatch (e : Nat) (s : State) : Host.Outcome State Fault Refusal :=
  let s' := (s.nodesOf e ++ (List.range 8).map (fun c => classKey (8 * e + c))).foldl (fun s k => s.refillNode k) s
  done s (if 24 ≤ e || !s.inService SCHED.base || !s.domUp 1 || !s.domUp 2 then s
    else match s'.schedSync.pathFrom 5 (egressKey e) with
      | none => s
      | some path => match s'.schedSync.headOf (path.getLastD 0) with
        | none => s
        | some d => match s'.schedSync.transfers (xferPkt d) (s.egressDoms e) with
          | (.go, s) => s.dispatch e d path
          | (_, s) => s)

end Sys2Proof.Machine
end

