-- ==== Sys2Proof/Machine/Image.lean ====
section
/-! DEFINITION. Signed images (R425, R426) and the measurements taken of what runs (R428). -/

namespace Sys2Proof.Machine

/-- A segment entry of an image header. -/
structure Seg where
  type : Nat
  version : Nat
  off : Nat
  size : Nat
  digest : Bytes
  deriving DecidableEq, Repr

def imgSeg (b : Bytes) (k : Nat) : Seg :=
  let e := slice b (0xA0 + 64 * k) 64
  ⟨leAt e 0 2, leAt e 4 4, leAt e 8 4, leAt e 12 4, slice e 16 48⟩
def imgSvn (b : Bytes) : Nat := byteAt b 6
def imgBuild (b : Bytes) : Nat := leAt b 8 8
def imgLen (b : Bytes) : Nat := leAt b 16 4
def imgSegs (b : Bytes) : List Seg := (List.range (byteAt b 0x14)).map (imgSeg b)
def imgKey (b : Bytes) : Bytes := slice b 0x40 96
/-- The bytes of a segment, and the first segment of a type. -/
def segBytes (b : Bytes) (g : Seg) : Bytes := slice b g.off g.size
def segOf (b : Bytes) (t : Nat) : Option Seg := (imgSegs b).find? (fun g => g.type == t)

def allZero (b : Bytes) : Bool := b.all (fun x => x == 0)

/-- The fused key that an image is signed with, if it is not revoked. (DESIGN CHOICE, safe: assumption 16) -/
def State.fusedKey (s : State) (b : Bytes) : Option Nat :=
  (List.range 4).find? (fun k => sha384 (imgKey b) == tget (Config.fuseKey k) s.trust.fuseKeys k && !bit s.trust.fuseRevoked k)

/-- Zero fields, MAGIC, FORMAT and the ranges of a header. -/
def headerOk (b : Bytes) : Bool :=
  decide (1024 ≤ b.length) && leAt b 0 4 == 0x3631514B && leAt b 4 2 == 1 && decide (imgSvn b ≤ 64) &&
  byteAt b 7 == 0 && decide (1024 ≤ imgLen b) && decide (imgLen b ≤ 64 * 2 ^ 20) &&
  decide (1 ≤ byteAt b 0x14) && decide (byteAt b 0x14 ≤ 4) && allZero (slice b 0x15 0x2B) &&
  allZero (slice b (0xA0 + 64 * byteAt b 0x14) (512 - 64 * byteAt b 0x14)) && allZero (slice b 0x2A0 0x100) &&
  (imgSegs b).zipIdx.all (fun e => leAt b (0xA0 + 64 * e.2 + 2) 2 == 0)

/-- Segments: types, places and no overlap. `need`: the types that must be there. -/
def layoutOk (b : Bytes) (need : List Nat) : Bool :=
  let gs := imgSegs b
  gs.all (fun g => decide (1 ≤ g.type) && decide (g.type ≤ 4) && g.off % 64 == 0 &&
    decide (g.off + g.size ≤ imgLen b)) &&
  (gs.map Seg.type).eraseDups.length == gs.length &&
  need.all (fun t => gs.any (fun g => g.type == t)) &&
  gs.zipIdx.all (fun x => gs.zipIdx.all (fun y => x.2 == y.2 || decide (x.1.off + x.1.size ≤ y.1.off) ||
    decide (y.1.off + y.1.size ≤ x.1.off)))

/-- The reason codes of `BOOT_STAT`: 0 OK, 1 HEADER, 2 KEY, 3 SIGNATURE, 4 ROLLBACK, 5 SEGMENT_DIGEST,
6 SEGMENT_LAYOUT, 7 FLASH_READ. `floor` is the least SVN. (DESIGN CHOICE, unsafe: assumption 150) -/
def State.imageReason (s : State) (b : Bytes) (floor : Nat) (need : List Nat) : Nat :=
  if b.isEmpty then 7
  else if !headerOk b then 1
  else if (s.fusedKey b).isNone then 2
  else if !ecdsaVerify (imgKey b) (slice b 0x3A0 96) (sha384 (b.take 0x3A0)) then 3
  else if imgSvn b < floor then 4
  else if !layoutOk b need then 6
  else if !(imgSegs b).all (fun g => sha384 (segBytes b g) == g.digest) then 5
  else 0

/-- A boot image, and an image supplied during service for a segment type (R426). -/
def State.bootReason (s : State) (b : Bytes) : Nat := s.imageReason b s.trust.fuseFloor [1, 2, 3, 4]
def State.serviceReason (s : State) (b : Bytes) (need : List Nat) : Nat :=
  s.imageReason b (max s.trust.fuseFloor (s.g KEEPER.BOOT_STAT.SVN)) need

/-- An image staged in blocks of 64 bytes. -/
def stagedBytes (t : Tbl (BitVec 512)) : Bytes :=
  match t.getLast? with
  | none => []
  | some (k, _) => (List.range (k + 1)).flatMap (fun i => recBytes (tget 0 t i))

/-! Measurements (R428). -/

/-- A change of a measurement: its digest, a log entry, and MEASURE. (DESIGN CHOICE, unsafe: assumption 119) -/
def State.measure (s : State) (i : Nat) (d : Bytes) : State :=
  let t := s.trust
  let e := packBytes 512 (leBytes 8 i ++ leBytes 8 s.ns ++ d)
  State.evt { s with trust := { t with measure := tset [] t.measure i d,
                                       log := tset 0 t.log (t.logN % 1024) e, logN := t.logN + 1 } } KEEPER.base 10

/-- The measured Chitin words 0–16, and the fuse state with the DEBUG word. -/
def State.measureWords (s : State) : State :=
  s.measure 7 (sha384 ((List.range 17).flatMap (fun n => leBytes 8 (s.chitin n))))
def State.measureFuses (s : State) : State :=
  s.measure 8 (sha384 (leBytes 8 s.trust.fuseFloor ++ leBytes 8 s.trust.fuseRevoked ++ leBytes 8 (s.chitin 5)))

end Sys2Proof.Machine
end

