-- ==== Sys2Proof/Machine/Scarab.lean ====
section
/-! DEFINITION. The commands of SCARAB: mode-program images (R289, R290), slots (R294, R295), TLS_SYNC (R309),
pairs and masks (R287, R301), the alarm (R302), inline sessions (R305–R308), and lookaside requests (R303,
R304). -/

namespace Sys2Proof.Machine

/-! Mode programs. -/

/-- A write to SCARAB with its checks, and Chitin's firmware-update permission for SCARAB (R290). -/
def State.fwPermit (s : State) (k : Nat) : Bool := bit (s.chitin 6) k

/-- A write of `PROG_CTL.VERIFY` (R289, R290). -/
def State.progVerify (s : State) : State :=
  if !s.fwPermit 1 || s.gb SCARAB.PROG_STAT.ROLLING then s.evtErr SCARAB.base else { s with progBusy := true }

def execProgVerify (actor : Nat) (s : State) : Host.Outcome State Fault Refusal :=
  act s actor (s.gated actor SCARAB.PROG_CTL.reg State.progVerify)

/-- RESULT of a checked mode-program image (0 for one still OK so far), from the reason of its check. -/
def progResult (r : Nat) : Nat :=
  match r with
  | 0 => 1 | 2 => 2 | 3 => 2 | 5 => 2 | 4 => 3 | _ => 5

/-- Slots in use whose mode an image lacks. -/
def State.modeMissing (s : State) (modes : Nat) : Bool :=
  s.slots.any (fun e => rget e.2 KS.state != 0 && !bit modes (rget e.2 KS.mode))

/-- The Keeper's check of the staged image. Which mode IDs the image carries its format does not show: a free value. (DESIGN CHOICE, safe: assumption 89) -/
def State.progChecked (s : State) : State :=
  let b := stagedBytes s.progStage
  let (m, s) := s.fresh
  let r := progResult (s.serviceReason b [3])
  let r := if r = 1 && s.modeMissing m.toNat then 4 else r
  let ver := ((segOf b 3).map Seg.version).getD 0
  ({ s with progBusy := false, modesStaged := m.toNat % 65536 }.p SCARAB.PROG_STAT.RESULT r).p
    SCARAB.PROG_STAT.STAGED_VER ver

/-- The staged image runs on every sequencer (R290): its modes, its version, its measurement. -/
def State.progLoad (s : State) : State :=
  let s := State.p { s with modes := s.modesStaged } SCARAB.PROG_STAT.ACTIVE_VER (s.g SCARAB.PROG_STAT.STAGED_VER)
  match segOf (stagedBytes s.progStage) 3 with
  | some g => s.measure 5 g.digest
  | none => s

/-- A write of `PROG_CTL.ROLL` (R290). -/
def State.progRoll (s : State) : State :=
  if !s.fwPermit 1 || s.gb SCARAB.PROG_STAT.ROLLING || s.g SCARAB.PROG_STAT.RESULT != 1 then s.evtErr SCARAB.base
  else (s.pb SCARAB.PROG_STAT.ROLLING true).p SCARAB.PROG_STAT.SEQ 0

def execProgRoll (actor : Nat) (s : State) : Host.Outcome State Fault Refusal :=
  act s actor (s.gated actor SCARAB.PROG_CTL.reg State.progRoll)

/-- The sequencer that reloads returns once its own operations have ended (R290). -/
def execSequencerReloadDone (s : State) : Host.Outcome State Fault Refusal :=
  let q := s.g SCARAB.PROG_STAT.SEQ
  done s (if !s.gb SCARAB.PROG_STAT.ROLLING || s.sops.any (fun (e : Nat × SOp) => decide (e.2.seq = some q)) then s
    else if q < 19 then (s.p SCARAB.PROG_STAT.SEQ (q + 1)).pumpOps
    else (((s.progLoad.pb SCARAB.PROG_STAT.ROLLING false)).evt SCARAB.base 13).pumpOps)

/-- A write of `PROG_CTL.DISCARD`. (DESIGN CHOICE, unsafe: assumption 164) -/
def State.progDiscard (s : State) : State :=
  State.p { s with progStage := [], progBusy := false } SCARAB.PROG_STAT.RESULT 0

def execProgDiscard (actor : Nat) (s : State) : Host.Outcome State Fault Refusal :=
  act s actor (s.gated actor SCARAB.PROG_CTL.reg State.progDiscard)

/-! Slots. -/

/-- A write of `SLOT_CTL.OP` on the selected slot: 1 erases an ACTIVE or EXHAUSTED one; 2 switches, and one
that completes MALFORMED or BUSY changes nothing; others are ignored with ERROR. (DEDUCED, unsafe: assumption 91) -/
def State.slotCtl (s : State) (op : Nat) : State :=
  let n := s.g SCARAB.SLOT_SEL.SLOT
  match op with
  | 1 => if s.slotState n = 1 ∨ s.slotState n = 2 then s.eraseSlot n else s
  | 2 => (s.switchSlot n).2
  | _ => s.evtErr SCARAB.base

def execSlotErase (actor : Nat) (s : State) : Host.Outcome State Fault Refusal :=
  act s actor (s.gated actor SCARAB.SLOT_CTL.reg (fun s => s.slotCtl 1))
def execSlotSwitch (actor : Nat) (s : State) : Host.Outcome State Fault Refusal :=
  act s actor (s.gated actor SCARAB.SLOT_CTL.reg (fun s => s.slotCtl 2))

/-! TLS_SYNC (R309). -/

/-- Whether a context's words, with those of a LIST it jumps to, hold a TLS session on a slot. -/
def State.namesTls (s : State) (i slot : Nat) (tx : Bool) : Bool :=
  let ws := ctxRun (s.ctx i)
  let all := ws ++ ws.flatMap (fun w => if wCode w = 0x0F then (runWords 17 0 (s.listWords (bits w 37 16))).map Prod.snd else [])
  all.any (fun w => wCode w == 0x0A && seProto w == 2 && seSlot w == slot && seEnc w == tx)

/-- A sync's effect: operations already under way on the flow keep its old state. -/
def State.tlsSync (s : State) (actor : Nat) : Nat × State :=
  let i := s.g SCARAB.TLS_SYNC_A.FLOW
  let n := s.g SCARAB.TLS_SYNC_A.SLOT
  let tx := s.gb SCARAB.TLS_SYNC_A.TX
  let l := s.g SCARAB.TLS_SYNC_A.L
  if !s.slotActor actor then (stMalformed, s.evtErr SCARAB.base)
  else if flowMax ≤ i || ctxState (s.ctx i) != 1 || !s.namesTls i n tx || (tx && (decide (l < 9) || decide (14 < l)))
  then (stMalformed, s)
  else
    let old := rget (s.ctx i) FC.tls
    let num := if tx then s.kg n KS.tlsBase else s.kg n KS.count
    let keep (o : SOp) : SOp := match o.use with
      | .inline d => if (s.desc d).flowIdx = i ∧ o.slot = n ∧ o.req.length = 8
          then { o with req := o.req ++ leBytes 8 old ++ leBytes 8 num } else o
      | _ => o
    let s := { s with sops := s.sops.map (fun (e : Nat × SOp) => (e.1, keep e.2)) }
    let t := s.g SCARAB.TLS_SYNC_B.SEQ + l * 2 ^ 32 + 2 ^ 63
    let s := s.setCtx i (rput (s.ctx i) FC.tls t)
    let r := s.g SCARAB.TLS_SYNC_C.RECORD
    (stOk, if tx then s.kp n KS.tlsBase r else s.setCount n r)

/-- A write of `TLS_SYNC_A`; GO applies the sync. -/
def State.tlsSyncWrite (s : State) (actor : Nat) (v : Word) : State :=
  let s := s.setReg SCARAB.TLS_SYNC_A.reg (putF (v &&& BitVec.ofNat 64 (2 ^ 49 - 1)) 23 22 0)
  if getF v 63 63 = 0 then s
  else
    let r := s.tlsSync actor
    r.2.p SCARAB.TLS_SYNC_B.STATUS r.1

def execTlsSync (actor : Nat) (v : Word) (s : State) : Host.Outcome State Fault Refusal :=
  act s actor (s.gated actor SCARAB.TLS_SYNC_A.reg (fun s => s.tlsSyncWrite actor v))

/-! Pairs, masks and the alarm. -/

/-- A pair's mask generator takes a new seed from the DRBG once 1 ms has passed since its last, or where it has none
(R287); the count of 2^20 blocks reseeds it as the blocks end. -/
def execMaskReseed (pair : Nat) (s : State) : Host.Outcome State Fault Refusal :=
  let k := tget 0 s.maskClk pair
  done s (if 20 ≤ pair || s.alarmed || !s.domUp 9 || (k != 0 && decide (s.since (k - 1) < 1_000_000)) then s
    else State.reseed { s with maskBlk := tset 0 s.maskBlk pair 0 } pair)

/-- A write of `PAIR_FAULT`: the pairs whose bits are written 1 return to use. -/
def execPairFaultClear (actor : Nat) (mask : Nat) (s : State) : Host.Outcome State Fault Refusal :=
  act s actor (s.gated actor SCARAB.PAIR_FAULT.reg (fun s =>
    s.setReg SCARAB.PAIR_FAULT.reg (s.reg SCARAB.PAIR_FAULT.reg &&& ~~~ BitVec.ofNat 64 mask)))

/-- A tamper condition: 2 VOLTAGE, 3 CLOCK, 4 TEMPERATURE, 5 ENTROPY (R302). MISMATCH comes by the fault
window. -/
def execScarabAlarm (cause : Nat) (s : State) : Host.Outcome State Fault Refusal :=
  done s (if 2 ≤ cause ∧ cause ≤ 5 then s.scarabAlarm cause else s)

/-- An inline operation of a number ends (R308). -/
def execInlineSessionDone (k : Nat) (s : State) : Host.Outcome State Fault Refusal :=
  done s (match s.sops.find? (fun e => e.1 == k) with
    | some (_, o) => match o.use, o.seq with
      | .inline d, some _ => if s.opWaits o then s else (s.opBlocks o).inlineDone k o d
      | _, _ => s
    | none => s)

/-! Lookaside requests (R303, R304). -/

namespace CE
def slot : RF := biF 8 19 0
def aadLen : RF := byF 12 15
def src : RF := byF 16 23
def len : RF := byF 24 27
def dst : RF := byF 32 39
def tag : RF := byF 40 47
def iv : RF := byF 48 63
def tagLen : RF := biF 0 20 16
end CE

/-- An operation as its opcode asks: 1 ENCRYPT, 2 DECRYPT, 3 MAC_GEN, 4 MAC_VERIFY. -/
structure CryptoReq where
  op : Nat
  aad : Bytes
  data : Bytes
  tag : Bytes
  tagLen : Nat
  iv : Bytes
  deriving DecidableEq, Repr

/-- What an operation gives: its status, its output, its tag, the nonce used. -/
structure CryptoRes where
  status : Nat
  out : Bytes
  tag : Bytes
  nonce : Bytes
  deriving DecidableEq, Repr

/-- Whether an opcode is valid for a mode and the flags of its slot. -/
def opValid (m : BitVec 1024) (op : Nat) : Bool :=
  let mode := rget m KS.mode
  let enc := rget m KS.enc == 1
  let dec := rget m KS.dec == 1
  if op = 1 ∨ op = 2 then (mode == 1 || mode == 3 || mode == 4) && (if op = 1 then enc else dec)
  else (mode == 2 || mode == 5) && (if op = 3 then enc else dec)

/-- One lookaside operation on a material with the COUNT it took (R298, R303). (PRESUMED, unsafe: assumption 15) (DEDUCED, unsafe: assumption 90) (DESIGN CHOICE, unsafe: assumption 164) -/
def cryptoRun (m : BitVec 1024) (count : Nat) (q : CryptoReq) : CryptoRes :=
  let ks := matRound m
  let own := matSalt m 4 ++ beBytes 8 count
  let nonce := if q.op = 1 ∨ q.op = 3 then own else q.iv.take 12
  let verify (t : Bytes) (out : Bytes) : CryptoRes :=
    if t.take q.tagLen = q.tag then ⟨stOk, out, [], []⟩ else ⟨stAuthFail, List.replicate out.length 0, [], []⟩
  match rget m KS.mode, q.op with
  | 1, 1 =>
    let c := Aes.gcmCrypt ks nonce q.data
    ⟨stOk, c, (Aes.gcmTag ks nonce q.aad c).take q.tagLen, nonce⟩
  | 1, _ => verify (Aes.gcmTag ks nonce q.aad q.data) (Aes.gcmCrypt ks nonce q.data)
  | 2, 3 => ⟨stOk, [], (Aes.gcmTag ks nonce (q.aad ++ q.data) []).take q.tagLen, nonce⟩
  | 2, _ => verify (Aes.gcmTag ks nonce (q.aad ++ q.data) []) []
  | 3, 1 => ⟨stOk, Aes.xtsEnc (matKey m) (matKey2 m) q.iv q.data, [], []⟩
  | 3, _ => ⟨stOk, Aes.xtsDec (matKey m) (matKey2 m) q.iv q.data, [], []⟩
  | 4, 1 => ⟨stOk, Aes.ctr ks (own ++ [0, 0, 0, 1]) q.data, [], own⟩
  | 4, _ => ⟨stOk, Aes.ctr ks q.iv q.data, [], []⟩
  | _, 3 => ⟨stOk, [], (Aes.cmac ks q.data).take q.tagLen, []⟩
  | _, _ => verify (Aes.cmac ks q.data) []

/-- Overlap of two ranges. -/
def overlaps (a n b m : Nat) : Bool := decide (0 < n) && decide (0 < m) && decide (a < b + m) && decide (b < a + n)

/-- A CRYPTO entry against R303: the first reason that applies, 0 for none (R473). -/
def State.cryptoReason (s : State) (i : Nat) (r : BitVec 512) : Nat :=
  let op := rget r EN.opcode
  let n := rget r CE.slot
  let m := s.slotRec n
  let mode := rget m KS.mode
  let aad := rget r CE.aadLen
  let len := rget r CE.len
  let tl := rget r CE.tagLen
  let tagged := mode == 1 || mode == 2 || mode == 5
  let src := rget r CE.src
  let dst := rget r CE.dst
  if op = 0 ∨ 5 < op then 0x02
  else if rget r EN.timed ≠ 0 ∨ rget r EN.media ≠ 0 ∨ rget r EN.typeFlags ≠ 0 then 0x03
  else if op = 5 then (if 16777215 < len ∨ aad ≠ 0 ∨ tl ≠ 0 then 0x42 else 0)
  else if rget m KS.state = 0 ∨ rget m KS.owner ≠ i then 0x07
  else if !opValid m op then 0x40
  else if rget m KS.use ≠ 0 then 0x41
  else if 16777215 < len ∨ 65535 < aad ∨ (aad ≠ 0 ∧ mode ≠ 1 ∧ mode ≠ 2) ∨ (mode = 3 ∧ len < 16) ∨
      (if tagged then tl < 4 ∨ 16 < tl else tl ≠ 0) then 0x42
  else if (op = 1 ∨ op = 2) && dst != src + aad && overlaps src (aad + len) dst len ||
      ((op == 1 || op == 3) && tl != 0 && overlaps src (aad + len) (rget r CE.tag) tl) then 0x43
  else 0

/-- Ranges of host memory that an entry reads before its operation. -/
def cryptoRanges (r : BitVec 512) : List (Nat × Nat) :=
  let op := rget r EN.opcode
  if op = 5 then []
  else (if rget r CE.aadLen + rget r CE.len = 0 then [] else [(rget r CE.src, rget r CE.aadLen + rget r CE.len)]) ++
    (if (op = 2 ∨ op = 4) ∧ rget r CE.tagLen ≠ 0 then [(rget r CE.tag, rget r CE.tagLen)] else [])

/-- The operation of an entry, its input read. (DEDUCED, unsafe: assumption 163) -/
def State.cryptoStart (s : State) (w index : Nat) (data : Bytes) : State :=
  match s.ent w index with
  | none => s
  | some e =>
    let op := rget e.raw EN.opcode
    let n := if op = 5 then slotMax else rget e.raw CE.slot
    (s.newOp (.entry w index) n (if op = 1 ∨ op = 3 then 1 else 0) (ceilDiv data.length 16 + 1) (s.wqInst w) data).2

/-- What a request gives at the end of its operation: input data as `req` holds it from `data` on. An operation that
failed in flight leaves its output zeroed (R295). (DEDUCED, unsafe: assumption 86) -/
def cryptoEnd (o : SOp) (r : BitVec 512) (data rnd : Bytes) : CryptoRes :=
  let op := rget r EN.opcode
  let aadLen := rget r CE.aadLen
  let len := rget r CE.len
  let q : CryptoReq := ⟨op, slice data 0 aadLen, slice data aadLen len, data.drop (aadLen + len), rget r CE.tagLen,
    leBytes 16 (rget r CE.iv)⟩
  if o.fail ≠ 0 then
    ⟨o.fail, if o.blocks = 0 ∨ op = 3 ∨ op = 4 then [] else List.replicate len 0,
      if o.blocks = 0 ∨ op = 2 ∨ op = 4 ∨ op = 5 then [] else List.replicate (rget r CE.tagLen) 0, []⟩
  else if op = 5 then ⟨stOk, rnd, [], []⟩
  else cryptoRun o.mat o.count q

/-- Bytes of DRBG output that a request takes. -/
def State.cryptoRnd (s : State) (r : BitVec 512) : Bytes × State :=
  if rget r EN.opcode = 5 then s.freshBytes (rget r CE.len) else ([], s)

/-- TYPE_DATA and EXT_DATA of a completion (R304). -/
def cryptoData (o : SOp) (x : CryptoRes) : Bytes := leBytes 4 x.out.length ++ leBytes 4 o.gen
def cryptoExt (o : SOp) (x : CryptoRes) : Bytes := padTo 16 x.nonce ++ leBytes 8 (if o.dir = 0 then 0 else o.count)

/-- Ranges of host memory that a result is written to. -/
def cryptoWrites (r : BitVec 512) (x : CryptoRes) : List (Nat × Nat) :=
  ([(rget r CE.dst, x.out.length), (rget r CE.tag, x.tag.length)]).filter (fun e => e.2 != 0)

/-- The end of a CRYPTO entry's operation (R304): its output needs the translations of what it writes, and a fault of
one of them fails the entry (R153). -/
def State.cryptoDone (s : State) (k : Nat) (o : SOp) (w index : Nat) : State :=
  match s.ent w index with
  | none => s.endOp k
  | some e =>
    let r := e.raw
    let i := s.wqInst w
    let y := s.cryptoRnd r
    let x := cryptoEnd o r o.req y.1
    match y.2.xlCheck i true (cryptoWrites r x) with
    | (.wait, _) => (s.xlCheck i true (cryptoWrites r x)).2
    | (.fault st, s) => (s.endOp k).entHostFail w index st
    | (.ready, s) =>
      let s := (s.opBlocks o).endOp k
      let s := if x.out.isEmpty then s else s.dmaWrite i (rget r CE.dst) x.out (rget r EN.fence == 0)
      let s := if x.tag.isEmpty then s else s.dmaWrite i (rget r CE.tag) x.tag (rget r EN.fence == 0)
      s.completeEnt w index x.status (b2n o.retried) (cryptoData o x) (cryptoExt o x)

end Sys2Proof.Machine
end

