-- ==== Sys2Proof/Machine/Fwc.lean ====
section
/-! DEFINITION. Fault windows at work (R413–R420): the sources' events, spare rows and row repair, uncorrectable
errors, Scarab's mismatches (R301), ageing samples, and FWC's tables. -/

namespace Sys2Proof.Machine

def State.withRepair (s : State) (f : Repair → Repair) : State := { s with repair := f s.repair }

/-- The row that holds the most of the counted errors; the latest of several. (DESIGN CHOICE, unsafe: assumption 121) -/
def mostOf (rows : List Nat) : Nat :=
  rows.foldl (fun b r => if (rows.filter (· == b)).length < (rows.filter (· == r)).length then r else b) (rows.headD 0)

/-- No spare and no repair remained (R416, R417). (DESIGN CHOICE, unsafe: assumption 121) -/
def State.exhausted (s : State) : State := (s.pb FWC.LAST.EXHAUSTED true).evt FWC.base 9

/-- A spare row replaces a row of an SRAM bank; without a spare a Comb bank retires 4 cells, any other bank
fails its unit (R416). (DESIGN CHOICE, unsafe: assumption 121) -/
def State.sramRepair (s : State) (bank row owner : Nat) : State :=
  let n := tget 0 s.repair.spares bank
  if n < 4 then
    (s.withRepair (fun r => { r with spares := tset 0 r.spares bank (n + 1), remap := r.remap ++ [(bank, row)] })).evt FWC.base 8
  else if owner = COMB.base then (s.poolMoved (s.withRepair (fun r => { r with retired := r.retired + 4 }))).exhausted
  else (s.failUnit owner 3).exhausted

/-- A row index of a stack, laid out as the repair list has bank, row and pseudo-channel (R417). (DESIGN CHOICE, unsafe: assumption 121) -/
def hbmBank (member : Nat) : Nat := member / 2 ^ 24 * 256 + bits member 3 0 * 16 + bits member 23 20

/-- Soft post-package repair of an HBM row, once for each bank (R417). (DESIGN CHOICE, unsafe: assumption 121) -/
def State.hbmRepair (s : State) (member : Nat) : State :=
  let st := member / 2 ^ 24
  match (List.range 64).find? (fun k => (tget 0 s.repair.hbm (st * 64 + k)).toNat % 2 == 0) with
  | some k =>
    if s.repair.hbmUsed.contains (hbmBank member) then s.exhausted
    else
      (s.withRepair (fun r => { r with hbm := tset 0 r.hbm (st * 64 + k) (BitVec.ofNat 64 (1 + 2 * (member % 2 ^ 24))),
                                       hbmUsed := hbmBank member :: r.hbmUsed })).evt FWC.base 8
  | none => s.exhausted

/-- A row of HBM is tracked; a full table gives up the row whose newest event is oldest. (DESIGN CHOICE, unsafe: assumption 121) -/
def State.hbmTrack (s : State) (member : Nat) : State :=
  let t := s.repair.track.filter (fun e => e.1 != member)
  if t.length < 4096 then s.withRepair (fun r => { r with track := (member, s.ns) :: t })
  else
    let old := t.foldl (fun b e => if e.2 < b.2 then e else b) (t.headD (0, 0))
    (s.withRepair (fun r => { r with track := (member, s.ns) :: t.filter (fun e => e.1 != old.1),
                                     evicted := r.evicted + 1 })).evt FWC.base 11

/-- Corrected SRAM and HBM errors. -/
def State.sramEvent (s : State) (bank row owner : Nat) : State :=
  let span := s.g (FWC.SRC.WINDOW_MS fSramCe) * 1_000_000
  let old := (tget FaultWin.reset s.fwc (fwcKey fSramCe bank)).rows.filter (fun e => decide (s.ns < e.1 + span))
  let rows := row :: old.map Prod.snd
  match s.fwcEvent fSramCe bank row owner with
  | (true, s) => s.sramRepair bank (mostOf rows) owner
  | (false, s) => s
def hbmOwner (member : Nat) : Nat := if member < 2 ^ 24 then 0x0074_0000 else 0x0078_0000
def State.hbmEvent (s : State) (member : Nat) : State :=
  match (s.hbmTrack member).fwcEvent fHbmCe member (member % 2 ^ 24) (hbmOwner member) with
  | (true, s) => s.hbmRepair member
  | (false, s) => s

/-- Data read with the error marked: on its way to a host, to a thread, into a frame, or into a unit (R418). (DESIGN CHOICE, unsafe: assumption 107) -/
def State.poisoned (s : State) (reader arg : Nat) : State :=
  if reader = 4 then (if isUnit arg then s.failUnit arg 3 else s)
  else if 1 ≤ reader ∧ reader ≤ 3 ∧ !s.poison.contains (reader, arg) then { s with poison := s.poison ++ [(reader, arg)] }
  else s

/-- An uncorrectable error: a lasting fault of its bank or row (R418). -/
def State.uncorrEvent (s : State) (member row owner reader arg : Nat) : State :=
  let hbm := owner == 0x0074_0000 || owner == 0x0078_0000
  let s := (s.fwcEvent fUncorr member row owner).2
  let s := if hbm then s.hbmRepair member else s.sramRepair member row owner
  s.poisoned reader arg

/-- The two results of a block of an operation differ in a pair; `again`: they differ a second time (R301). -/
def State.mismatch (s : State) (pair op : Nat) (again : Bool) : State :=
  -- a FAULTED pair takes no block
  if bit (s.g SCARAB.PAIR_FAULT.FAULTED) pair then s
  else
  let s := ((s.inc SCARAB.MISMATCH.COUNT).p SCARAB.MISMATCH.PAIR pair).evt SCARAB.base 9
  let s : State := { s with sops := s.sops.map (fun e => if e.1 = op then (e.1, { e.2 with retried := true }) else e) }
  let s := if again then
      (s.setReg SCARAB.PAIR_FAULT.reg (s.reg SCARAB.PAIR_FAULT.reg ||| BitVec.ofNat 64 (2 ^ pair))).evt SCARAB.base 14 else s
  match s.fwcEvent fScarabMm 0 pair SCARAB.base with
  | (true, s) => s.scarabAlarm 1
  | (false, s) => s

/-- An event of a source (R413): its member and row; the unit that an SRAM bank serves; for an uncorrectable
error who reads the data, for a mismatch the operation and whether it is the second. Wake failures come by
their own command. -/
def execFaultEvent (src member row owner reader arg : Nat) (s : State) : Host.Outcome State Fault Refusal :=
  match src with
  | 0 => onUnit s owner (if member < 1536 then (s.sramEvent member row owner).hivesLeft else s)
  | 1 => done s (if member < 2 ^ 25 then s.hbmEvent member else s)
  | 2 => done s (if member < 20 then s.mismatch member arg (reader == 1) else s)
  | 4 => done s (if member < 4 then (s.fwcEvent fReplay member 0 (HOSTLINK.base member)).2 else s)
  | 5 => done s (if member < 8 then ((s.fwcEvent fFec member 0 (PORT.base member)).2).inc (PORT.FEC_BOUND.CORRECTED member) else s)
  | 6 => onUnit s owner (s.uncorrEvent member row owner reader arg).hivesLeft
  | _ => done s s

/-- A monitor group's sample: its slack in ps and the hours it adds to LIFE_H (R420). -/
def execAgeingSample (g margin life : Nat) (s : State) : Host.Outcome State Fault Refusal :=
  done s (if 8 ≤ g then s
    else
      let s := (s.p (FWC.AGE.MARGIN_PS g) (min margin 65535)).p (FWC.AGE.LIFE_H g) (satAdd 32 (s.g (FWC.AGE.LIFE_H g)) life)
      if margin < s.g (FWC.AGE.WARN_PS g) then ((s.fwcEvent fAgeing g 0 FWC.base).2).evt FWC.base 10 else s)

/-- FWC's tables: spares used, the HBM repair list, the tracking table, whose layout the spec does not give. (DESIGN CHOICE, unsafe: assumption 122) -/
def State.tapFwc (s : State) (op : TapOp) (t i : Nat) (d : BitVec 512) : TapRes :=
  match t, op with
  | 0, .read => if i < 1536 then TapRes.val s (BitVec.ofNat 512 (tget 0 s.repair.spares i)) else TapRes.bad s
  | 1, .read => if i < 128 then TapRes.val s (BitVec.ofNat 512 (tget 0 s.repair.hbm i).toNat) else TapRes.bad s
  | 1, .write =>
    if 128 ≤ i then TapRes.bad s
    else
      let v := getF d 24 0
      let m := i / 64 * 2 ^ 24 + v / 2
      TapRes.of (s.withRepair (fun r => { r with
        hbm := tset 0 r.hbm i (BitVec.ofNat 64 v),
        hbmUsed := if v % 2 = 1 ∧ !r.hbmUsed.contains (hbmBank m) then hbmBank m :: r.hbmUsed else r.hbmUsed })) stOk
  | 2, .read =>
    if 4096 ≤ i then TapRes.bad s
    else
      let (b, s) := s.freshBytes 64
      TapRes.val s (packBytes 512 b)
  | _, _ => TapRes.bad s

end Sys2Proof.Machine
end

