-- ==== Sys2Proof/Machine/Edryn.lean ====
section
/-! DEFINITION. The Edryn timebase (R59–R87): its count and rate, the servo and traceability, its sources,
the time page, PTM, time evidence records and the Firefly outputs. -/

namespace Sys2Proof.Machine

def State.modEdryn (s : State) (f : Edryn → Edryn) : State := { s with edryn := f s.edryn }

/-- One ns in the unit of `Edryn.time`. -/
def nsUnit : Nat := 65536
/-- FCLK cycles in a millisecond. (DESIGN CHOICE, unsafe: assumption 6) -/
def msClk : Nat := 1_500_000

/-! The count (R59, R67, R75). -/

/-- The denominator of one FCLK cycle's advance, in units of 2^−16 ns. (DESIGN CHOICE, unsafe: assumption 6) -/
def tickDen : Nat := 3 * 2 ^ 48 * 10 ^ 6

/-- What a slew adds in one cycle, over `tickDen`: RATE ppm of the nominal cycle. -/
def slewTick (rate : Nat) : Nat := 2 ^ 17 * rate * 2 ^ 48

/-- Whether AON runs: not held in reset and not OFF. -/
def State.aonUp (s : State) : Bool :=
  s.trust.phase != 0 && s.trust.phase != 4 && s.trust.phase != 5

/-- The rate that the DPLL sets (R67). (DESIGN CHOICE, safe: assumption 34) -/
def State.dpllRate (s : State) : Int := if s.g EDRYN.SRC.FREQ = 1 then Config.dpllRate s.edryn.dpll else 0

/-- One FCLK cycle in which a slew adds `step`: the AON rate clock and Edryn time go on. Edryn time never goes back:
a whole cycle is far longer than any slew's share of it (R61). (DESIGN CHOICE, unsafe: assumption 2) (DESIGN CHOICE, unsafe: assumption 6) -/
def State.tickWith (s : State) (step : Int) : State :=
  let s := s.modEdryn (fun e => { e with clk := e.clk + 1 })
  if !s.aonUp then s
  else
    let e := s.edryn
    let f : Int := sgn 40 (s.g EDRYN.ADJ_FREQ.FREQ) + s.dpllRate
    let n : Int := (2 ^ 17 * 10 ^ 6 : Int) * (2 ^ 48 + f) + step + e.res
    let locked := s.g EDRYN.SRC.FREQ == 1 && tget false e.cdr (s.g EDRYN.SRC.SYNCE_PORT)
    s.modEdryn (fun e => { e with time := (e.time + (n / tickDen).toNat) % 2 ^ 80,
                                  res := (n % tickDen).toNat, slew := e.slew - step,
                                  dpll := if locked then e.dpll + 1 else e.dpll })

/-- What a slew adds in a cycle: RATE ppm of it, and nothing of a last part that is less (R75). -/
def State.slewStep (s : State) : Int :=
  let k := slewTick (s.g EDRYN.ADJ_PHASE.RATE)
  if s.edryn.slew = 0 then 0 else if (k : Int) ≤ s.edryn.slew then k
  else if s.edryn.slew ≤ -(k : Int) then -(k : Int) else 0

/-- One FCLK cycle (R59, R75). (DESIGN CHOICE, unsafe: assumption 2) (DESIGN CHOICE, unsafe: assumption 6) -/
def State.tick (s : State) : State := s.tickWith s.slewStep

/-- The slew that remains, in units of 2^−16 ns, as AMOUNT reads it. -/
def State.slewLeft (s : State) : Int := s.edryn.slew.tdiv tickDen

/-! Time evidence records (R84, R85). -/

/-- Signed ns of an offset in units of 2^−16 ns, in 32 bits. (DESIGN CHOICE, unsafe: assumption 127) -/
def evNs (o : Option Int) (free : Nat) : Nat :=
  match o with
  | none => free
  | some o => wrapInt 32 (max (-(2 ^ 31)) (min (2 ^ 31 - 1) (o.tdiv 65536)))

/-- The Keeper writes a record; `extra` at a traceability change, `step` for a forward step's multiples. (DESIGN CHOICE, safe: assumption 32) -/
def State.evidence (s : State) (extra step : Bool) : State :=
  let (r1, s) := s.fresh
  let (r2, s) := s.fresh
  let e := s.edryn
  let hold := if s.g EDRYN.TRACE.STATE = 3 then (e.clk - e.holdClk) / (1000 * msClk) else 0
  let flags := s.g EDRYN.SRC.REF_OK + 2 * s.g EDRYN.SRC.ON_INTERNAL +
    4 * b2n (s.g EDRYN.SRC.FREQ == 1) + 8 * b2n extra + 16 * b2n step
  let body := leBytes 2 1 ++ leBytes 2 256 ++ leBytes 4 e.evSeq ++ leBytes 8 s.ns ++
    leBytes 8 (s.g EDRYN.OFFSET.OFFSET) ++ leBytes 8 (s.g EDRYN.PATH_DELAY.DELAY) ++
    leBytes 4 (s.g EDRYN.BOUND.NS) ++ leBytes 1 (s.g EDRYN.TRACE.STATE) ++
    leBytes 1 (s.g EDRYN.GM_INFO.CLASS) ++ leBytes 2 (s.g EDRYN.GM_INFO.STEPS) ++
    leBytes 8 (s.g EDRYN.GM_ID.CLOCK_ID) ++ leBytes 1 (s.g EDRYN.SRC.PHASE) ++
    leBytes 1 (s.g EDRYN.SRC.PTP_PORT) ++ leBytes 1 (s.g EDRYN.GM_INFO.PROFILE) ++
    leBytes 1 (s.g EDRYN.GM_INFO.DOMAIN) ++ leBytes 2 (s.g EDRYN.UTC.OFFSET) ++ leBytes 2 flags ++
    leBytes 4 (s.g EDRYN.STEP_COUNT.COUNT) ++ leBytes 4 hold ++
    leBytes 8 (wrapInt 64 (sgn 40 (s.g EDRYN.ADJ_FREQ.FREQ))) ++
    leBytes 4 (evNs e.evMin r1.toNat) ++ leBytes 4 (evNs e.evMax r2.toNat) ++ padTo 16 [] ++
    padTo 48 e.evPrev ++ padTo 16 []
  let rec_ := body ++ padTo 96 (Config.ecdsaSign e.evKey (sha384 body))
  (s.modEdryn (fun e => { e with evSeq := e.evSeq + 1, evPrev := sha384 rec_, evMin := none,
                                 evMax := none,
                                 ev := tset 0 e.ev (e.evSeq % 64) (packBytes 2048 rec_) })).evt EDRYN.base 13

/-- A periodic record is due: Edryn time passed a later whole multiple of 60 s. -/
def State.evidenceDue (s : State) : Bool := decide (s.edryn.evLast < s.ns / (60 * 10 ^ 9))

/-! Traceability (R78, R79). -/

def tFreerun : Nat := 0
def tAcquiring : Nat := 1
def tLocked : Nat := 2
def tHoldover : Nat := 3
def tUntraceable : Nat := 4

/-- A change of the traceability state. -/
def State.setTrace (s : State) (t : Nat) : State :=
  let old := s.g EDRYN.TRACE.STATE
  if old = t then s
  else
    let s := ((s.p EDRYN.TRACE.PREV old).p EDRYN.TRACE.STATE t).p EDRYN.TRACE.SINCE_S (s.ns / 10 ^ 9)
    let s := if t = tUntraceable ∨ t = tFreerun then s.p EDRYN.BOUND.NS 0xFFFF_FFFF else s
    let s := s.modEdryn (fun e =>
      if t = tHoldover then { e with holdB0 := s.g EDRYN.BOUND.NS, holdClk := e.clk, holdK := 0 }
      else if t = tAcquiring then { e with acqFrom := old } else e)
    (s.evt EDRYN.base 8).evidence true false

/-- Where ACQUIRING ends without lock. -/
def State.acqEnd (s : State) : State :=
  let f := s.edryn.acqFrom
  s.setTrace (if f = tLocked ∨ f = tHoldover then tHoldover else f)

/-- A write of `SERVO_CTL`, past the claim check (R78); LOCK = 1 decides in ACQUIRING, whatever ACQ is. (DESIGN CHOICE, unsafe: assumption 76) -/
def State.servoWrite (s : State) (v : Nat) : State :=
  let acq := bit v 0
  let lock := bit v 1
  if acq && !s.gb EDRYN.SRC.REF_OK then s.evtErr EDRYN.base
  else
    let to_ := bits v 31 16
    let s := ((s.pb EDRYN.SERVO_CTL.ACQ acq).pb EDRYN.SERVO_CTL.LOCK lock).p EDRYN.SERVO_CTL.TIMEOUT
      (if to_ = 0 then 2000 else to_)
    let s := if bit v 2 then s.modEdryn (fun e => { e with servoClk := e.clk, servoFired := false }) else s
    let t := s.g EDRYN.TRACE.STATE
    if t = tAcquiring then (if lock then s.setTrace tLocked else if !acq then s.acqEnd else s)
    else if t = tLocked then
      (if lock then s else s.setTrace (if acq then tAcquiring else tHoldover))
    else if acq then s.setTrace tAcquiring else s

/-- `BOUND` at the k-th update of HOLDOVER (R79). -/
def holdBound (b0 lin quad k : Nat) : Nat :=
  min (ceilDiv (2 * 10 ^ 15 * b0 + 2 * 10 ^ 6 * lin * k + quad * k * k) (2 * 10 ^ 15)) 0xFFFF_FFFF

/-! Firefly outputs (R86, R87). -/

def State.ffOut (s : State) (n : Nat) : Firefly := tget Firefly.reset s.ff n
def State.setFf (s : State) (n : Nat) (f : Firefly) : State := { s with ff := tset Firefly.reset s.ff n f }

/-- The effective width in units of 2^−16 ns. -/
def ffWidth (mode period width : Nat) : Nat :=
  if mode = 2 ∧ width = 0 then quant125 (period / 2) else width * nsUnit

/-- Whether a PULSE or CLOCK configuration keeps the limits of R86. (DESIGN CHOICE, unsafe: assumption 33) -/
def ffValid (mode period phase width : Nat) : Bool :=
  let w := ffWidth mode period width
  decide (8 * nsUnit ≤ period) && decide (phase < period) && decide (4 * nsUnit ≤ w) &&
  decide (w + 4 * nsUnit ≤ period)

/-- The first edge instant at or after `t`. -/
def ffNext (period phase t : Nat) : Nat :=
  if t ≤ phase then phase else phase + ceilDiv (t - phase) period * period

/-- The latest edge instant at or before `t`, 0 with none. -/
def ffPrev (period phase t : Nat) : Nat := if t < phase then 0 else phase + (t - phase) / period * period

/-- Whether a mode emits edges of its own. -/
def ffRuns (m : Nat) : Bool := m == 1 || m == 2

/-- What the registers of output n hold. -/
def State.ffRegs (s : State) (n : Nat) : FfCfg :=
  ⟨s.g (EDRYN.FF_CTL.MODE n), s.g (EDRYN.FF_CTL.POL n), s.g (EDRYN.FF_PERIOD.PERIOD n),
   s.g (EDRYN.FF_PHASE.PHASE n), s.g (EDRYN.FF_WIDTH.WIDTH n)⟩

/-- Whether a configuration emits edges of its own, and keeps R86's limits where it would. -/
def FfCfg.runs (c : FfCfg) : Bool := ffRuns c.mode
def FfCfg.ok (c : FfCfg) : Bool := !c.runs || ffValid c.mode c.period c.phase c.width

/-- A configuration comes into effect: one that breaks R86's limits holds the output at its inactive level and
sets FF_ERROR. (DESIGN CHOICE, unsafe: assumption 33) -/
def State.ffAdopt (s : State) (n : Nat) (c : FfCfg) : State :=
  let f := s.ffOut n
  if c.ok then s.setFf n { f with cfg := c }
  else (s.setFf n { f with cfg := { c with mode := 0 } }).evt EDRYN.base 16

/-- A level change of an output at an instant, placed at the nearest 125 ps. -/
def State.ffEdge (s : State) (n : Nat) (high : Bool) (t : Nat) : State :=
  let f := s.ffOut n
  (s.setFf n { f with level := high }).emit (.edge n (high != (f.cfg.pol == 1)) (quant125 t / 0x2000))

/-- A Firefly register was written: a running output takes the change at an edge to come, any other at once
(R87). (DESIGN CHOICE, unsafe: assumption 33) -/
def State.ffWritten (s : State) (n : Nat) : State :=
  let f := s.ffOut n
  let c := s.ffRegs n
  if f.cfg.runs || f.fallAt.isSome then s.setFf n { f with waiting := f.waiting ++ [(s.edryn.time, c)] }
  else (s.setFf n { f with waiting := [], skip := s.edryn.time }).ffAdopt n c

/-- The first edge instant of a configuration that an output has still to emit, at or after `t`. -/
def Firefly.next (f : Firefly) (c : FfCfg) (t : Nat) : Nat := ffNext c.period c.phase (max t (max f.lastEdge f.skip + 1))

/-- The instant at which a waiting configuration takes effect: the first edge instant of it, or of the present one
where it has none, at least 1 µs after its write. -/
def Firefly.switchAt (f : Firefly) (w : Nat × FfCfg) : Nat :=
  let t0 := w.1 + 1000 * nsUnit
  if w.2.runs && w.2.ok then f.next w.2 t0 else if f.cfg.runs then f.next f.cfg t0 else t0

/-- Of waiting configurations the one that takes effect first, the last of those at one instant, with that instant
and the ones that wait behind it. -/
def Firefly.firstOf (f : Firefly) : List (Nat × FfCfg) → Option (Nat × FfCfg × List (Nat × FfCfg))
  | [] => none
  | w :: r => match f.firstOf r with
    | some x => if x.1 ≤ f.switchAt w then some x else some (f.switchAt w, w.2, r)
    | none => some (f.switchAt w, w.2, r)

/-- The rising edge of output n at an instant; TOD_TX owes a message for the edge of a 1PPS (R71). -/
def State.ffRise (s : State) (n t : Nat) : State :=
  let f := s.ffOut n
  let s := s.setFf n { f with lastEdge := t, fallAt := some (t + ffWidth f.cfg.mode f.cfg.period f.cfg.width) }
  let s := s.ffEdge n true t
  if f.cfg.mode = 1 ∧ f.cfg.period = 10 ^ 9 * nsUnit ∧ s.gb EDRYN.TOD_CTL.TX_EN ∧ s.g EDRYN.TOD_CTL.TX_FF = n
  then s.modEdryn (fun e => { e with todDue := e.todDue ++ [(e.clk + 100 * msClk, t / nsUnit / 10 ^ 9)] }) else s

/-- The next level change of an output that Edryn time has reached (R86). A falling edge comes at its Edryn
instant whatever steps lie between. (DESIGN CHOICE, unsafe: assumption 33) -/
def State.ffPeriodic (s : State) (n : Nat) : State :=
  let f := s.ffOut n
  let now := s.edryn.time
  match f.fallAt with
  | some t => if t ≤ now then (s.ffEdge n false t).setFf n { s.ffOut n with level := false, fallAt := none } else s
  | none =>
    let e := f.next f.cfg 0
    let rise := if f.cfg.runs ∧ e ≤ now then s.ffRise n e else s
    match f.firstOf f.waiting with
    | some (t, c, r) =>
      if f.cfg.runs ∧ e < t then rise
      else if now < t then s
      else
        let s := (s.setFf n { f with waiting := r }).ffAdopt n c
        if (s.ffOut n).cfg.runs then s.ffRise n t else s
    | none => rise

/-- A forward step skips the edges it passes; after a backward one the output resumes at the first edge instant
later than the last edge it emitted (R87). -/
def State.ffStep (s : State) : State :=
  [0, 1, 2, 3].foldl (fun s n =>
    let f := s.ffOut n
    if f.cfg.runs then s.setFf n { f with skip := s.edryn.time } else s) s

/-- The part of a step of Edryn time that EDRYN itself holds (R76, R84). -/
def State.stepTime (s : State) (v : Nat) : State :=
  let old := s.ns
  let off : Int := sgn 63 v
  let s := s.modEdryn (fun e => { e with time := wrapInt 80 (e.time + off * 65536) })
  let s := (s.inc EDRYN.STEP_COUNT.COUNT).evt EDRYN.base 9
  let s := if 0 < off ∧ old / (60 * 10 ^ 9) < s.ns / (60 * 10 ^ 9) ∧ s.evidenceDue
    then s.modEdryn (fun e => { e with evStep := true }) else s
  let s := s.ffStep
  if bit v 63 then s else s.setTrace tUntraceable

/-! The time page (R82). -/

/-- The snapshot that the sources give for an instance's page at this moment. -/
def State.pageNow (s : State) (i : Nat) : TimePage :=
  let k := s.link (s.linkOf i)
  let live := k.cfgGet cfgPtm == 1
  let p := k.ptm
  let iv := if s.g EDRYN.PTM_CTL.INTERVAL = 0 then 10 else s.g EDRYN.PTM_CTL.INTERVAL
  ⟨0, s.reg EDRYN.UTC.reg, s.g EDRYN.BOUND.NS, s.g EDRYN.TRACE.STATE, s.g EDRYN.GM_INFO.CLASS,
   s.reg EDRYN.GM_ID.reg, s.g EDRYN.GM_INFO.STEPS, s.g EDRYN.STEP_COUNT.COUNT, p.host, p.tai, p.frac,
   live && p.valid && decide (s.edryn.clk ≤ p.doneClk + 4 * iv * msClk), 0⟩

/-- The page is rewritten, bracketed by two increments of SEQ, when a source differs or, in HOLDOVER,
1 ms after the last update. -/
def State.pageUpdate (s : State) (i : Nat) : State :=
  let old := tget TimePage.reset s.page i
  let new := s.pageNow i
  if { old with seq := 0, snap := 0 } ≠ new ∨
      (s.g EDRYN.TRACE.STATE = tHoldover ∧ old.snap + 10 ^ 6 ≤ s.ns) then
    { s with page := tset TimePage.reset s.page i
               { new with seq := (old.seq + 2) % 2 ^ 32, snap := s.ns } }
  else s

/-- What a page register reads (no side effect). -/
def State.pageRead (s : State) (i off : Nat) : Nat :=
  let p := tget TimePage.reset s.page i
  match off with
  | 0x00 => p.seq
  | 0x08 => s.ns
  | 0x10 => tget 0 s.edryn.latch (0x1_0000 + i)
  | 0x18 => p.utc.toNat
  | 0x20 => p.bound + p.trace * 2 ^ 32 + p.cls * 2 ^ 40
  | 0x28 => p.gm.toNat
  | 0x30 => p.steps + p.stepCount * 2 ^ 32
  | 0x38 => p.ptmHost
  | 0x40 => p.ptmTai
  | 0x48 => p.ptmFrac + b2n p.ptmValid * 2 ^ 16
  | 0x50 => p.snap
  | _ => 0

/-! Shared balls (R458). -/

/-- Whether the built-in function of GPIO g is active. -/
def State.ballActive (s : State) (g : Nat) : Bool :=
  match g with
  | 8 => s.gb EDRYN.TOD_CTL.RX_EN
  | 9 => s.gb EDRYN.TOD_CTL.TX_EN
  | 10 => s.g EDRYN.RCLK_CTL.DIV0 != 0
  | 11 => s.g EDRYN.RCLK_CTL.DIV1 != 0
  | _ => decide (12 ≤ g) && decide (g < 16) && s.g (EDRYN.FF_CTL.MODE (g - 12)) != 0
/-- Whether the built-in function carries the ball (`NOW`). -/
def State.ballNow (s : State) (g : Nat) : Bool :=
  decide (8 ≤ g) && (s.g (PIN.BALL.FUNC g) == 2 || (s.g (PIN.BALL.FUNC g) == 0 && s.ballActive g))
/-- Whether an active function does not reach its ball. -/
def State.ballOver (s : State) (g : Nat) : Bool := decide (8 ≤ g) && s.g (PIN.BALL.FUNC g) == 1 && s.ballActive g
/-- A write that may change who drives a ball: OVERRIDDEN where a function comes to be overridden. -/
def State.withBalls (s t : State) : State :=
  if (List.range 16).any (fun g => !s.ballOver g && t.ballOver g) then t.evt PIN.base 8 else t

/-! Reads with a side effect (R34, R63). -/

/-- A read of a register that takes only 64-bit reads: a 32-bit one returns all ones and an error. -/
def State.narrowRead (s : State) (actor a unit : Nat) : State :=
  (s.emit (.regRead actor a 0xFFFF_FFFF)).evtErr unit

def State.readTime (s : State) (actor : Nat) (wide : Bool) : State :=
  let a := EDRYN.TIME_NS.reg
  if wide then
    (s.modEdryn (fun e => { e with latch := tset 0 e.latch actor (e.time % nsUnit) })).emit
      (.regRead actor a s.ns)
  else s.narrowRead actor a EDRYN.base

def State.readPageTime (s : State) (i : Nat) (wide : Bool) : State :=
  let a := IPAGE.base i + 0xD008
  if !s.instLive i ∨ s.instSealed i then s.emit (.regRead (0x100 + i) a (if wide then 2 ^ 64 - 1 else 2 ^ 32 - 1))
  else if wide then
    (s.modEdryn (fun e => { e with latch := tset 0 e.latch (0x1_0000 + i) (e.time % nsUnit) })).emit
      (.regRead (0x100 + i) a s.ns)
  else s.narrowRead (0x100 + i) a EDRYN.base

/-! Sources. -/

/-- The PPS input that `SRC.PHASE` selects. (DESIGN CHOICE, unsafe: assumption 128) -/
def State.ppsSel (s : State) : Option Nat :=
  if s.g EDRYN.SRC.PHASE = 2 then some 0 else if s.g EDRYN.SRC.PHASE = 3 then some 1 else none

/-- The compensated capture of an edge at the present time, at 125 ps (R68). (DESIGN CHOICE, unsafe: assumption 31) -/
def ppsCapture (t delayPs : Nat) : Nat :=
  wrapInt 80 (((t : Int) * 1000 - sgn 32 delayPs * 65536 + 0x1000 * 1000) / (0x2000 * 1000) * 0x2000)

/-- A rising edge on PPS_INn (R68). (DESIGN CHOICE, unsafe: assumption 31) -/
def State.ppsIn (s : State) (n : Nat) : State :=
  let last := tget 0 s.edryn.ppsClk n
  if last ≠ 0 ∧ s.edryn.clk < last - 1 + 500 * msClk then
    (s.inc EDRYN.TOD_STAT.BAD).p EDRYN.TOD_STAT.LAST_ERR 7
  else
    let d := if n = 0 then s.g EDRYN.PPS_DELAY.DELAY0 else s.g EDRYN.PPS_DELAY.DELAY1
    let t := ppsCapture s.edryn.time d
    let s := if n = 0 then
        ((s.p EDRYN.PPS_CAP0.NS (t / nsUnit)).p EDRYN.PPS_AUX.FRAC0 (t % nsUnit)).p EDRYN.PPS_AUX.NEW0 1
      else ((s.p EDRYN.PPS_CAP1.NS (t / nsUnit)).p EDRYN.PPS_AUX.FRAC1 (t % nsUnit)).p EDRYN.PPS_AUX.NEW1 1
    (s.modEdryn (fun e => { e with
      ppsPast := tset [] e.ppsPast n ((last :: tget [] e.ppsPast n).filter (· != 0) |>.take 4),
      ppsClk := tset 0 e.ppsClk n (e.clk + 1) })).evt EDRYN.base (10 + n)

/-- The rate clock plus 1 of the latest captured edge of the selected PPS_IN at or before a reading of it, 0 with
none within 1,000 ms (R70). -/
def State.edgeBefore (s : State) (clk : Nat) : Nat :=
  match s.ppsSel with
  | some n =>
    let l := (tget 0 s.edryn.ppsClk n :: tget [] s.edryn.ppsPast n).filter (fun e =>
      e != 0 && decide (e - 1 ≤ clk) && decide (clk ≤ e - 1 + 1000 * msClk))
    l.foldl max 0
  | none => 0

/-- The rejection code of a received time-of-day message, 0 where it passes every check (R70); `dur` is the time
from its first byte to its last. With no PPS_IN selected there is no edge. (DESIGN CHOICE, unsafe: assumption 128) -/
def State.todCheck (s : State) (m : Bytes) (framing : Bool) (dur : Nat) : Nat :=
  let e := s.edryn
  let edge := s.edgeBefore (e.clk - cyc dur)
  if !framing then 1
  else if m.length ≠ 24 ∨ beAt m 22 2 ≠ crc16 (slice m 2 20) then 2
  else if slice m 0 4 ≠ [0x4B, 0x54, 0x01, 18] then 3
  else if edge = 0 then 4
  else match e.todSecs with
    | p :: _ => if beAt m 4 6 ≠ p + 1 ∧ e.clk ≤ e.todClk + 2000 * msClk then 5
                else if edge - 1 + 900 * msClk < e.clk then 6 else 0
    | [] => if edge - 1 + 900 * msClk < e.clk then 6 else 0

/-- What an accepted message tells the servo: TAI_S, UTC_OFF, FLAGS, CLASS and ACC, a word each. (DESIGN CHOICE, unsafe: assumption 36) -/
def todWords (m : Bytes) : List Word :=
  [beAt m 4 6, beAt m 10 2, beAt m 12 1, beAt m 13 1, beAt m 14 4].map (BitVec.ofNat 64)

/-- A received time-of-day message, paired with the latest captured edge where it is accepted (R70). (DESIGN CHOICE, unsafe: assumption 36) -/
def State.todRx (s : State) (m : Bytes) (framing : Bool) (dur : Nat) : State :=
  if !s.gb EDRYN.TOD_CTL.RX_EN then s
  else
    let c := s.todCheck m framing dur
    if c ≠ 0 then ((s.inc EDRYN.TOD_STAT.BAD).p EDRYN.TOD_STAT.LAST_ERR c).evt EDRYN.base 12
    else
      let n := s.ppsSel.getD 0
      let edge := if n = 0 then s.g EDRYN.PPS_CAP0.NS else s.g EDRYN.PPS_CAP1.NS
      let secs := (beAt m 4 6 :: s.edryn.todSecs).take 3
      let cons := match secs with
        | [a, b, c] => a == b + 1 && b == c + 1
        | _ => false
      let s := (s.inc EDRYN.TOD_STAT.GOOD).pb EDRYN.TOD_STAT.CONSISTENT cons
      (s.modEdryn (fun e => { e with todSecs := secs, todClk := e.clk, todMsg := m, todEdge := edge })).deviceFeed
        (todWords m)

/-- The message that TOD_TX sends for the PPS edge of a TAI second (R69, R71). (DESIGN CHOICE, safe: assumption 32) -/
def State.todMessage (s : State) (sec : Nat) : Bytes × State :=
  let (v, s) := s.fresh
  let (src, s) := s.freshBytes 4
  let src := src.map (fun b => b &&& 0x7F)
  let l := s.g EDRYN.UTC.LEAP
  let t := s.g EDRYN.TRACE.STATE
  let flags := b2n (l == 1) + 2 * b2n (l == 2) + 4 * (v.toNat % 2) + 8 * b2n (t == 2) + 16 * b2n (t == 3)
  let body := leBytes 1 1 ++ leBytes 1 18 ++ beBytes 6 sec ++ beBytes 2 (s.g EDRYN.UTC.OFFSET) ++
    leBytes 1 flags ++ leBytes 1 (s.g EDRYN.GM_INFO.CLASS) ++ beBytes 4 (s.g EDRYN.BOUND.NS) ++ src
  ([0x4B, 0x54] ++ body ++ beBytes 2 (crc16 body), s)

/-! PTM (R83). -/

/-- (PRESUMED, unsafe: assumption 30) -/
def State.modPtm (s : State) (l : Nat) (f : Ptm → Ptm) : State :=
  s.modLink l (fun k => { k with ptm := f k.ptm })

/-! The commands. -/

def execTimeRead (actor : Nat) (wide : Bool) (s : State) : Host.Outcome State Fault Refusal :=
  act s actor (s.readTime actor wide)

def execTimePageRead (inst : Nat) (wide : Bool) (s : State) : Host.Outcome State Fault Refusal :=
  act s (0x100 + inst) (s.readPageTime inst wide)

/-- R75. -/
def execAdjFreqWrite (actor : Nat) (v : Word) (s : State) : Host.Outcome State Fault Refusal :=
  act s actor (s.gated actor EDRYN.ADJ_FREQ.reg (fun s => s.p EDRYN.ADJ_FREQ.FREQ (getF v 39 0)))

/-- A write of `ADJ_PHASE`: RATE 0 cancels the slew, any other replaces it (R75). -/
def State.adjPhase (s : State) (v : Word) : State :=
  let r := getF v 55 48
  let s := s.p EDRYN.ADJ_PHASE.RATE r
  s.modEdryn (fun e => { e with slew := if r = 0 then 0 else sgn 48 (getF v 47 0) * tickDen })

def execAdjPhaseWrite (actor : Nat) (v : Word) (s : State) : Host.Outcome State Fault Refusal :=
  act s actor (s.gated actor EDRYN.ADJ_PHASE.reg (fun s => s.adjPhase v))

/-- The cycle in which the last part of a slew, less than one cycle's share, is applied (R75). -/
def execSlewDone (s : State) : Host.Outcome State Fault Refusal :=
  done s (if s.edryn.slew ≠ 0 ∧ s.edryn.slew.natAbs < slewTick (s.g EDRYN.ADJ_PHASE.RATE) then
    s.tickWith s.edryn.slew else s)

def execServoAcq (actor : Nat) (v : Word) (s : State) : Host.Outcome State Fault Refusal :=
  act s actor (s.gated actor EDRYN.SERVO_CTL.reg (fun s => s.servoWrite v.toNat))

def execServoLock (actor : Nat) (v : Word) (s : State) : Host.Outcome State Fault Refusal :=
  act s actor (s.gated actor EDRYN.SERVO_CTL.reg (fun s => s.servoWrite v.toNat))

def execHeartbeat (actor : Nat) (v : Word) (s : State) : Host.Outcome State Fault Refusal :=
  act s actor (s.gated actor EDRYN.SERVO_CTL.reg (fun s => s.servoWrite v.toNat))

/-- `BOUND` is writable in ACQUIRING and LOCKED only (R78). -/
def execBoundWrite (actor : Nat) (v : Word) (s : State) : Host.Outcome State Fault Refusal :=
  act s actor (s.gated actor EDRYN.BOUND.reg (fun s =>
    if s.g EDRYN.TRACE.STATE = tAcquiring ∨ s.g EDRYN.TRACE.STATE = tLocked
    then s.p EDRYN.BOUND.NS (getF v 31 0) else s))

/-- R78. -/
def execServoTimeout (s : State) : Host.Outcome State Fault Refusal :=
  done s (if !s.aonUp || s.edryn.servoFired ||
      decide (s.edryn.clk < s.edryn.servoClk + s.g EDRYN.SERVO_CTL.TIMEOUT * msClk) then s
    else
      let s := s.modEdryn (fun e => { e with servoFired := true })
      let s := ((s.evt EDRYN.base 14).pb EDRYN.SERVO_CTL.ACQ false).pb EDRYN.SERVO_CTL.LOCK false
      let t := s.g EDRYN.TRACE.STATE
      if t = tAcquiring then s.acqEnd else if t = tLocked then s.setTrace tHoldover else s)

/-- R79: the limit is tested at an update. (DESIGN CHOICE, unsafe: assumption 129) -/
def execHoldoverTick (s : State) : Host.Outcome State Fault Refusal :=
  let k := s.edryn.holdK + 1
  done s (if s.g EDRYN.TRACE.STATE ≠ tHoldover ∨ s.edryn.clk < s.edryn.holdClk + k * msClk then s
    else
      let b := holdBound s.edryn.holdB0 (s.g EDRYN.HOLD_COEF.LIN) (s.g EDRYN.HOLD_COEF.QUAD) k
      let s := (s.p EDRYN.BOUND.NS b).modEdryn (fun e => { e with holdK := k })
      if s.g EDRYN.HOLD_LIMIT.NS ≤ b then s.setTrace tFreerun else s)

/-- R64. -/
def execLeapApply (s : State) : Host.Outcome State Fault Refusal :=
  let l := s.g EDRYN.UTC.LEAP
  done s (if (l = 1 ∨ l = 2) ∧ s.g EDRYN.UTC.LEAP_AT * 10 ^ 9 ≤ s.ns then
    (s.p EDRYN.UTC.OFFSET (if l = 1 then s.g EDRYN.UTC.OFFSET + 1 else s.g EDRYN.UTC.OFFSET + 0xFFFF)).p
      EDRYN.UTC.LEAP 0
  else s)

/-- R66. -/
def execTrefQualify (s : State) : Host.Outcome State Fault Refusal :=
  done s (if s.aonUp && s.gb EDRYN.SRC.ON_INTERNAL && decide (s.edryn.trefClk + 1000 * msClk ≤ s.edryn.clk)
    then (s.pb EDRYN.SRC.REF_OK true).pb EDRYN.SRC.ON_INTERNAL false else s)

/-- R66, R78. -/
def execTrefLoss (s : State) : Host.Outcome State Fault Refusal :=
  done s (if s.gb EDRYN.SRC.REF_OK then
    let s := ((s.pb EDRYN.SRC.REF_OK false).pb EDRYN.SRC.ON_INTERNAL true).evt EDRYN.base 15
    (s.modEdryn (fun e => { e with trefClk := e.clk })).setTrace tUntraceable
  else s)

/-- The lane's CDR loses lock; with SyncE selected the DPLL then holds its rate (R67). -/
def execSynceCdrLoss (lane : Nat) (s : State) : Host.Outcome State Fault Refusal :=
  done s (s.modEdryn (fun e => { e with cdr := tset false e.cdr (lane % 8) false }))

def execSynceCdrLock (lane : Nat) (s : State) : Host.Outcome State Fault Refusal :=
  done s (s.modEdryn (fun e => { e with cdr := tset false e.cdr (lane % 8) true }))

/-- Whether RCLK_OUTn carries a clock: divided, and not squelched (R67, `RCLK_CTL`). -/
def State.rclkLive (s : State) (n : Nat) : Bool :=
  let (lane, div, sq) := if n = 0
    then (s.g EDRYN.RCLK_CTL.LANE0, s.g EDRYN.RCLK_CTL.DIV0, s.gb EDRYN.RCLK_CTL.SQUELCH0)
    else (s.g EDRYN.RCLK_CTL.LANE1, s.g EDRYN.RCLK_CTL.DIV1, s.gb EDRYN.RCLK_CTL.SQUELCH1)
  div != 0 && (!sq || tget false s.edryn.cdr lane)

/-- R67: at each whole second. -/
def execFreqMeasUpdate (v : Word) (s : State) : Host.Outcome State Fault Refusal :=
  done s (if s.edryn.lastMeasSec < s.ns / 10 ^ 9 then
    (s.p EDRYN.FREQ_MEAS.FREQ (getF v 39 0)).modEdryn (fun e => { e with lastMeasSec := s.ns / 10 ^ 9 })
  else s)

def execPpsEdge (pin : Nat) (s : State) : Host.Outcome State Fault Refusal :=
  done s (s.ppsIn (pin % 2))

def execTodMessageRx (msg : Bytes) (framingOk : Bool) (durNs : Nat) (s : State) :
    Host.Outcome State Fault Refusal :=
  done s (s.todRx msg framingOk durNs)

/-- The oldest message that TOD_TX owes goes out, where the output is still a 1PPS (R71). -/
def execTodMessageTx (s : State) : Host.Outcome State Fault Refusal :=
  done s (match s.edryn.todDue with
    | [] => s
    | (c, sec) :: r =>
      if s.edryn.clk < c then s
      else
        let f := (s.ffOut (s.g EDRYN.TOD_CTL.TX_FF)).cfg
        let s := s.modEdryn (fun e => { e with todDue := r })
        if s.gb EDRYN.TOD_CTL.TX_EN ∧ f.mode = 1 ∧ f.period = 10 ^ 9 * nsUnit then
          let (m, s) := s.todMessage sec
          s.emit (.tod m)
        else s)

def execTimePageUpdate (inst : Nat) (s : State) : Host.Outcome State Fault Refusal :=
  done s (if s.instLive inst then s.pageUpdate inst else s)

/-- R83: a dialog that is due while BME is 0 is skipped (R112). -/
def execPtmDialog (l : Nat) (s : State) : Host.Outcome State Fault Refusal :=
  let k := s.link l
  let iv := if s.g EDRYN.PTM_CTL.INTERVAL = 0 then 10 else s.g EDRYN.PTM_CTL.INTERVAL
  done s (if k.cfgGet cfgPtm = 1 ∧ s.dlUp l ∧ k.ptm.open_ = false ∧ k.ptm.lastClk + iv * msClk ≤ s.edryn.clk
    then
      if s.bme l then
        (s.modPtm l (fun p => { p with open_ := true, reqTai := quant125 s.edryn.time,
                                       reqClk := s.edryn.clk, lastClk := s.edryn.clk })).send l .ptmReq
      else s.modPtm l (fun p => { p with lastClk := s.edryn.clk })
    else s)

/-- The pair: the PTM master time at the request's transmission, corrected by the reported propagation
delay, with the Edryn time of that transmission. (PRESUMED, unsafe: assumption 30) -/
def execPtmResponse (l master delay : Nat) (s : State) : Host.Outcome State Fault Refusal :=
  let p := (s.link l).ptm
  let trip := s.ns - p.reqTai / nsUnit
  done s (if p.open_ ∧ s.edryn.clk ≤ p.reqClk + msClk then
    s.modPtm l (fun p => { p with open_ := false, valid := true, doneClk := s.edryn.clk,
                                  host := wrapInt 64 ((master : Int) - ((trip : Int) - delay) / 2),
                                  tai := p.reqTai / nsUnit, frac := p.reqTai % nsUnit })
  else s)

def execPtmAbandon (l : Nat) (s : State) : Host.Outcome State Fault Refusal :=
  let p := (s.link l).ptm
  done s (if p.open_ ∧ p.reqClk + msClk ≤ s.edryn.clk then s.modPtm l (fun p => { p with open_ := false }) else s)

/-- R84. -/
def execEvidenceRecord (s : State) : Host.Outcome State Fault Refusal :=
  done s (if s.aonUp && s.evidenceDue then
    let st := s.edryn.evStep
    (s.modEdryn (fun e => { e with evLast := s.ns / (60 * 10 ^ 9), evStep := false })).evidence false st
  else s)

/-- A write of a Firefly register: 0 CTL, 1 PERIOD, 2 PHASE, 3 WIDTH (R87). -/
def State.ffWrite (s : State) (n reg : Nat) (v : Word) : State :=
  let s := match reg with
    | 0 => ((s.p (EDRYN.FF_CTL.MODE n) (getF v 2 0)).p (EDRYN.FF_CTL.POL n) (getF v 3 3)).p
             (EDRYN.FF_CTL.RCLK_SEL n) (getF v 4 4)
    | 1 => s.p (EDRYN.FF_PERIOD.PERIOD n) (getF v 47 0)
    | 2 => s.p (EDRYN.FF_PHASE.PHASE n) (getF v 47 0)
    | _ => s.p (EDRYN.FF_WIDTH.WIDTH n) (getF v 31 0)
  s.ffWritten n

def execFfConfigWrite (actor n reg : Nat) (v : Word) (s : State) : Host.Outcome State Fault Refusal :=
  act s actor (s.gated actor (EDRYN.FF_CTL.reg (n % 4) + 8 * (reg % 4)) (fun s => s.withBalls (s.ffWrite (n % 4) (reg % 4) v)))

def execFireflyPeriodicEdge (n : Nat) (s : State) : Host.Outcome State Fault Refusal :=
  done s (if s.aonUp then s.ffPeriodic (n % 4) else s)

end Sys2Proof.Machine
end

