-- ==== Sys2Proof/Machine/Waggle.lean ====
section
/-! DEFINITION. Waggle: channel blocks and mailboxes (R379–R388, R393), doorbells (R389), locks (R390, R391)
and claim words (R57). -/

namespace Sys2Proof.Machine

/-- The answer to a register read: a value, or an error response; `secure` where it is of kind SECURE. -/
inductive RdRes where
  | val (v : Nat)
  | err (secure : Bool)
  deriving DecidableEq, Repr

/-! Doorbells. -/

/-- Rings doorbell d of WAGGLE w (R389). (DEDUCED, unsafe: assumption 123) -/
def State.ring (s : State) (w d : Nat) : State :=
  if w = 0 then
    if s.gb (WAGGLE.DB_CFG.EN 0 d) then s.signal (s.g (WAGGLE.DB_CFG.LINK 0 d)) (s.g (WAGGLE.DB_CFG.VECTOR 0 d))
    else s
  else
    let m := s.g (WAGGLE.DB_CFG.THREADS w d)
    (List.range 64).foldl (fun s k => if bit m k then s.thEvent ((w - 1) * 64 + k) evDoorbell else s) s

/-- Doorbells of a WAGGLE. -/
def dbCount (w : Nat) : Nat := if w = 0 then 256 else 1024

/-! Channel blocks. -/

/-- Address of channel block c of WAGGLE w. -/
def chBlock (w c : Nat) : Nat := WAGGLE.base w + 0x1_0000 + 0x40 * c
def chCount (w : Nat) : Nat := if w = 0 then 2112 else 64
def chKey (w c : Nat) : Nat := w * 4096 + c

/-- The power domain of a channel block (R379). -/
def State.chDom (s : State) (w c : Nat) : Nat :=
  if w ≠ 0 then 13 + w
  else
    let b := s.g (CH.CFG.B_ACTOR (chBlock w c))
    if isThread b then 14 + threadNo b / 64 else 0

/-- The actor at an end of a channel. -/
def State.chEnd (s : State) (w c : Nat) (b : Bool) : Nat :=
  if b then s.g (CH.CFG.B_ACTOR (chBlock w c)) else s.g (CH.CFG.A_ACTOR (chBlock w c))

/-- Whether B, not A, writes mailbox m. -/
def mbByB (m : Nat) : Bool := m == 1 || m == 2

/-- A logged access (R386, R391): 1 SECURE, 2 SLEEP, 3 WRONG_END, 4 LOCK_NOT_OWNER. -/
def State.wagLog (s : State) (w actor kind off : Nat) (write : Bool) : State :=
  let s := (s.p (WAGGLE.ERR_LOG.ACTOR w) actor).p (WAGGLE.ERR_LOG.KIND w) kind
  ((s.pb (WAGGLE.ERR_LOG.WRITE w) write).p (WAGGLE.ERR_LOG.OFFSET w) off).inc (WAGGLE.ERR_LOG.COUNT w)

/-- The kind of error response an access to a channel block gets, 0 for none (R385, R386). `right`: the
access is one that R380 allows. (DESIGN CHOICE, unsafe: assumption 167) -/
def State.chKind (s : State) (actor w c : Nat) (right : Bool) : Nat :=
  if s.gb (CH.CFG.SECURE (chBlock w c)) && !s.secure actor then 1
  else if s.domDown (s.chDom w c) then 2
  else if !right then 3 else 0

/-- An error response. (DEDUCED, unsafe: assumption 106) -/
def State.chErr (s : State) (actor w off kind : Nat) (write : Bool) : State :=
  let s := (s.wagLog w actor kind off write).evt (WAGGLE.base w) 11
  if write && kind == 2 then s.inc ROOT.DROPPED_WRITES.COUNT else s

/-- Notifies an end of a channel (R384); `force` whatever its enable. (DEDUCED, unsafe: assumption 123) -/
def State.chNotify (s : State) (w c : Nat) (b force : Bool) : State :=
  let k := chBlock w c
  let e := s.chEnd w c b
  let en := if b then s.gb (CH.CFG.B_EN k) else s.gb (CH.CFG.A_EN k)
  if !(en || force) then s
  else if isThread e then
    s.ring (threadNo e / 64 + 1) (if b then s.g (CH.CFG.B_DB k) else s.g (CH.CFG.A_NOTE k))
  else if b then s
  else if isInst e then (s.raiseEntry (s.ri (e - 0x100) IR.intBase + s.g (CH.CFG.A_NOTE k))).2
  else if isPf e then s.ring 0 (s.g (CH.CFG.A_NOTE k))
  else s

def State.full (s : State) (w c m : Nat) : Bool := bit (s.g (CH.STAT.FULL (chBlock w c))) m
def State.setFull (s : State) (w c m : Nat) (v : Bool) : State :=
  s.p (CH.STAT.FULL (chBlock w c)) (setBits (s.g (CH.STAT.FULL (chBlock w c))) m m (b2n v))
def State.crossAt (s : State) (w c : Nat) : Cross := tget Cross.reset s.cross (chKey w c)
def State.setCross (s : State) (w c : Nat) (v : Cross) : State :=
  { s with cross := tset Cross.reset s.cross (chKey w c) v }

/-- A write to mailbox m of channel c (R380, R381, R384–R386, R393). -/
def State.mbWrite (s : State) (actor w c m : Nat) (v : Word) : Option Bool × State :=
  let off := 0x1_0000 + 0x40 * c + 8 * m
  let e := s.chEnd w c (mbByB m)
  match s.chKind actor w c (e != 0 && e == actor) with
  | 0 =>
    let k := chBlock w c
    let s := if m = 1 ∧ w = 0 ∧ c < 2048 ∧ tget 0 s.chOpen c ≠ 0 then
        { s with chOpen := tset 0 s.chOpen c (tget 0 s.chOpen c - 1) }.subRef c IR.refHive 1 else s
    if s.full w c m then
      (none, (s.p (CH.STAT.OVERRUN k) (s.g (CH.STAT.OVERRUN k) ||| 2 ^ m)).evt (WAGGLE.base w) 8)
    else (none, ((s.setReg (k + 8 * m) v).setFull w c m true).chNotify w c (!mbByB m) false)
  | kind => (some (kind == 1), s.chErr actor w off kind true)

/-- A 64-bit read of mailbox m (R382); a narrow one takes nothing (R34). -/
def State.mbRead (s : State) (actor w c m : Nat) (wide : Bool) : RdRes × State :=
  let off := 0x1_0000 + 0x40 * c + 8 * m
  let e := s.chEnd w c (!mbByB m)
  match s.chKind actor w c (e != 0 && e == actor) with
  | 0 =>
    let k := chBlock w c
    if !wide then (.val 0xFFFF_FFFF, s.evtErr (WAGGLE.base w))
    else if !s.full w c m then
      (.val 0, (s.p (CH.STAT.UNDERRUN k) (s.g (CH.STAT.UNDERRUN k) ||| 2 ^ m)).evt (WAGGLE.base w) 9)
    else
      let v := s.reg (k + 8 * m)
      let s := s.setFull w c m false
      let x := s.crossAt w c
      let s := if m = 1 then (s.pb (CH.STAT.AWAIT_A k) false).setCross w c { x with sinceA := none }
        else if m = 3 then (s.pb (CH.STAT.AWAIT_B k) false).setCross w c { x with sinceB := none }
        else s.setCross w c { x with reported := false }
      let s := if m = 0 ∧ w = 0 ∧ c < 2048 then
          { s with chOpen := tset 0 s.chOpen c (tget 0 s.chOpen c + 1) }.addRef c IR.refHive 1 else s
      (.val v.toNat, s)
  | kind => (.err (kind == 1), s.chErr actor w off kind false)

/-- A read of `CH_STAT` or `CH_CFG`: either end and the configuring actors (R380). -/
def State.chRead (s : State) (actor w c off : Nat) : RdRes × State :=
  let right := (actor == s.chEnd w c false) || (actor == s.chEnd w c true) || s.permits actor .waggle
  match s.chKind actor w c right with
  | 0 => (.val (s.reg (chBlock w c + off)).toNat, s)
  | kind => (.err (kind == 1), s.chErr actor w (0x1_0000 + 0x40 * c + off) kind false)

/-- A write of `CH_STAT` by either end: W1C and W1S fields (R380). -/
def State.chStatWrite (s : State) (actor w c : Nat) (v : Word) : Option Bool × State :=
  let right := (actor == s.chEnd w c false) || (actor == s.chEnd w c true)
  match s.chKind actor w c right with
  | 0 =>
    let k := chBlock w c
    let r := s.reg (CH.STAT.reg k)
    let clr := v &&& 0x4FF0
    let s := s.setReg (CH.STAT.reg k) ((r &&& ~~~clr) ||| (v &&& 0x3000))
    let x := s.crossAt w c
    let now := some s.edryn.clk
    (none, s.setCross w c { x with
      sinceA := if getF r 12 12 = 0 ∧ getF v 12 12 = 1 then now else x.sinceA,
      sinceB := if getF r 13 13 = 0 ∧ getF v 13 13 = 1 then now else x.sinceB })
  | kind => (some (kind == 1), s.chErr actor w (0x1_0000 + 0x40 * c + 0x20) kind true)

/-- An actor ID as a field that holds one reads it: a reserved value is not kept (R17). (DESIGN CHOICE, unsafe: assumption 55) -/
def actorField (a : Nat) : Nat := if actorOk a then a else 0

/-- A write of `CH_CFG` by a configuring actor: SECURE is not software's, and the A end of an instance
channel is fixed. (DESIGN CHOICE, unsafe: assumption 55) -/
def State.chCfgWrite (s : State) (actor w c : Nat) (v : Word) : Option Bool × State :=
  match s.chKind actor w c (s.permits actor .waggle) with
  | 0 =>
    let k := chBlock w c
    let cl := UNIT.CLAIM.reg (WAGGLE.base w)
    if !s.claimAllows cl actor then (none, s.evtConflict (WAGGLE.base w))
    else
      let a := if w = 0 ∧ c < 2048 then 0x100 + c else actorField (getF v 15 0)
      let n := (((v &&& 0x7F_FFFF_0000_0000) ||| BitVec.ofNat 64 a) |||
        BitVec.ofNat 64 (actorField (getF v 31 16) * 2 ^ 16)) ||| (s.reg (CH.CFG.reg k) &&& 0x80_0000_0000_0000)
      (none, s.setReg (CH.CFG.reg k) n)
  | kind => (some (kind == 1), s.chErr actor w (0x1_0000 + 0x40 * c + 0x28) kind true)

/-- Empties an instance's channel and drops its open requests (R157, R393). -/
def State.chEmpty (s : State) (i : Nat) : State :=
  let k := chBlock 0 i
  let s := (s.setReg (CH.STAT.reg k) 0).setCross 0 i Cross.reset
  { s with chOpen := tset 0 s.chOpen i 0 }.subRef i IR.refHive (tget 0 s.chOpen i)

/-- How long an end has been awaiting, in ns; `none` where it is not (R387). -/
def State.awaiting (s : State) (w c : Nat) (b : Bool) : Option Nat :=
  let e := s.chEnd w c b
  if isThread e then
    let v := s.th (threadNo e)
    if v.state = thWfe then some (s.since v.clk) else none
  else (if b then (s.crossAt w c).sinceB else (s.crossAt w c).sinceA).map s.since

/-- Whether both ends await with both requests full beyond the timeout (R387). -/
def State.crossed (s : State) (w c : Nat) : Bool :=
  let t := s.g (WAGGLE.CFG.CROSS_TIMEOUT w)
  let lim := (if t = 0 then 1000 else t) * 1000
  s.full w c 0 && s.full w c 2 && !(s.crossAt w c).reported &&
  (match s.awaiting w c false, s.awaiting w c true with
   | some a, some b => decide (lim < a) && decide (lim < b)
   | _, _ => false)

/-! Locks. -/

/-- A read of lock k (R390). -/
def State.lockRead (s : State) (actor w k : Nat) (wide : Bool) : RdRes × State :=
  let a := WAGGLE.LOCK.reg w k
  if !wide then (.val 0xFFFF_FFFF, s.evtErr (WAGGLE.base w))
  else
    let o := s.g (WAGGLE.LOCK.OWNER w k)
    if o = 0 then (.val 0, s.setReg a (BitVec.ofNat 64 actor)) else (.val o, s)

/-- A write of lock k (R391). -/
def State.lockWrite (s : State) (actor w k : Nat) (v : Word) : State :=
  let a := WAGGLE.LOCK.reg w k
  let o := s.g (WAGGLE.LOCK.OWNER w k)
  let bad := (s.wagLog w actor 4 (0x1000 + 8 * k) true).evtErr (WAGGLE.base w)
  if getF v 63 63 = 1 then
    if actor = s.owner ∨ actor = 0x2000 then (s.setReg a 0).evt (WAGGLE.base w) 12 else bad
  else if o = actor ∧ o ≠ 0 then s.setReg a 0 else bad

/-- How many locks a WAGGLE has. -/
def lockCount (w : Nat) : Nat := if w = 0 then 256 else 64

/-! Claim words (R57). -/

/-- Whether an address is a claim word, and the unit that holds the resource. -/
def claimUnit (a : Nat) : Option Nat :=
  match unitAt a with
  | none => none
  | some u =>
    let off := a - u.base
    if off = 0x38 then some u.base
    else match u.type with
    | .trig => if 0x1000 ≤ off ∧ off < 0x5000 ∧ (off - 0x1000) % 0x40 = 0x30 then some u.base else none
    | .pin => if 0x100 ≤ off ∧ off < 0x200 ∧ off % 16 = 8 then some u.base else none
    | .forager => if 0x80 ≤ off ∧ off < 0xC0 ∧ off % 8 = 0 then some u.base else none
    | .comb => if 0x200 ≤ off ∧ off < 0x280 ∧ off % 8 = 0 then some u.base else none
    | _ => none

def claimOwner (a : Nat) : Fld := ⟨a, 15, 0⟩
def claimDenied (a : Nat) : Fld := ⟨a, 47, 32⟩

/-- A CLAIM of a claim word (R57). -/
def State.claimTake (s : State) (actor a u : Nat) : State :=
  let o := s.g (claimOwner a)
  if o = 0 then s.p (claimOwner a) actor
  else if o = actor then s
  else (s.p (claimDenied a) actor).evtConflict u

/-- A RELEASE (R57) and a FORCE (R46). -/
def State.claimDrop (s : State) (actor a u : Nat) : State :=
  if s.g (claimOwner a) = actor then s.p (claimOwner a) 0 else s.evtErr u
def State.claimBreak (s : State) (actor a u : Nat) : State :=
  if actor = s.owner ∨ actor = 0x2000 then s.p (claimOwner a) 0 else s.evtErr u

/-- A write of a claim word: RELEASE applies before CLAIM (R57). -/
def State.claimWrite (s : State) (actor a u : Nat) (v : Word) : State :=
  let s := if getF v 18 18 = 1 then s.claimBreak actor a u else s
  let s := if getF v 17 17 = 1 then s.claimDrop actor a u else s
  if getF v 16 16 = 1 then s.claimTake actor a u else s

/-- Every claim that an actor holds is released (R58). -/
def State.releaseClaims (s : State) (actor : Nat) : State :=
  s.regs.foldl (fun s e => if (claimUnit e.1).isSome ∧ getF e.2 15 0 = actor then s.p (claimOwner e.1) 0 else s) s

/-- Every lock that an actor holds is released (R391). -/
def State.releaseLocks (s : State) (actor : Nat) : State :=
  s.regs.foldl (fun s e =>
    match unitAt e.1 with
    | some u =>
      if u.type = .waggle ∧ 0x1000 ≤ e.1 - u.base ∧ e.1 - u.base < 0x2000 ∧ getF e.2 15 0 = actor
      then s.setReg e.1 0 else s
    | none => s) s

/-- RESET of a thread (R349, R362): everything zero; packets that the Hive holds stay held. -/
def State.resetTh (s : State) (t : Nat) : State :=
  let s := s.setTh t { Thread.reset with clk := s.edryn.clk }
  (s.releaseClaims (thActor t)).releaseLocks (thActor t)

/-! The commands. -/

/-- Whether an actor is an instance without a page of its own: one that does not exist, or whose link is sealed
(R45, R117). -/
def State.noPage (s : State) (actor : Nat) : Bool :=
  isInst actor && (!s.instLive (actor - 0x100) || s.instSealed (actor - 0x100))

/-- A mailbox write by its actor: `w` the WAGGLE (0 the device's, h + 1 that of HIVEh). -/
def execMailboxWrite (actor w c m : Nat) (v : Word) (s : State) : Host.Outcome State Fault Refusal :=
  if !actorOk actor then .refused .outsideInterface
  else if 12 < w ∨ chCount w ≤ c ∨ 3 < m ∨ s.noPage actor then done s s
  else match s.mbWrite actor w c m v with
    | (none, t) => done s t
    | (some _, t) => done s (if isPf actor || isInst actor || actor == 0x2000 || actor == 0x2002 then t
        else t.emit (.regError actor (chBlock w c + 8 * m)))

/-- What a read answers its actor (R386). -/
def State.answer (s : State) (actor a : Nat) : RdRes → State
  | .val v => s.emit (.regRead actor a v)
  | .err _ => if actor == 0x2000 || actor == 0x2002 then s.emit (.regRead actor a 0) else s.emit (.regError actor a)

def execMailboxRead (actor w c m : Nat) (wide : Bool) (s : State) : Host.Outcome State Fault Refusal :=
  if !actorOk actor then .refused .outsideInterface
  else if s.noPage actor then done s (s.emit (.regRead actor (chBlock w c + 8 * m) (if wide then 2 ^ 64 - 1 else 2 ^ 32 - 1)))
  else if 12 < w ∨ chCount w ≤ c ∨ 3 < m then done s (s.emit (.regRead actor (chBlock w c + 8 * m) 0))
  else
    let r := s.mbRead actor w c m wide
    done s (r.2.answer actor (chBlock w c + 8 * m) r.1)

def execCrossedDetect (w c : Nat) (s : State) : Host.Outcome State Fault Refusal :=
  done s (if 12 < w ∨ chCount w ≤ c ∨ s.crossed w c = false then s
    else
      let s := (s.pb (CH.STAT.CROSSED (chBlock w c)) true).evt (WAGGLE.base w) 10
      let s := s.setCross w c { s.crossAt w c with reported := true }
      (s.chNotify w c false true).chNotify w c true true)

/-- A write of a doorbell's ring register: dropped and counted while a Hive's domain sleeps (R38), and Chitin's to
permit (R432). (DEDUCED, unsafe: assumption 28) -/
def State.dbWrite (s : State) (actor w d : Nat) (v : Word) : State :=
  if w ≠ 0 ∧ s.domDown (13 + w) then s.inc ROOT.DROPPED_WRITES.COUNT
  else if !s.permits actor .waggle then s.evtErr (WAGGLE.base w)
  else if getF v 0 0 = 1 then s.ring w d else s

def execDbRing (actor w d : Nat) (v : Word) (s : State) : Host.Outcome State Fault Refusal :=
  act s actor (if 12 < w ∨ dbCount w ≤ d then s else s.dbWrite actor w d v)

def execLockRead (actor w k : Nat) (wide : Bool) (s : State) : Host.Outcome State Fault Refusal :=
  if !actorOk actor then .refused .outsideInterface
  else if 12 < w ∨ lockCount w ≤ k then done s (s.emit (.regRead actor (WAGGLE.LOCK.reg w k) 0))
  else if w ≠ 0 ∧ s.domDown (13 + w) then done s (s.answer actor (WAGGLE.LOCK.reg w k) (.err false))
  else
    let r := s.lockRead actor w k wide
    done s (r.2.answer actor (WAGGLE.LOCK.reg w k) r.1)

def execLockRelease (actor w k : Nat) (s : State) : Host.Outcome State Fault Refusal :=
  act s actor (if 12 < w ∨ lockCount w ≤ k then s
    else if w ≠ 0 ∧ s.domDown (13 + w) then s.inc ROOT.DROPPED_WRITES.COUNT
    else s.lockWrite actor w k 0)

def execLockForce (actor w k : Nat) (s : State) : Host.Outcome State Fault Refusal :=
  act s actor (if 12 < w ∨ lockCount w ≤ k then s
    else if w ≠ 0 ∧ s.domDown (13 + w) then s.inc ROOT.DROPPED_WRITES.COUNT
    else s.lockWrite actor w k (BitVec.ofNat 64 (2 ^ 63)))

/-- A per-resource word in a unit whose domain is in SLEEP or DEEP: the write is dropped (R38). (DEDUCED, unsafe: assumption 29) -/
def State.claimGate (s : State) (word u : Nat) (t : State) : State :=
  match unitAt word with
  | some i => if 0x40 ≤ word - u ∧ s.domDown i.dom then s.inc ROOT.DROPPED_WRITES.COUNT else t
  | none => s

/-- A CLAIM written to a claim word (R57). (DEDUCED, unsafe: assumption 29) -/
def execClaim (actor word : Nat) (s : State) : Host.Outcome State Fault Refusal :=
  act s actor (match claimUnit word with
  | none => s
  | some u => s.claimGate word u (s.claimTake actor word u))

def execClaimRelease (actor word : Nat) (s : State) : Host.Outcome State Fault Refusal :=
  act s actor (match claimUnit word with
  | none => s
  | some u => s.claimGate word u (s.claimDrop actor word u))

def execClaimForce (actor word : Nat) (s : State) : Host.Outcome State Fault Refusal :=
  act s actor (match claimUnit word with
  | none => s
  | some u => s.claimGate word u (s.claimBreak actor word u))

end Sys2Proof.Machine
end

