-- ==== Sys2Proof/Machine/Boot.lean ====
section
/-! DEFINITION. The change record and the rules of Chitin (R432–R436), SPDM sessions (R430, R431), start-up
and recovery (R422–R429) and what an activated image does (R360). -/

namespace Sys2Proof.Machine

def State.modTrust (s : State) (f : Trust → Trust) : State := { s with trust := f s.trust }

/-! Chitin entries. -/

/-- The defined bits of a Chitin word (R432). -/
def chitinMask (n : Nat) : Nat :=
  match n with
  | 0 => 7
  | 1 => 0x0FFF_FFFE | 2 => 0x0FFF_FFFE | 3 => 0x0FFF_FFFE | 4 => 0x0FFF_FFFE
  | 5 => 15 | 6 => 7 | 7 => 15 | 8 => 1 | 9 => 127 | 10 => 15
  | _ => 2 ^ 64 - 1

/-- The RWC bits of a register, 0 where it has none: the Hive's two, the window of fault source 2, and
the SECURE bit of a general channel. -/
def rwcMask (a : Nat) : Nat :=
  match unitAt a with
  | none => 0
  | some u =>
    let off := a - u.base
    match u.type with
    | .hive => if off = 0x90 then 2 ^ 64 - 1 else if off = 0x98 then 255 else 0
    | .fwc => if off = 0x60 then 2 ^ 48 - 1 else 0
    | .waggle =>
      if 0x1_0000 ≤ off ∧ (off - 0x1_0000) % 0x40 = 0x28 ∧ (off - 0x1_0000) / 0x40 < (waggleCounts u.base).2.2 ∧
        (u.base ≠ WAGGLE.base 0 ∨ 2048 ≤ (off - 0x1_0000) / 0x40) then 2 ^ 55 else 0
    | _ => 0

/-- Whether a new value is in the range that its target states. (DEDUCED, unsafe: assumption 118) -/
def State.chitinRange (s : State) (n v : Nat) : Bool :=
  match n with
  | 0 => decide (1 ≤ v) && decide (v ≤ 4)
  | 9 => decide (s.trust.fuseFloor ≤ v) && decide (v ≤ s.g KEEPER.BOOT_STAT.SVN) && decide (v ≤ 64)
  | 10 => v &&& s.trust.fuseRevoked == s.trust.fuseRevoked && !bit v s.trust.imageKey
  | _ => true

/-- A Chitin word takes a value, with the effects of R433. `rearm`: Scarab was ALARMED before the record. -/
def State.putWord (s : State) (n v : Nat) (rearm : Bool) : State :=
  let old := s.chitin n
  let put (s : State) (v : Nat) : State :=
    s.modTrust (fun t => { t with words := tset (chitinDefault n) t.words n (BitVec.ofNat 64 v) })
  match n with
  | 5 =>
    let s := if bit v 2 && !bit old 2 then
        (s.wipeKeys.pb SCARAB.STATE.ALARMED true).p SCARAB.STATE.CAUSE 0 else s
    put s v
  | 8 => if v % 2 = 1 ∧ rearm then s.scarabRearm else s
  | 9 => (put (s.modTrust (fun t => { t with fuseFloor := v })) v).p KEEPER.FUSE.SVN_FLOOR v
  | 10 => (put (s.modTrust (fun t => { t with fuseRevoked := v })) v).p KEEPER.FUSE.KEY_REVOKED v
  | _ => put s v

/-- One change entry of 24 bytes (R434): the state with it applied, `none` where it is invalid. -/
def State.chitinEntry (s : State) (rearm : Bool) (e : Bytes) : Option State :=
  let t := leAt e 0 4
  let v := leAt e 8 8
  let m := leAt e 16 8
  let new (old : Nat) : Nat := (old - (old &&& m)) + (v &&& m)
  if !allZero (slice e 5 3) || (v &&& m) != v then none
  else if byteAt e 4 = 0 then
    let x := new (s.chitin t)
    if 16 < t ∨ (m &&& chitinMask t) ≠ m ∨ s.chitinRange t x = false then none else some (s.putWord t x rearm)
  else if byteAt e 4 = 1 then
    let x := new (s.reg t).toNat
    let k := rwcMask t
    if k = 0 ∨ (m &&& k) ≠ m then none
    else if k = 255 ∧ 128 < x then none
    else if t = FWC.SRC.reg 2 ∧ (bits x 31 0 = 0 ∨ bits x 47 32 = 0) then none
    else
      let s := s.setReg t (BitVec.ofNat 64 x)
      some s
  else none

/-- Entries in order: the state with all applied, or the place of the first invalid one. (DEDUCED, unsafe: assumption 117) -/
def State.chitinEntries (s : State) (rearm : Bool) (k : Nat) : List Bytes → Sum Nat State
  | [] => .inr s
  | e :: r =>
    match s.chitinEntry rearm e with
    | none => .inl k
    | some t => t.chitinEntries rearm (k + 1) r

/-- The entries of a record. -/
def recEntries (b : Bytes) (o n : Nat) : List Bytes := (List.range n).map (fun k => slice b (o + 24 * k) 24)

/-- A check of a record (R434, R436): its RESULT code where it is refused, with the entry's index, else the
state with it applied. -/
def State.chitinCheck (s : State) (b : Bytes) : Sum (Nat × Nat) State :=
  let n := leAt b 2 2
  if leAt b 0 2 ≠ 1 ∨ n = 0 ∨ 32 < n ∨ b.length ≠ 80 + 24 * n ∨ allZero (slice b 4 4) = false ∨
    allZero (slice b 24 8) = false then .inl (9, 0)
  else if leAt b 8 8 ≠ (s.g CHITIN.EPOCH.VALUE + 1) % 2 ^ 64 then .inl (5, 0)
  else if leAt b 16 8 ≠ s.g CHITIN.BOOT_NONCE.VALUE then .inl (6, 0)
  else if sha384 (b.take (32 + 24 * n)) ≠ b.drop (32 + 24 * n) then .inl (7, 0)
  else match s.chitinEntries s.alarmed 0 (recEntries b 32 n) with
    | .inl k => .inl (8, k)
    | .inr t => .inr t

/-- The pending submission and the bits that show it. -/
def State.setPend (s : State) (p : Option (Nat × Bytes × Nat)) : State :=
  let s := s.modTrust (fun t => { t with pend := p })
  (s.pb CHITIN.CHG_STAT.H_PENDING (p.any (fun x => x.1 == 1))).pb CHITIN.CHG_STAT.P_PENDING
    (p.any (fun x => x.1 == 2))

/-- The window of 30 s on the rate clock, in its cycles. -/
def chitinWindow : Nat := 30_000 * msClk

/-- A change applies (R436): EPOCH, index 7, index 8 where what it measures changed, APPLIED. (DEDUCED, unsafe: assumption 117) -/
def State.chitinApplied (s t : State) : State :=
  let t := t.p CHITIN.EPOCH.VALUE (s.g CHITIN.EPOCH.VALUE + 1)
  let t := t.measureWords
  let t := if t.trust.fuseFloor ≠ s.trust.fuseFloor ∨ t.trust.fuseRevoked ≠ s.trust.fuseRevoked ∨
    t.chitin 5 ≠ s.chitin 5 then t.measureFuses else t
  ((t.setPend none).p CHITIN.CHG_STAT.RESULT 1).evt CHITIN.base 8

/-- The end of the window discards what is pending (R436). -/
def State.chitinExpire (s : State) : State :=
  match s.trust.pend with
  | some (_, _, w) =>
    if w ≤ s.edryn.clk then ((s.setPend none).p CHITIN.CHG_STAT.RESULT 4).evt CHITIN.base 9 else s
  | none => s

/-- A valid submission of a party: the first one pends, an equal one of the other party applies (R436). (DEDUCED, unsafe: assumption 117) -/
def State.chitinValid (s t : State) (party : Nat) (b : Bytes) : State :=
  let ok (s : State) : State := s.p CHITIN.CHG_STAT.STATUS stOk
  match s.trust.pend with
  | none => ok (((s.setPend (some (party, b, s.edryn.clk + chitinWindow))).p CHITIN.CHG_STAT.RESULT 2).evt CHITIN.base 10)
  | some (p, q, w) =>
    if p = party then ok ((s.setPend (some (party, b, w))).p CHITIN.CHG_STAT.RESULT 2)
    else if q = b then ok (s.chitinApplied t)
    else ok (((s.setPend none).p CHITIN.CHG_STAT.RESULT 3).evt CHITIN.base 9)

/-- A submission of a party (R436). (DEDUCED, unsafe: assumption 117) (DESIGN CHOICE, unsafe: assumption 150) -/
def State.chitinSubmit (s : State) (party : Nat) (b : Bytes) : State :=
  let s := s.chitinExpire
  match s.chitinCheck b with
  | .inl (r, k) =>
    let s := (s.p CHITIN.CHG_STAT.STATUS stMalformed).p CHITIN.CHG_STAT.RESULT r
    (if r = 8 then s.p CHITIN.CHG_STAT.ENTRY k else s).evt CHITIN.base 9
  | .inr t => s.chitinValid t party b

/-- A party's pending submission is discarded (R436). (DEDUCED, unsafe: assumption 117) -/
def State.chitinDrop (s : State) (party : Nat) : State :=
  match s.trust.pend with
  | some (p, _, _) => if p = party then s.setPend none else s
  | none => s

/-- The bytes staged into CHITIN TAP table 0, cut to the length that COUNT states. -/
def State.stagedRecord (s : State) : Bytes :=
  let b := (List.range 14).flatMap (fun c => recBytes (tget 0 s.trust.stagedH c))
  b.take (80 + 24 * leAt b 2 2)

def execChitinSubmitH (actor : Nat) (v : Word) (s : State) : Host.Outcome State Fault Refusal :=
  act s actor (
    if getF v 0 0 = 0 then s
    else if actor ≠ s.owner then s.evtErr CHITIN.base
    else s.gated actor CHITIN.SUBMIT_H.reg (fun s => s.chitinSubmit 1 s.stagedRecord))

/-- A Party P submission in an SPDM session, with its answer (R435). -/
def execChitinSubmitP (session : Nat) (record : Bytes) (s : State) : Host.Outcome State Fault Refusal :=
  done s (if s.trust.sessions.contains (session, true) then
    let s := s.chitinSubmit 2 record
    s.emit (.spdm (leBytes 1 0x81 ++ leBytes 2 (s.g CHITIN.CHG_STAT.STATUS) ++ leBytes 1 (s.g CHITIN.CHG_STAT.RESULT)))
  else s)

def execChitinWindowExpire (s : State) : Host.Outcome State Fault Refusal := done s s.chitinExpire

/-! SPDM (R430, R431): request codes of DSP0274. -/

/-- The Keeper's functions run: the device is up, starting or in recovery. -/
def State.keeperUp (s : State) : Bool := s.trust.phase == 1 || s.trust.phase == 2 || s.trust.phase == 3

/-- The root digest that Chitin holds in PMC_ROOT0–5, 48 bytes in wire order. -/
def State.pmcRoot (s : State) : Bytes := (List.range 6).flatMap (fun k => beBytes 8 (s.chitin (11 + k)))

/-- What a request does to the sessions: KEY_EXCHANGE opens one of at most two, FINISH makes it a Party P
session under R431, END_SESSION ends it and discards its pending submission. (PRESUMED, unsafe: assumption 113) -/
def State.spdmState (s : State) (code session : Nat) (root : Bytes) (authOk : Bool) : State :=
  let ss := s.trust.sessions
  match code with
  | 0xE4 =>
    if ss.length < 2 ∧ ss.all (fun e => e.1 != session) then
      s.modTrust (fun t => { t with sessions := t.sessions ++ [(session, false)] })
    else s
  | 0xE5 =>
    if authOk && root == s.pmcRoot && !allZero root then
      s.modTrust (fun t => { t with sessions := t.sessions.map (fun e => if e.1 = session then (session, true) else e) })
    else s
  | 0xEC =>
    let s' := s.modTrust (fun t => { t with sessions := t.sessions.filter (fun e => e.1 != session) })
    if ss.contains (session, true) then s'.chitinDrop 2 else s'
  | _ => s

/-- The measurements in index order. (DESIGN CHOICE, unsafe: assumption 119) -/
def State.measurements (s : State) : Bytes :=
  (List.range 9).flatMap (fun i => tget [] s.trust.measure i)

/-- (PRESUMED, unsafe: assumption 113) -/
def execSpdmRequest (code session : Nat) (root : Bytes) (authOk : Bool) (body : Bytes) (s : State) :
    Host.Outcome State Fault Refusal :=
  done s (if s.keeperUp then
    let (n, s) := (s.spdmState code session root authOk).fresh
    s.emit (.spdm (Config.spdmAnswer n.toNat (leBytes 1 code ++ body ++ (if code = 0xE0 then s.measurements else []))))
  else s)

/-! Images that start to run. -/

def imemSize : Nat := 0x8_0000

/-- A Hive takes an image segment: its instruction memory and data segments; other store bytes stay (R360). (DEDUCED, unsafe: assumption 120) -/
def State.loadHive (s : State) (h : Nat) (seg : Bytes) : State :=
  let code := (Config.hiveCode seg).take imemSize
  let s := { s with imem := mwrite (s.imem.filter (fun e => e.1 / imemSize != h)) (h * imemSize) code }
  let s := s.modHv h (fun v => { v with imgLen := code.length, entry := Config.hiveEntry seg })
  (Config.hiveData seg).foldl (fun s d =>
    s.hsWrite h d.1 (d.2.take (hsSize - d.1))) s

/-- A thread starts at an entry point (R362). -/
def State.startTh (s : State) (t entry : Nat) : State :=
  let s := s.modTh t (fun v => { v with pc := entry, startClk := s.edryn.clk })
  s.setThState t thRun

/-- The supervisor is reset and started at the image's entry point. (DEDUCED, unsafe: assumption 50) -/
def State.startSup (s : State) (h : Nat) : State :=
  (s.resetTh (supervisor h)).startTh (supervisor h) (s.hv h).entry

/-! Start-up. -/

/-- The images that STRAP_BOOT [1:0] permits, in order (R422). -/
def bootOrder (strap : Nat) : List Nat :=
  match strap % 4 with
  | 0 => [0, 1] | 1 => [1, 0] | 2 => [0] | _ => [1]

/-- Steps 4 and 5 (R423): the reason of each image tried, and the first that passes. (DESIGN CHOICE, unsafe: assumption 114) -/
def State.tryImages (s : State) (imgs : List Bytes) : List Nat → List (Nat × Nat) × Option Nat
  | [] => ([], none)
  | k :: r =>
    let b := (imgs.drop k).headD []
    let x := s.bootReason (b.take (64 * 2 ^ 20))
    if x = 0 then ([(k, 0)], some k)
    else
      let y := s.tryImages imgs r
      ((k, x) :: y.1, y.2)

/-- Every unit that recovery leaves out is FAILED (R424). -/
def recoveryUnits : List UType :=
  [.root, .pin, .pwr, .fwc, .chitin, .keeper, .debug, .edryn, .trig, .hostif, .hostlink]
def State.recoveryFail (s : State) : State :=
  ((subtree 0).eraseDups.filter (fun u => match unitAt u with
    | some i => !recoveryUnits.contains i.type
    | none => false)).foldl (fun s u => s.failUnit u 7) s

/-- The Chitin words at start-up: the fuses, and in recovery the recovery column. -/
def State.startWords (s : State) (recovery : Bool) : State :=
  let w : Tbl Word := if recovery then tset (chitinDefault 4) (tset (chitinDefault 2) [] 2 0) 4 0 else []
  let w := tset (chitinDefault 9) w 9 (BitVec.ofNat 64 s.trust.fuseFloor)
  s.modTrust (fun t => { t with words := tset (chitinDefault 10) w 10 (BitVec.ofNat 64 t.fuseRevoked) })

/-- The board configuration (R426): an entry that R434 does not allow is passed over. (DEDUCED, unsafe: assumption 115) -/
def State.boardConfig (s : State) (b : Bytes) : State :=
  let s := s.modTrust (fun t => { t with ssid := leAt b 0 4, clocking := leAt b 4 1 })
  let n := leAt b 8 2
  if n = 0 ∨ 64 < n then s
  else (recEntries b 16 n).foldl (fun s e => (s.chitinEntry false e).getD s) s

/-- The measurements of a boot image (R428): the boot ROM's digest is free. -/
def State.bootMeasure (s : State) (b : Bytes) : State :=
  let (rom, s) := s.freshBytes 48
  let dig (t : Nat) : Bytes := ((segOf b t).map Seg.digest).getD []
  let s := (s.measure 1 rom).measure 2 (sha384 (b.take 1024))
  let s := [(3, 1), (4, 2), (5, 3), (6, 4)].foldl (fun s e => s.measure e.1 (dig e.2)) s
  s.measureWords.measureFuses

/-- The board configuration and the initial Chitin words of an image, measured where they change words. (DEDUCED, unsafe: assumption 115) -/
def State.bootWords (s : State) (b : Bytes) : State :=
  let t := match segOf b 4 with
    | some g => s.boardConfig (segBytes b g)
    | none => s
  if decide (t.trust.words = s.trust.words) then t else t.measureWords.measureFuses

/-- KEK, boot nonce and the time evidence key are drawn (step 6, R85). -/
def State.bootDraw (s : State) : State :=
  let r := s.freshBytes 32
  let n := State.fresh { r.2 with kek := r.1 }
  let s := n.2.p CHITIN.BOOT_NONCE.VALUE n.1.toNat
  { (s.modEdryn (fun e => { e with evKey := s.free })) with free := s.free + 1 }

/-- The Hive and Scarab images are loaded and every supervisor starts (step 7). (DESIGN CHOICE, unsafe: assumption 114) -/
def State.bootLoad (s : State) (b : Bytes) : State :=
  let s := match segOf b 3 with
    | some g => s.p SCARAB.PROG_STAT.ACTIVE_VER (g.version % 65536)
    | none => s
  match segOf b 2 with
  | some g => (List.range 12).foldl (fun s h => (s.loadHive h (segBytes b g)).startSup h) s
  | none => s

/-- Steps 6 and 7 with a boot image (R423). -/
def State.bootImage (s : State) (b : Bytes) : State :=
  let s := s.modTrust (fun t => { t with imageKey := (s.fusedKey b).getD 0, phase := 1 })
  let s := (((s.p KEEPER.BOOT_STAT.SVN (imgSvn b)).startWords false).bootMeasure b).bootWords b
  (s.bootDraw.withPins (fun p => { p with regEn := 0xFF })).bootLoad b

/-- No image passes: recovery (R424). -/
def State.enterRecovery (s : State) : State :=
  let s := s.modTrust (fun t => { t with phase := 3 })
  let s := (s.startWords true).p KEEPER.BOOT_STAT.IMAGE 2
  let s := s.withPins (fun p => { p with regEn := 0x1F, alertHold := true })
  (s.recoveryFail.evt KEEPER.base 9)

/-- SYS_RST_N goes low: everything but the fuses, which hold LIFE_H in steps of 100 h (R420), and the pins'
outside levels is at its reset value. (DEDUCED, unsafe: assumption 118) -/
def State.sysReset (s : State) (phase : Nat) : State :=
  let t := s.trust
  let life (r : State) (g : Nat) : State := r.p (FWC.AGE.LIFE_H g) (s.g (FWC.AGE.LIFE_H g) / 100 * 100)
  (List.range 8).foldl life { State.reset with
    free := s.free, out := s.out,
    trust := { Trust.reset with phase := phase, fuseFloor := t.fuseFloor, fuseRevoked := t.fuseRevoked, fuseKeys := t.fuseKeys },
    pins := { Pins.reset with regPg := s.pins.regPg, levels := s.pins.levels, sysRstN := s.pins.sysRstN,
                              pgReset := if phase = 0 then s.pins.pgReset else 0, regEn := if phase = 4 then 0 else 1 } }

/-- Start-up from step 2 on (R422, R423), which a missing power-good of group 1 or 2 stops (R462): the straps, the images of both chip selects, and whether the
entropy source and DRBG tests pass. (DEDUCED, unsafe: assumption 46) (DEDUCED, unsafe: assumption 115) -/
def State.startUp (s : State) (strapBoot strapHost : Nat) (imgA imgB : Bytes) (tests : Bool) : State :=
  let sb := strapBoot % 8
  let sh := strapHost % 4
  let s := s.modTrust (fun t => { t with strapBoot := sb, strapHost := sh, startClk := s.edryn.clk })
  let s := (s.p KEEPER.BOOT_STAT.STRAP_BOOT sb).p KEEPER.BOOT_STAT.STRAP_HOST sh
  let s := (s.p KEEPER.FUSE.SVN_FLOOR s.trust.fuseFloor).p KEEPER.FUSE.KEY_REVOKED s.trust.fuseRevoked
  let s := (s.pb EDRYN.SRC.ON_INTERNAL true).withPins (fun p => { p with regEn := if bit p.regPg 1 then 7 else 3 })
  let s := s.modEdryn (fun e => { e with trefClk := e.clk, servoClk := e.clk })
  if !bit s.pins.regPg 1 || !bit s.pins.regPg 2 then
    (s.modTrust (fun t => { t with phase := 6 })).withPins (fun p => { p with alertHold := true })
  else if !tests then s.modTrust (fun t => { t with phase := 6 })
  else
    let s := [0, 1, 2, 3].foldl (fun s l =>
      if s.fitted l then s else s.setCur (HOSTLINK.base l) svcOut 5) s
    let r := s.tryImages [imgA, imgB] (bootOrder sb)
    let reason (k : Nat) : Nat := ((r.1.find? (fun e => e.1 == k)).map (·.2)).getD 8
    let s := (s.p KEEPER.BOOT_STAT.REASON_A (reason 0)).p KEEPER.BOOT_STAT.REASON_B (reason 1)
    let s := if (r.1.headD (0, 0)).2 = 0 then s else (s.pb KEEPER.BOOT_STAT.FALLBACK true).evt KEEPER.base 8
    match r.2 with
    | none => s.enterRecovery
    | some k => (s.p KEEPER.BOOT_STAT.IMAGE k).bootImage ((if k = 0 then imgA else imgB).take (64 * 2 ^ 20))

/-- SYS_RST_N asserted: the device without power (OFF) stays as it is. -/
def execSysResetAssert (s : State) : Host.Outcome State Fault Refusal :=
  done s (if s.trust.phase = 4 ∨ s.trust.phase = 5 then s
    else (s.sysReset 0).withPins (fun p => { p with sysRstN := false }))

/-- (DESIGN CHOICE, unsafe: assumption 11) (DEDUCED, unsafe: assumption 120) -/
def execSysResetRelease (strapBoot strapHost : Nat) (imgA imgB : Bytes) (tests : Bool) (s : State) :
    Host.Outcome State Fault Refusal :=
  let s' := s.withPins (fun p => { p with sysRstN := true })
  done s (if s.trust.phase = 4 ∨ s.trust.phase = 5 then s
    else if s.trust.phase = 0 ∧ s.pins.pgReset = 0 then s'.startUp strapBoot strapHost imgA imgB tests else s')

/-- Step 8 (R399, R423): the Keeper's votes, BOOT released, BOOT_NS; the servo firmware holds EDRYN. (DESIGN CHOICE, unsafe: assumption 116) -/
def State.bootDone (s : State) : State :=
  let s := if s.g (UNIT.CLAIM.OWNER EDRYN.base) = 0 then s.p (UNIT.CLAIM.OWNER EDRYN.base) (thActor 7) else s
  let ds := (List.range 25).map (· + 1)
  let s := ds.foldl (fun s d => s.putVote d 0 0 0x2000) s
  let s := ds.foldl (fun s d => s.setHold d 3 false) s
  (s.p KEEPER.BOOT_NS.NS s.ns).modTrust (fun t => { t with phase := 2 })

def execBootComplete (s : State) : Host.Outcome State Fault Refusal :=
  done s (if s.trust.phase = 1 then s.bootDone else s)

/-! Recovery. -/

/-- A submission in recovery (R424, R426): the image is checked as a boot image. (DEDUCED, unsafe: assumption 118) -/
def State.recover (s : State) : State :=
  if s.trust.phase ≠ 3 then s
  else
    let b := stagedBytes s.trust.image
    let r := s.bootReason b
    let s := s.p KEEPER.RECOVER.RESULT (r + 1)
    if r = 0 then
      let cs := (bootOrder s.trust.strapBoot).headD 0
      let s := (s.emit (.flash cs (b.take (imgLen b)))).measure 2 (sha384 (b.take 1024))
      s.evt KEEPER.base 11
    else s

def execRecoverGo (actor : Nat) (v : Word) (s : State) : Host.Outcome State Fault Refusal :=
  act s actor (if getF v 0 0 = 0 then s else s.gated actor KEEPER.RECOVER.reg State.recover)

end Sys2Proof.Machine
end

