-- ==== Sys2Proof/Machine/Ports.lean ====
section
/-! DEFINITION. Ethernet ports (R439–R451): modes, received frames and their errors, pause and PFC, preemption,
links, re-calibration, NC-SI. -/

namespace Sys2Proof.Machine

/-! Modes. -/

/-- Whether a mode is listed for a port (R439). -/
def modeOk (m p : Nat) : Bool := decide (m ≤ 14) && (m == 0 || p % modeLanes m == 0)

/-- Whether port q, with a mode, occupies a lane of [a, a + n). -/
def State.occupies (s : State) (q a n : Nat) : Bool :=
  let w := modeLanes (s.g (PORT.MODE.MODE q))
  w != 0 && decide (q < a + n) && decide (a < q + w)

/-- A write of `PORT.MODE` (R440). -/
def State.portMode (s : State) (p : Nat) (v : Word) : State :=
  let m := getF v 3 0
  let n := modeLanes m
  let us := (List.range (max 1 n)).map (fun k => p + k)
  if !modeOk m p || us.any (fun q => s.cur (PORT.base q) != svcOut) ||
    (n != 0 && (List.range 8).any (fun q => q != p && s.occupies q p n)) then s.evtErr (PORT.base p)
  else
    let s := (s.p (PORT.MODE.MODE p) m).p (PORT.MODE.IF p) (getF v 4 4)
    if m = 0 then s.setCur (PORT.base p) svcOut 5
    else
      let s := s.setCur (PORT.base p) svcOut 1
      (us.drop 1).foldl (fun s q => s.setCur (PORT.base q) svcOut 5) s

def execPortModeWrite (actor p : Nat) (v : Word) (s : State) : Host.Outcome State Fault Refusal :=
  act s actor (if 8 ≤ p then s else s.gated actor (PORT.MODE.reg p) (fun s => s.portMode p v))

/-! Pause. -/

/-- A timed packet that a block held is sent as soon as the block ends (R278). -/
def State.unblock (s : State) (p : Nat) : State :=
  match (s.dueOn p).find? (fun d => !s.blockedOn d p) with
  | some d => if (s.desc d).late = 0 then s else s.launchOne d p
  | none => s

/-- An egress class resumes. -/
def State.resumeClass (s : State) (p k : Nat) : State :=
  if s.isPaused p k then (s.unpause p k).unblock p else s

/-- A class's quanta arrive (R444). -/
def State.pauseClass (s : State) (p k q : Nat) : State :=
  if q = 0 then s.resumeClass p k else s.pauseFor p k q

/-- A frame that PORT discards (R442). -/
def State.rxError (s : State) (p r : Nat) : State := (s.inc (PORT.RX_ERR.COUNT p r)).evt (PORT.base p) 9

/-- A PFC or PAUSE frame acts while its kind is enabled; any other control frame is an error. -/
def State.pauseFrame (s : State) (p : Nat) (pfc : Bool) (vec : Nat) (q : List Nat) : State :=
  if pfc then
    if s.g (PORT.MAC_CFG.PFC_EN p) = 0 then s.rxError p 7
    else (List.range 8).foldl (fun s k => if bit vec k && s.pfcEn p k then s.pauseClass p k (q.getD k 0) else s) s
  else if s.pauseEn p then (List.range 8).foldl (fun s k => s.pauseClass p k (q.headD 0)) s
  else s.rxError p 7

/-- Whether a port's MAC sees frames from the line: it is up, and not in a loopback that replaces them. (DESIGN CHOICE, unsafe: assumption 82) -/
def State.lineRx (s : State) (p : Nat) : Bool :=
  decide (p < 8) && s.portUp p && s.g (PORT.LOOPBACK.MODE p) != 1 && s.g (PORT.LOOPBACK.MODE p) != 2

def execPauseFrameRx (p : Nat) (pfc : Bool) (vec : Nat) (quanta : List Nat) (s : State) :
    Host.Outcome State Fault Refusal :=
  done s (if s.lineRx p then s.pauseFrame p pfc vec quanta else s)

def execPauseExpire (p k : Nat) (s : State) : Host.Outcome State Fault Refusal :=
  done s (if p < 8 ∧ k < 8 ∧ tget 0 (s.portSt p).pauseEnd k ≤ s.edryn.clk then s.resumeClass p k else s)

/-- PFC_REFRESH: a class's XOFF is sent again when half the pause time has passed since its last sending. -/
def execPfcRefresh (p : Nat) (s : State) : Host.Outcome State Fault Refusal :=
  let v := s.portSt p
  let due (t : Nat) : Bool := bit v.xoffSent t && decide (s.quantaClk p 0xFFFF ≤ 2 * (s.edryn.clk - tget 0 v.xoffClk t))
  done s (if p < 8 then (List.range 8).foldl (fun s t => if due t then s.pauseSend p t true else s) s else s)

/-! Received frames. -/

/-- The ingress class of a frame: its outer VLAN tag's priority by TC_MAP, or DEFAULT_TC (R443). -/
def State.ingressTc (s : State) (p : Nat) (r : PRec) (b : Bytes) : Nat :=
  match vlansOf r.outer with
  | (_, o) :: _ =>
    let pcp := beAt b o 2 / 0x2000
    bits (s.g (PORT.TC_MAP.MAP p)) (3 * pcp + 2) (3 * pcp)
  | [] => s.g (PORT.MAC_CFG.DEFAULT_TC p)

/-- A good frame is stored and goes to PARSE as source p; without cells it is NO_CELL. A frame that finds its cells but
no free descriptor, a case that the spec does not treat, is the port's receive error NO_CELL without a record in COMB. (DESIGN CHOICE, unsafe: assumption 138) -/
def State.acceptFrame (s : State) (p : Nat) (b : Bytes) (cap : Nat) : State :=
  let t := s.ingressTc p (parseFrame (s.cfgOf s.seq) b) b
  let n := cellsOf b.length
  let x := s.storeFrame p t n
  if !x.1 || s.descFree = 0 then (if x.1 then x.2.freeAcct (s.acctOf p t) n else x.2).rxError p 4
  else
    let s := x.2
    let (k, s) := s.addPkt { Pkt.none with bytes := b, cells := n, refs := 1, acct := some (s.acctOf p t) }
    let (d, s) := s.addDesc { Desc.empty with pkt := k, bytes := b, ts := s.ingressTime p cap, src := p, tc := t }
    s.enterPipe d .pipe

/-- What the line's side says of a frame: whether it was cut off by the link or the port's leaving service,
touches an uncorrectable codeword, failed reassembly, and whether its FCS matched. -/
structure RxFlags where
  down : Bool
  fec : Bool
  asm : Bool
  fcs : Bool
  deriving DecidableEq, Repr

/-- The reason for which a frame is discarded, if any; of several, the first of this order. (DEDUCED, unsafe: assumption 81) -/
def State.rxReason (s : State) (p : Nat) (b : Bytes) (f : RxFlags) : Option Nat :=
  if f.down || !s.portUp p then some 6
  else if f.fec then some 3
  else if f.asm then some 5
  else if b.length + 4 < 64 then some 1
  else if s.g (PORT.MAC_CFG.MAX_FRAME p) < b.length + 4 then some 2
  else if !f.fcs then some 0
  else none

/-- A frame at a port's receive MAC (R441–R443). (PRESUMED, unsafe: assumption 151) -/
def State.recvFrame (s : State) (p : Nat) (b : Bytes) (cap : Nat) (f : RxFlags) : State :=
  match s.rxReason p b f with
  | some r => s.rxError p r
  | none =>
    if beAt b 12 2 = 0x8808 then
      let quanta (o : Nat) (n : Nat) : List Nat := (List.range n).map (fun k => beAt b (o + 2 * k) 2)
      match beAt b 14 2 with
      | 0x0101 => s.pauseFrame p true (beAt b 16 2) (quanta 18 8)
      | 0x0001 => s.pauseFrame p false 0 (quanta 16 1)
      | _ => s.rxError p 7
    else s.acceptFrame p b cap

/-- FRAME_RECEIVE: a frame without its FCS, captured at the PMA at `cap` (units of 2^−16 ns). A far-end
loopback sends it back to the line as well. (DESIGN CHOICE, unsafe: assumption 152) -/
def execFrameReceive (p : Nat) (bytes : Bytes) (cap : Nat) (down fec asm fcs : Bool) (s : State) :
    Host.Outcome State Fault Refusal :=
  let m := s.g (PORT.LOOPBACK.MODE p)
  done s (if 8 ≤ p ∨ s.notFitted (PORT.base p) ∨ (s.portDoms p).all s.domUp = false ∨ m = 1 ∨ m = 2 then s
    else
      let s := if m = 3 then s.emit (.frame p bytes s.ns false) else s
      s.recvFrame p bytes cap ⟨down, fec, asm, fcs⟩)

/-- FRAME_TRANSMIT_DONE: the express frame first where one interrupted another. In a near-end loopback the
frame returns to the receive MAC (R448). -/
def execFrameTransmitDone (p : Nat) (s : State) : Host.Outcome State Fault Refusal :=
  let l := s.onWire p
  let end_ (d : Nat) : State :=
    let b := padFrame (s.desc d).bytes
    let bad := s.poison.contains (3, (s.desc d).pkt)
    let m := s.g (PORT.LOOPBACK.MODE p)
    let t := s.frameDone d p
    if m = 1 ∨ m = 2 then t.recvFrame p b (s.desc d).onAt ⟨false, false, false, !bad⟩ else t
  done s (match l.find? (fun d => (s.desc d).timed) with
    | some d => end_ d
    | none => match l with
      | d :: _ => end_ d
      | [] => s)

/-! Preemption (R445). -/

def State.setActive (s : State) (p : Nat) (b : Bool) : State :=
  if s.gb (PORT.PREEMPT.ACTIVE p) = b then s else (s.pb (PORT.PREEMPT.ACTIVE p) b).evt (PORT.base p) 10

/-- What EN, VERIFY_DIS and the link make of ACTIVE at once; a verification starts where one is due. (PRESUMED, unsafe: assumption 151) -/
def State.preemptCfg (s : State) (p : Nat) : State :=
  if !s.gb (PORT.PREEMPT.EN p) || !s.gb (PORT.STAT.LINK p) then s.setActive p false
  else if s.gb (PORT.PREEMPT.VERIFY_DIS p) then s.setActive p true
  else if s.gb (PORT.PREEMPT.ACTIVE p) then s
  else s.setPort p { s.portSt p with verifyTries := 0, verifyClk := s.edryn.clk }

/-- An attempt of the verification ends: answered, or 10 ms without an answer; the third failure is the last. (PRESUMED, unsafe: assumption 151) -/
def execPreemptVerify (p : Nat) (ok : Bool) (s : State) : Host.Outcome State Fault Refusal :=
  let v := s.portSt p
  done s (if 8 ≤ p || !s.gb (PORT.PREEMPT.EN p) || s.gb (PORT.PREEMPT.VERIFY_DIS p) || !s.gb (PORT.STAT.LINK p) ||
      s.gb (PORT.PREEMPT.ACTIVE p) || decide (3 ≤ v.verifyTries) then s
    else if ok then (s.pb (PORT.PREEMPT.VERIFY_FAILED p) false).setActive p true
    else if s.edryn.clk < v.verifyClk + 15_000_000 then s
    else
      let s := s.setPort p { v with verifyTries := v.verifyTries + 1, verifyClk := s.edryn.clk }
      if v.verifyTries = 2 then (s.pb (PORT.PREEMPT.VERIFY_FAILED p) true).setActive p false else s)

/-! Links. -/

/-- XON for classes whose XOFF the re-calibration sent, once the link is up and the port in service (R449). -/
def State.calXon (s : State) (p : Nat) : State :=
  if s.gb (PORT.STAT.LINK p) && s.inService (PORT.base p) then
    (List.range 8).foldl (fun s t =>
      if bit (s.portSt p).xoffSent t && !s.inXoff (8 * p + t) then s.pauseSend p t false else s) s
  else s

/-- XOFF on entering QUIESCING for a re-calibration (R449). -/
def State.calXoff (s : State) (p : Nat) : State :=
  let s := s.setPort p { s.portSt p with calClk := s.edryn.clk + 1 }
  (s.xoffClasses p).foldl (fun s t => s.pauseSend p t true) s

/-- A port's link falls. -/
def State.linkFall (s : State) (p : Nat) (training : Bool) : State :=
  let s := s.pb (PORT.STAT.TRAINING p) training
  if s.gb (PORT.STAT.LINK p) then
    (((s.pb (PORT.STAT.LINK p) false).inc (PORT.STAT.DOWNS p)).evt (PORT.base p) 8).setActive p false
  else s

/-- Whether a port trains: it has a mode, its domains run, and it is in service or re-calibrating. -/
def State.trains (s : State) (p : Nat) : Bool :=
  s.g (PORT.MODE.MODE p) != 0 && (s.portDoms p).all s.domUp &&
  (s.cur (PORT.base p) == svcIn || s.cur (PORT.base p) == svcUpdating)

def execLinkUp (p : Nat) (s : State) : Host.Outcome State Fault Refusal :=
  done s (if 8 ≤ p || s.gb (PORT.STAT.LINK p) || !s.trains p then s
    else
      let s := ((s.pb (PORT.STAT.LINK p) true).pb (PORT.STAT.TRAINING p) false).evt (PORT.base p) 8
      ((s.preemptCfg p).calXon p).unblock p)

def execLinkDown (p : Nat) (s : State) : Host.Outcome State Fault Refusal :=
  done s (if 8 ≤ p || !s.gb (PORT.STAT.LINK p) then s else s.linkFall p (s.trains p))

/-- CAL_DONE: the link is up, or 40 ms have passed since QUIESCING (R449). -/
def execCalDone (p : Nat) (s : State) : Host.Outcome State Fault Refusal :=
  let c := (s.portSt p).calClk
  let ms := (s.edryn.clk + 1 - c) / 1_500_000
  let up := s.gb (PORT.STAT.LINK p)
  done s (if 8 ≤ p || c = 0 || (s.cur (PORT.base p) != svcUpdating && s.cur (PORT.base p) != svcIn) || (!up && decide (ms < 40)) then s
    else
      let s := s.setPort p { s.portSt p with calClk := 0 }
      ((s.p (PORT.CAL.RESULT p) (if up then 1 else 2)).p (PORT.CAL.MS p) (min ms 65535)).evt (PORT.base p) 11)

/-- An NC-SI frame from the board controller goes to Hive firmware (R451). (DESIGN CHOICE, unsafe: assumption 82) -/
def execNcsiFrameRx (bytes : Bytes) (s : State) : Host.Outcome State Fault Refusal :=
  done s { s with ncsi := s.ncsi ++ [bytes] }

end Sys2Proof.Machine
end

