-- ==== Sys2Proof/Machine/Stor.lean ====
section
/-! DEFINITION. STOR's records and requests (R311–R318, R322–R326): namespaces, extents, the checks and the
split of an entry, its parts up to the remote command, and the completion. -/

namespace Sys2Proof.Machine

namespace NS
def state : RF := byF 0 0
def flags : RF := byF 1 1
def enable : RF := biF 1 0 0
def xts : RF := biF 1 1 1
def readOnly : RF := biF 1 2 2
def lbaLog2 : RF := byF 2 2
def owner : RF := byF 4 5
def nsid : RF := byF 8 11
def slot : RF := biF 12 19 0
def slotWord : RF := byF 12 15
def tweak : RF := byF 16 23
def base : RF := byF 24 27
def next : RF := byF 28 31
def reqs : RF := byF 32 39
def fails : RF := byF 40 47
def conn (k : Nat) : RF := byF (64 + 8 * k) (65 + 8 * k)
def rnsid (k : Nat) : RF := byF (68 + 8 * k) (71 + 8 * k)
end NS

namespace CN
def state : RF := byF 0 0
def transport : RF := byF 1 1
def flags : RF := byF 2 2
def hdgst : RF := biF 2 0 0
def ddgst : RF := biF 2 1 1
def hive : RF := byF 3 3
def owner : RF := byF 4 5
def qdepth : RF := byF 6 7
def txFlow : RF := byF 8 11
def rxFlow : RF := byF 12 15
def maxH2c : RF := byF 16 19
def timeout : RF := byF 20 21
def cause : RF := byF 22 23
def outstanding : RF := byF 24 27
def cmds : RF := byF 32 39
def fails : RF := byF 40 47
def sndNxt : RF := byF 64 67
def rcvNxt : RF := byF 68 71
def mss : RF := byF 72 73
def scaleTx : RF := biF 74 3 0
def scaleRx : RF := biF 74 7 4
def tsOpt : RF := biF 75 0 0
def opts : RF := byF 75 75
def peer : RF := byF 76 79
end CN

/-! An NVMe submission entry. -/
namespace SE
def opcode : RF := byF 0 0
def fuse : RF := biF 1 1 0
def psdt : RF := biF 1 7 6
def cid : RF := byF 2 3
def nsid : RF := byF 4 7
def mptr : RF := byF 16 23
def prp1 : RF := byF 24 31
def prp2 : RF := byF 32 39
def slba : RF := byF 40 47
def nr : RF := biF 40 7 0
def ad : RF := biF 44 2 2
def nlb : RF := biF 48 15 0
def deac : RF := biF 48 25 25
def prinfo : RF := biF 48 29 26
def fua : RF := biF 48 30 30
def lr : RF := biF 48 31 31
end SE

def State.nsr (s : State) (n : Nat) : BitVec 1024 := tget 0 s.nsRec n
def State.ng (s : State) (n : Nat) (f : RF) : Nat := rget (s.nsr n) f
def State.np (s : State) (n : Nat) (f : RF) (v : Nat) : State := { s with nsRec := tset 0 s.nsRec n (rput (s.nsr n) f v) }
def State.cnr (s : State) (c : Nat) : BitVec 1024 := tget 0 s.connRec c
def State.cng (s : State) (c : Nat) (f : RF) : Nat := rget (s.cnr c) f
def State.cnp (s : State) (c : Nat) (f : RF) (v : Nat) : State := { s with connRec := tset 0 s.connRec c (rput (s.cnr c) f v) }
def State.cx (s : State) (c : Nat) : Conn := tget Conn.reset s.connx c
def State.setCx (s : State) (c : Nat) (v : Conn) : State := { s with connx := tset Conn.reset s.connx c v }
def State.ext (s : State) (n : Nat) : BitVec 128 := tget 0 s.extents n
def extRlba (e : BitVec 128) : Nat := getF e 63 0
def extState (e : BitVec 128) : Nat := getF e 65 64
def extTgt (e : BitVec 128) : Nat := getF e 74 72

def SPart.none : SPart := ⟨0, 0, 0, 0, 0, 0, 0, 0, 0, 0, 0, 7, 0, [], 0, 0, false, 0, 0, .none, false, false, 0⟩
def State.part (s : State) (k : Nat) : SPart := tget SPart.none s.sparts k
def State.setPart (s : State) (k : Nat) (v : SPart) : State := { s with sparts := tset SPart.none s.sparts k v }
def State.modPart (s : State) (k : Nat) (f : SPart → SPart) : State := s.setPart k (f (s.part k))
def State.sreq (s : State) (r : Nat) : Option SReq := (s.sreqs.find? (fun e => e.1 == r)).map Prod.snd
def State.modReq (s : State) (r : Nat) (f : SReq → SReq) : State :=
  { s with sreqs := s.sreqs.map (fun e => if e.1 = r then (r, f e.2) else e) }
/-- `INFLIGHT` follows the trackers. -/
def State.syncStor (s : State) : State :=
  (s.p STOR.INFLIGHT.REQS s.sreqs.length).p STOR.INFLIGHT.PARTS s.sparts.length

/-! Namespaces and extents (R313, R314). -/

def extSpan (log2 : Nat) : Nat := 2 ^ (20 - log2)
def nsCap (r : BitVec 1024) : Nat := rget r NS.next * extSpan (rget r NS.lbaLog2)

/-- The ACTIVE namespace of an instance with an NSID. -/
def State.nsFind (s : State) (i nsid : Nat) : Option Nat :=
  (s.nsRec.find? (fun e => rget e.2 NS.state == 1 && rget e.2 NS.owner == i && rget e.2 NS.nsid == nsid)).map Prod.fst

/-- Whether a WRITE of both chunks of a namespace is well-formed. (DESIGN CHOICE, unsafe: assumption 166) -/
def State.nsOk (s : State) (n : Nat) (r : BitVec 1024) : Bool :=
  let g (f : RF) : Nat := rget r f
  let old := s.nsr n
  let others := s.nsRec.filter (fun e => e.1 != n && rget e.2 NS.state == 1)
  let k := s.slotRec (g NS.slot)
  decide (g NS.flags < 8) && (g NS.lbaLog2 == 9 || g NS.lbaLog2 == 12) && g (byF 3 3) == 0 && g (byF 6 7) == 0 &&
  g (byF 48 63) == 0 && decide (g NS.slotWord < 2 ^ 20) && decide (g NS.base < 2 ^ 28) && decide (1 ≤ g NS.next) &&
  decide (1 ≤ g NS.nsid) && decide (g NS.nsid ≤ 0xFFFF_FFFE) &&
  (List.range 8).all (fun t => (decide (g (NS.conn t) < 4096) || g (NS.conn t) == 0xFFFF) &&
    g (byF (66 + 8 * t) (67 + 8 * t)) == 0) &&
  decide (g NS.owner < 2048) && s.instActive (g NS.owner) &&
  others.all (fun e => rget e.2 NS.owner != g NS.owner || rget e.2 NS.nsid != g NS.nsid) &&
  decide (g NS.base + g NS.next ≤ 2 ^ 28) &&
  others.all (fun e => decide (g NS.base + g NS.next ≤ rget e.2 NS.base) ||
    decide (rget e.2 NS.base + rget e.2 NS.next ≤ g NS.base)) &&
  (g NS.xts == 0 || (rget k KS.state != 0 && rget k KS.use == 4 && rget k KS.mode == 3 &&
    rget k KS.owner == g NS.owner && rget k KS.enc == 1 && rget k KS.dec == 1)) &&
  (rget old NS.state == 0 || [NS.owner, NS.nsid, NS.lbaLog2, NS.base, NS.next].all (fun f => rget old f == g f))

/-- Both chunks of a namespace are written. -/
def State.writeNs (s : State) (n : Nat) (r : BitVec 1024) : TapRes :=
  let o := rget r NS.owner
  if !s.nsOk n r then TapRes.bad s
  else
    let free := s.ng n NS.state == 0
    if free && s.ri o IR.nsUsed == s.ri o IR.nsQuota then TapRes.of s stBusy
    else
      let s := if free then s.addRef o IR.nsUsed 1 else s
      let r := rput (rput (rput r NS.state 1) NS.reqs (s.ng n NS.reqs)) NS.fails (s.ng n NS.fails)
      TapRes.of { s with nsRec := tset 0 s.nsRec n r } stOk

/-- A namespace is freed: the quota is credited. -/
def State.freeNs (s : State) (n : Nat) : State :=
  if s.ng n NS.state = 0 then s
  else { s with nsRec := tdel s.nsRec n }.subRef (s.ng n NS.owner) IR.nsUsed 1

def State.invalNs (s : State) (n : Nat) : TapRes :=
  if s.sreqs.any (fun e => e.2.ns == n) then TapRes.of s stBusy else TapRes.of (s.freeNs n) stOk

/-- Four extent entries are written in one cycle (R314). -/
def State.writeExt (s : State) (i : Nat) (d : BitVec 512) : TapRes :=
  let e (k : Nat) : BitVec 128 := BitVec.ofNat 128 (getF d (128 * k + 127) (128 * k))
  if (List.range 4).all (fun k => decide (getF (e k) 71 64 < 3) && decide (getF (e k) 79 72 < 8) && getF (e k) 127 80 == 0)
  then TapRes.of { s with extents := (List.range 4).foldl (fun t k => tset 0 t (4 * i + k) (e k)) s.extents } stOk
  else TapRes.bad s

/-! The checks of an entry (R312). -/

/-- Host ranges of a buffer of `n` bytes: the first page by PRP1, the others by their page addresses. -/
def prpRanges (prp1 n : Nat) (pages : Bytes) : List (Nat × Nat) :=
  let k := min n (4096 - prp1 % 4096)
  let m := ceilDiv (n - k) 4096
  (prp1, k) :: (List.range m).map (fun j => (leAt pages (8 * j) 8, min 4096 (n - k - 4096 * j)))
/-- Pages after the first. -/
def prpMore (prp1 n : Nat) : Nat := ceilDiv (n - min n (4096 - prp1 % 4096)) 4096

/-- Length of an entry's buffer in bytes. -/
def State.sqeLen (s : State) (ns : Nat) (r : BitVec 512) : Nat :=
  match rget r SE.opcode with
  | 1 => (rget r SE.nlb + 1) * 2 ^ s.ng ns NS.lbaLog2
  | 2 => (rget r SE.nlb + 1) * 2 ^ s.ng ns NS.lbaLog2
  | 5 => (rget r SE.nlb + 1) * 2 ^ s.ng ns NS.lbaLog2
  | 9 => (rget r SE.nr + 1) * 16
  | _ => 0

/-- The reasons that an entry alone decides, in their order; 0 where none applies. Dataset Management's own
come after its range list is read. (PRESUMED, unsafe: assumption 165) -/
def State.sqeReason (s : State) (i : Nat) (r : BitVec 512) : Nat :=
  let op := rget r SE.opcode
  if !([0, 1, 2, 5, 8, 9].contains op) then 0x02
  else match s.nsFind i (rget r SE.nsid) with
  | none => 0x60
  | some n =>
    if s.ng n NS.enable = 0 then 0x61
    else if rget r SE.fuse ≠ 0 then 0x62
    else if rget r SE.psdt ≠ 0 then 0x63
    else if rget r SE.mptr ≠ 0 ∨ (op ≠ 0 ∧ op ≠ 9 ∧ rget r SE.prinfo ≠ 0) then 0x64
    else if op ≠ 0 ∧ op ≠ 9 ∧ nsCap (s.nsr n) < rget r SE.slba + rget r SE.nlb + 1 then 0x65
    else
      let p1 := rget r SE.prp1
      let p2 := rget r SE.prp2
      let more := prpMore p1 (s.sqeLen n r)
      let bad := s.sqeLen n r ≠ 0 ∧ (p1 % 4 ≠ 0 ∨ (more = 1 ∧ p2 % 4096 ≠ 0) ∨ (2 ≤ more ∧ p2 % 8 ≠ 0))
      if bad then (if op = 9 ∧ rget r SE.ad = 0 then 0x66 else 0x67) else 0

/-- The next list read of an entry: its address and length, `none` once every page is known. `got` holds the
page addresses read so far, `ptr` the list's place. -/
def prpNext (more got ptr : Nat) : Option (Nat × Nat) :=
  if more ≤ 1 ∨ more ≤ got then none
  else
    let room := (4096 - ptr % 4096) / 8
    some (ptr, 8 * min room (more - got))

/-- What a list read adds: its page addresses, and the next list's address (0 at the end). (PRESUMED, unsafe: assumption 165) -/
def prpTake (more got ptr : Nat) (b : Bytes) : Bytes × Nat :=
  let room := (4096 - ptr % 4096) / 8
  if more - got ≤ room then (b, 0) else (b.take (8 * (room - 1)), leAt b (8 * (room - 1)) 8)

/-- The ranges of an entry's buffer once its page list is known; `none` where an entry breaks the rules. -/
def State.sqeRanges (s : State) (ns : Nat) (r : BitVec 512) (pages : Bytes) : Option (List (Nat × Nat)) :=
  let n := s.sqeLen ns r
  let more := prpMore (rget r SE.prp1) n
  let pages := if more = 1 then leBytes 8 (rget r SE.prp2) else pages
  if n = 0 then some []
  else
    let l := prpRanges (rget r SE.prp1) n pages
    if (l.drop 1).all (fun e => e.1 % 4096 == 0) then some l else none

/-! The split (R315). -/

/-- One LBA range cut at extents: first LBA, count, extent. -/
def cutExt (base span : Nat) : Nat → Nat → Nat → List (Nat × Nat × Nat)
  | 0, _, _ => []
  | k + 1, l, n =>
    if n = 0 then []
    else
      let m := min n (span - l % span)
      (l, m, base + l / span) :: cutExt base span k (l + m) (n - m)

/-- A part of an extent, under a namespace record. -/
def State.mkPart (s : State) (r : BitVec 1024) (cmd req no off : Nat) (e : Nat × Nat × Nat) : SPart :=
  let x := s.ext e.2.2
  let t := extTgt x
  { SPart.none with
    req := req, no := no, cmd := cmd, lba := e.1, nlb := e.2.1, off := off, phase := 0,
    rlba := extRlba x + e.1 % extSpan (rget r NS.lbaLog2), ext := extState x, tgt := t,
    conn := rget r (NS.conn t), rnsid := rget r (NS.rnsid t) }

/-- The command of an opcode. -/
def cmdOf (op : Nat) : Nat := match op with
  | 2 => 0 | 1 => 1 | 5 => 2 | 8 => 3 | 9 => 4 | _ => 5

/-- Ranges of a Dataset Management list: LBA and length. -/
def dsmRanges (n : Nat) (b : Bytes) : List (Nat × Nat) :=
  (List.range n).map (fun k => (leAt b (16 * k + 8) 8, leAt b (16 * k + 4) 4))

/-- The parts of an entry, at most 17 of them (17: too many). -/
def State.splitParts (s : State) (ns req : Nat) (r : BitVec 512) (list : Bytes) : List SPart :=
  let n := s.nsr ns
  let span := extSpan (rget n NS.lbaLog2)
  let base := rget n NS.base
  let cmd := cmdOf (rget r SE.opcode)
  let blk := 2 ^ rget n NS.lbaLog2
  match cmd with
  | 5 => ((List.range 8).filter (fun t => rget n (NS.conn t) != 0xFFFF)).zipIdx.map (fun e =>
      { SPart.none with req := req, no := e.2, cmd := 5, phase := 0, ext := 1, tgt := e.1,
                        conn := rget n (NS.conn e.1), rnsid := rget n (NS.rnsid e.1) })
  | 4 =>
    -- `off` of a Dataset Management part is its range's index
    let cuts := (dsmRanges (rget r SE.nr + 1) list).zipIdx.flatMap (fun e =>
      (cutExt base span 17 e.1.1 e.1.2).map (fun c => (c, e.2)))
    (cuts.take 17).zipIdx.map (fun e => s.mkPart n 4 req e.2 e.1.2 e.1.1)
  | _ =>
    let l := rget r SE.slba
    (cutExt base span 17 l (rget r SE.nlb + 1)).zipIdx.map (fun e =>
      s.mkPart n cmd req e.2 ((e.1.1 - l) * blk) e.1)

/-- The checks that wait for the lists: LBA_RANGE and DSM_ATTR of Dataset Management, TOO_MANY_PARTS. -/
def State.splitReason (s : State) (ns : Nat) (r : BitVec 512) (list : Bytes) : Nat :=
  let dsm := rget r SE.opcode == 9
  if dsm && (dsmRanges (rget r SE.nr + 1) list).any (fun e => decide (nsCap (s.nsr ns) < e.1 + e.2)) then 0x65
  else if dsm && rget r SE.ad == 0 then 0x66
  else if 16 < (s.splitParts ns 0 r list).length then 0x68 else 0

/-- Trackers for one more request (R312). -/
def State.storRoom (s : State) : Bool := decide (s.sreqs.length < 32768) && decide (s.sparts.length + 16 ≤ 131072)

/-! Fetch, placement and the end of a part. -/

/-- The host ranges of `n` bytes from an offset of a buffer. -/
def subRanges (o n : Nat) : List (Nat × Nat) → List (Nat × Nat)
  | [] => []
  | (a, l) :: r =>
    if n = 0 then []
    else if l ≤ o then subRanges (o - l) n r
    else
      let k := min n (l - o)
      (a + o, k) :: subRanges 0 (n - k) r

def State.partBlk (s : State) (p : SPart) : Nat := match s.sreq p.req with
  | some q => 2 ^ rget q.nsr NS.lbaLog2
  | none => 512
def State.partLen (s : State) (p : SPart) : Nat := p.nlb * s.partBlk p
def State.partRanges (s : State) (p : SPart) : List (Nat × Nat) := match s.sreq p.req with
  | some q => subRanges p.off (s.partLen p) q.ranges
  | none => []
def State.partInst (s : State) (p : SPart) : Nat := match s.sreq p.req with
  | some q => q.inst
  | none => 2048
def State.partXts (s : State) (p : SPart) : Bool := match s.sreq p.req with
  | some q => rget q.nsr NS.xts == 1 && decide (p.cmd ≤ 3)
  | none => false
def State.squashed (s : State) (p : SPart) : Bool := match s.sreq p.req with
  | some q => q.squash
  | none => true

/-- Bytes written to host ranges in order, as data writes (R127). -/
def State.scatter (s : State) (i : Nat) : List (Nat × Nat) → Bytes → State
  | [], _ => s
  | (a, n) :: r, b => (s.dmaWrite i a (b.take n) true).scatter i r (b.drop n)

/-- Whether the Forager serves STOR: a group with STOR set, the unit in service, its domain awake (R343). -/
def State.foragerServes (s : State) (key : Nat) : Bool × State :=
  if (List.range 8).any (fun g => s.gb (FORAGER.GRP_CTL.STOR g)) && s.inService FORAGER.base then
    match s.transfer 10 11 key with
    | (.go, s) => (true, s)
    | (_, s) => (false, s)
  else (false, s)
def xferPart (k : Nat) : Nat := 2 ^ 43 + k

/-- Remote commands outstanding on a connection: parts that hold a command slot. -/
def SPart.slotHeld (p : SPart) : Bool := decide (1 ≤ p.phase) && decide (p.phase ≤ 5) && p.cid != 0xFFFF
def State.connParts (s : State) (c : Nat) : List Nat :=
  (s.sparts.filter (fun e => e.2.conn == c && e.2.slotHeld)).map Prod.fst
def State.syncOut (s : State) (c : Nat) : State :=
  if s.cng c CN.state = 0 then s else s.cnp c CN.outstanding (s.connParts c).length

/-- A request's completion (R323). Where its parts used several generations of the slot, a case that the spec does not
treat, the greatest is reported. (DESIGN CHOICE, unsafe: assumption 142) -/
def State.storFinish (s : State) (r : Nat) (q : SReq) : State :=
  let ps := q.parts.map s.part
  let op := rget q.raw SE.opcode
  let blk := 2 ^ rget q.nsr NS.lbaLog2
  let bad := ps.find? (fun p => p.cause != 0)
  let mis := (ps.find? (fun p => p.cause == 0 && p.mism.isSome)).bind SPart.mism
  let ok := ps.foldl (fun a p => if p.cause = 0 then a + 2 ^ p.no else a) 0
  let hostSt := if ps.any (fun p => p.cause == 8) then q.host else 0
  let status := if q.squash then stSquashed else if hostSt = stXlate then stXlate
    else if hostSt ≠ 0 then hostSt else if bad.isSome then stPartial
    else if mis.isSome then stMismatch else stOk
  let flags := b2n (rget q.nsr NS.xts == 1 && decide (cmdOf op ≤ 3)) + 2 * b2n (ps.any SPart.retried) +
    4 * b2n (ps.any SPart.zero) + 8 * (bad.map SPart.cause).getD 0
  let slba := rget q.raw SE.slba
  let off := match bad with
    | some p => if p.cmd = 5 then 0 else if p.cmd = 4 then p.off else p.lba - slba
    | none => (mis.getD 0) / blk
  let nvme := match bad with
    | some p => p.status
    | none => if mis.isSome then 0x0285 else 0
  let first := match bad with
    | some p => if p.cmd = 5 then 2 ^ 64 - 1 else p.lba
    | none => 2 ^ 64 - 1
  let moved := ps.foldl (fun a p => a + (if p.cmd ≤ 2 then p.seen else 0)) 0
  let gen := if rget q.nsr NS.xts = 1 then ((ps.map SPart.gen).foldl max 0) else 0
  let data := leBytes 2 ok ++ leBytes 2 off ++ leBytes 2 nvme ++ leBytes 1 ps.length ++
    leBytes 1 ((bad.map SPart.no).getD 0xFF)
  let ext := leBytes 8 first ++ leBytes 8 (mis.getD (2 ^ 64 - 1)) ++ leBytes 4 moved ++ leBytes 4 gen
  let s := s.np q.ns NS.reqs (satAdd 64 (s.ng q.ns NS.reqs) 1)
  let s := { s with sreqs := tdel s.sreqs r, sparts := s.sparts.filter (fun e => !q.parts.contains e.1) }.syncStor
  let s := s.subRef q.inst IR.refStor 1
  let s := if status = stXlate then s.wqError q.wq 0x11 q.index else s
  s.completeEnt q.wq q.index status flags data ext

/-- A request whose parts have all ended completes; the fence follows its marked parts (R325). -/
def State.storCheck (s : State) (r : Nat) : State :=
  let s := if !s.gb STOR.MAP_FENCE.DONE && s.sparts.all (fun e => !e.2.marked || e.2.phase == 7) then
      (s.pb STOR.MAP_FENCE.DONE true).evt STOR.base 10 else s
  match s.sreq r with
  | some q => if q.parts.all (fun k => (s.part k).phase == 7) then s.storFinish r q else s
  | none => s

/-- The NVMe status of a cause (R321's table): SC, SCT at [10:8]. -/
def causeStatus (cause : Nat) : Nat :=
  match cause with
  | 2 => 0x22 | 3 => 0x22 | 4 => 0x80 | 5 => 0x182 | 6 => 0x06 | 7 => 0x22 | 8 => 0x04 | _ => 0

/-- A part is over: its place, its counters, its request. -/
def State.partOver (s : State) (k cause status : Nat) (fill : Bool) : State :=
  let p := s.part k
  let s := s.setPart k { p with
    phase := 7, cause := cause, status := status, data := [], zero := p.zero || fill,
    seen := if fill then s.partLen p else p.seen }
  let s := s.dropXfer 11 (xferPart k)
  let s := if cause = 0 then s
    else
      let s := ((s.inc STOR.PART_FAIL.COUNT).p STOR.PART_FAIL.CAUSE cause).p STOR.PART_FAIL.CONN p.conn
      let ns := ((s.sreq p.req).map SReq.ns).getD 0
      let s := (s.p STOR.PART_FAIL.NS ns).np ns NS.fails (satAdd 64 (s.ng ns NS.fails) 1)
      let s := if p.conn < 4096 ∧ s.cng p.conn CN.state ≠ 0
        then s.cnp p.conn CN.fails (satAdd 64 (s.cng p.conn CN.fails) 1) else s
      s.evt STOR.base 8
  (if p.conn < 4096 then s.syncOut p.conn else s).storCheck p.req

/-- A part ends, well (cause 0) or with a cause; a failed Read or Compare zero-fills its buffer (R322), once the
translations that this needs are there (phase 9 until then). -/
def State.endPart (s : State) (k cause status : Nat) : State :=
  let p := s.part k
  if p.phase = 7 then s
  else
    let i := s.partInst p
    let rs := s.partRanges p
    if cause = 0 || !(p.cmd == 0 || p.cmd == 2) || s.squashed p || s.instSealed i then s.partOver k cause status false
    else match s.xlCheck i true rs with
      | (.ready, s) => (s.scatter i rs (List.replicate (s.partLen p) 0)).partOver k cause status true
      | (.fault _, s) => s.partOver k cause status false
      | (.wait, s) =>
        let s := s.setPart k { p with phase := 9, cause := cause, status := status, cid := 0xFFFF }
        if p.conn < 4096 then s.syncOut p.conn else s

/-- A part whose zeros wait for a translation. -/
def State.partFill (s : State) (k : Nat) : State :=
  let p := s.part k
  if p.phase = 9 then s.endPart k p.cause p.status else s

/-- A host failure of a part: those not yet issued fail HOST too (R323). -/
def State.hostFail (s : State) (k status : Nat) : State :=
  let p := s.part k
  let s := s.modReq p.req (fun q => { q with host := if q.host = stXlate ∨ status = stXlate then stXlate else status })
  let rest := match s.sreq p.req with
    | some q => q.parts.filter (fun x => (s.part x).phase == 0)
    | none => []
  (k :: rest).foldl (fun s x => s.endPart x 8 (causeStatus 8)) s

/-! XTS (R324). -/

/-- LBAs of a part's data under the tweaks of their own numbers. -/
def xtsLbas (m : BitVec 1024) (dec : Bool) (blk : Nat) : Nat → Nat → Bytes → Bytes
  | 0, _, _ => []
  | n + 1, t, b =>
    let k1 := matKey m
    let k2 := matKey2 m
    let d := b.take blk
    (if dec then Aes.xtsDec k1 k2 (leBytes 16 (t % 2 ^ 64)) d else Aes.xtsEnc k1 k2 (leBytes 16 (t % 2 ^ 64)) d) ++
      xtsLbas m dec blk n (t + 1) (b.drop blk)

/-- A part's Scarab operation starts: one invocation where it encrypts. (DEDUCED, unsafe: assumption 163) -/
def State.partScarab (s : State) (k : Nat) : State :=
  let p := s.part k
  match s.sreq p.req with
  | none => s
  | some q =>
    let dir := if p.cmd = 1 ∨ p.cmd = 3 then 1 else 0
    let s := s.setPart k { p with phase := 3 }
    (s.newOp (.part k) (rget q.nsr NS.slot) dir (ceilDiv p.data.length 16) q.inst []).2

/-- A part's Scarab operation is over: its data, or KEY. -/
def State.partCiphered (s : State) (k : Nat) (o : SOp) : State :=
  let p := s.part k
  match s.sreq p.req with
  | none => s
  | some q =>
    if p.phase ≠ 3 then s
    else if o.fail ≠ 0 then s.endPart k 6 (causeStatus 6)
    else
      let dec := p.cmd == 0 || p.cmd == 2
      let d := xtsLbas o.mat dec (s.partBlk p) p.nlb (rget q.nsr NS.tweak + p.lba) p.data
      s.setPart k { p with data := d, gen := o.gen, retried := p.retried || o.retried, phase := if dec then 6 else 4 }

/-! What a part does with its data. -/

/-- Read data go to the host, Compare data are compared with what the host holds (phase 8 while it is read). -/
def State.partPlace (s : State) (k : Nat) : State :=
  let p := s.part k
  let i := s.partInst p
  let rs := s.partRanges p
  if p.phase ≠ 6 then s
  else if s.squashed p then s.endPart k 0 0
  else if s.instSealed i then s.hostFail k stSealed
  else match s.foragerServes (xferPart k) with
  | (false, s) => s
  | (true, s) =>
    if p.cmd = 0 then
      match s.xlCheck i true rs with
      | (.ready, s) => ((s.scatter i rs p.data).modPart k (fun p => { p with seen := p.data.length })).endPart k 0 0
      | (.wait, s) => s
      | (.fault st, s) => s.hostFail k st
    else
      match s.xlCheck i false rs with
      | (.ready, s) => (s.setPart k { p with phase := 8 }).startRead (.part k) i rs
      | (.wait, s) => s
      | (.fault st, s) => s.hostFail k st

/-- A Write's data are fetched; Write Zeroes makes its own. -/
def State.partFetch (s : State) (k : Nat) : State :=
  let p := s.part k
  let i := s.partInst p
  let rs := s.partRanges p
  if p.phase ≠ 1 || s.hasJob (.part k) then s
  else if s.instSealed i then s.hostFail k stSealed
  else match s.foragerServes (xferPart k) with
  | (false, s) => s
  | (true, s) =>
    if p.cmd = 3 then (s.setPart k { p with data := List.replicate (s.partLen p) 0, phase := 2 })
    else match s.xlCheck i false rs with
      | (.ready, s) => s.startRead (.part k) i rs
      | (.wait, s) => s
      | (.fault st, s) => s.hostFail k st

/-- Data that a part needs are there: to Scarab, or ready to send. -/
def State.partFetched (s : State) (k : Nat) : State :=
  if (s.part k).phase ≠ 2 then s
  else if s.partXts (s.part k) then s.partScarab k else s.modPart k (fun p => { p with phase := 4 })

/-- The place of the first difference of two byte strings. -/
def firstDiff : Nat → Bytes → Bytes → Option Nat
  | _, [], _ => none
  | _, _, [] => none
  | n, a :: r, b :: t => if a = b then firstDiff (n + 1) r t else some n

/-- The host data of a part have been read, or not (R323). -/
def State.partRead (s : State) (k status : Nat) (b : Bytes) : State :=
  let p := s.part k
  if p.phase ≠ 1 ∧ p.phase ≠ 8 then s
  else if status ≠ 0 then s.hostFail k status
  else if p.phase = 1 then (s.setPart k { p with data := b, seen := b.length, phase := 2 }).partFetched k
  else
    (s.setPart k { p with seen := b.length, mism := (firstDiff 0 p.data b).map (· + p.off) }).endPart k 0 0

end Sys2Proof.Machine
end

