-- ==== Sys2Proof/Machine/StorNet.lean ====
section
/-! DEFINITION. STOR's connections (R319–R321): connection records, the issue of remote commands (R317),
NVMe/TCP over TCP, RoCEv2, responses, failures, and what STOR does at a squash (R326) and at a fence (R325). -/

namespace Sys2Proof.Machine

/-! Connection records (R319, R320). -/

/-- Whether a WRITE that brings a connection UP is well-formed. -/
def State.connOk (s : State) (c : Nat) (r : BitVec 1024) : Bool :=
  let g (f : RF) : Nat := rget r f
  let tcp := g CN.transport == 1
  (tcp || g CN.transport == 2) && decide (g CN.flags < 4) && decide (g CN.hive < 12) &&
  (g CN.owner == 0xFFFF || (decide (g CN.owner < 2048) && s.instActive (g CN.owner))) &&
  decide (1 ≤ g CN.qdepth) && decide (g CN.qdepth ≤ 1024) && (!tcp || decide (4096 ≤ g CN.maxH2c)) &&
  decide (1 ≤ g CN.timeout) &&
  (if tcp then decide (g CN.opts < 4)
   else (g CN.mss == 1024 || g CN.mss == 2048 || g CN.mss == 4096) && g CN.opts == 0) &&
  s.cng c CN.state != 1 &&
  !(tcp && decide (g CN.txFlow < flowMax) &&
    (ctxRun (s.ctx (g CN.txFlow))).any (fun w => wCode w == 0x0A && bits w 41 40 == 2))

/-- A connection record as it is kept: its reserved bits are zero (R9). -/
def connKept (r : BitVec 1024) : BitVec 1024 :=
  let r := clearF (clearF (clearF r 255 224) 511 384) 1023 640
  if rget r CN.transport = 1 then r
  else clearF (clearF (clearF (clearF r 543 536) 575 568) 599 595) 639 632

/-- The transport state of a connection that comes UP. -/
def connStart (r : BitVec 1024) : Conn :=
  let mss := rget r CN.mss
  { Conn.reset with
    una := rget r CN.sndNxt, nxt := rget r CN.sndNxt, rcv := rget r CN.rcvNxt, wnd := rget r CN.peer,
    cwnd := Config.storInitCwnd mss, ssthresh := 2 ^ 32, rto := 1_000_000, recover := rget r CN.sndNxt }

/-- A connection comes UP (R320). -/
def State.connUp (s : State) (c : Nat) (r : BitVec 1024) : TapRes :=
  let o := rget r CN.owner
  let free := s.cng c CN.state == 0
  if !s.connOk c r then TapRes.bad s
  else if free && decide (o < 2048) && s.ri o IR.connUsed == s.ri o IR.connQuota then TapRes.of s stBusy
  else
    let was := s.cng c CN.owner
    let s := if free then s else if was < 2048 then s.subRef was IR.connUsed 1 else s
    let s := s.addRef o IR.connUsed 1
    let r := rput (rput (rput (connKept r) CN.state 1) CN.cause 0) CN.outstanding 0
    let r := rput (rput r CN.cmds (s.cng c CN.cmds)) CN.fails (s.cng c CN.fails)
    TapRes.of ({ s with connRec := tset 0 s.connRec c r }.setCx c (connStart r)) stOk

/-- A notice that a connection has failed goes to its Hive (R320). The reason code of such a notice the spec
does not give. (DEDUCED, unsafe: assumption 97) -/
def State.connNotice (s : State) (c : Nat) : State :=
  let h := s.cng c CN.hive
  let (x, s) := s.fresh
  let s := s.inc FLOW.PUNTS.PUNTS
  if !s.inService (HIVE.base h) then s
  else if s.intakeRoom h then
    s.intakePut h [] (puntBytes (x.toNat % 256) 0 false 0xFFFF 0 (s.cng c CN.rxFlow) 0 0 0 0xFF)
  else s.inc (HIVE.HELD.NOTICES_LOST h)

/-- A connection becomes FAILED: every outstanding part fails with the cause, OUTSTANDING reads 0 (R320). -/
def State.connDown (s : State) (c cause : Nat) : State :=
  if s.cng c CN.state ≠ 1 then s
  else
    let ps := s.connParts c
    let s := ((s.cnp c CN.state 2).cnp c CN.cause cause).setCx c Conn.reset
    let s := ps.foldl (fun s k => s.endPart k cause (causeStatus cause)) s
    (s.cnp c CN.outstanding 0).connNotice c

/-- A connection failure: an IO_TIMEOUT or a PROTOCOL fault (R320, R327). -/
def State.connFail (s : State) (c cause : Nat) : State :=
  if s.cng c CN.state ≠ 1 then s else (s.connDown c cause).evt STOR.base 9

def State.freeConn (s : State) (c : Nat) : State :=
  if s.cng c CN.state = 0 then s
  else { s with connRec := tdel s.connRec c, connx := tdel s.connx c }.subRef (s.cng c CN.owner) IR.connUsed 1

/-- INVALIDATE: FREE once nothing is outstanding (R320). -/
def State.invalConn (s : State) (c : Nat) : TapRes :=
  if (s.connParts c).isEmpty then TapRes.of (s.freeConn c) stOk else TapRes.of s stBusy

/-- WRITE of a connection record: STATE 2 fails an UP connection at once; STATE 1 waits for chunk 1. -/
def State.writeConn (s : State) (actor i c : Nat) (d : BitVec 512) : TapRes :=
  let k := i * 65536 + actor
  if c = 0 then
    let st := getF d 7 0
    if st = 2 then TapRes.of ({ s with connHeld := tdel s.connHeld k }.connDown i 2) stOk
    else if st = 1 then TapRes.of { s with connHeld := tins k d s.connHeld } stOk
    else TapRes.bad s
  else match s.connHeld.find? (fun e => e.1 == k) with
    | none => TapRes.bad s
    | some (_, h) =>
      State.connUp { s with connHeld := tdel s.connHeld k } i (putChunk (putChunk (0 : BitVec 1024) 0 h) 1 d)

/-- STOR's tables: namespace records, extent entries, connection records (R313, R314, R320). -/
def State.tapStor (s : State) (actor : Nat) (op : TapOp) (t i c : Nat) (d : BitVec 512) : TapRes :=
  match t with
  | 0 =>
    if 8192 ≤ i ∨ 2 ≤ c then TapRes.bad s
    else match op with
    | .read => TapRes.val s (chunkOf (s.nsr i) c)
    | .invalidate => s.invalNs i
    | .stage => TapRes.bad s
    | .write =>
      let k := i * 65536 + actor
      if c = 0 then TapRes.of { s with nsHeld := tins k d s.nsHeld } stOk
      else match s.nsHeld.find? (fun e => e.1 == k) with
        | none => TapRes.bad s
        | some (_, h) =>
          State.writeNs { s with nsHeld := tdel s.nsHeld k } i (putChunk (putChunk (0 : BitVec 1024) 0 h) 1 d)
  | 1 =>
    if 67108864 ≤ i ∨ c ≠ 0 then TapRes.bad s
    else match op with
    | .read => TapRes.val s (BitVec.ofNat 512 ((List.range 4).foldl (fun a k => a + (s.ext (4 * i + k)).toNat * 2 ^ (128 * k)) 0))
    | .write => s.writeExt i d
    | _ => TapRes.bad s
  | 2 =>
    if 4096 ≤ i ∨ 2 ≤ c then TapRes.bad s
    else match op with
    | .read => TapRes.val s (chunkOf (s.cnr i) c)
    | .invalidate => s.invalConn i
    | .stage => TapRes.bad s
    | .write => s.writeConn actor i c d
  | _ => TapRes.bad s

/-! Frames (R320). -/

/-- What names a connection's addresses: its number and its flows. -/
def State.connId (s : State) (c : Nat) : List Nat := [c, s.cng c CN.txFlow, s.cng c CN.rxFlow]
/-- n bytes that its record does not name, from the k-th on. -/
def State.connFree (s : State) (c n k : Nat) : Bytes := (List.range n).map (fun i => Config.connByte (s.connId c) (k + i))
def State.connSix (s : State) (c : Nat) : Bool := Config.connSix (s.connId c)

/-- The Ethernet and IP headers of a connection's frames before an L4 header and its payload. (PRESUMED, unsafe: assumption 94) -/
def State.connHead (s : State) (c proto len : Nat) : Bytes :=
  if s.connSix c then s.connFree c 12 0 ++ [0x86, 0xDD, 0x60, 0, 0, 0] ++ beBytes 2 len ++ [BitVec.ofNat 8 proto, 64] ++ s.connFree c 32 12
  else sumIp4 (s.connFree c 12 0 ++ [0x08, 0, 0x45] ++ s.connFree c 1 44 ++ beBytes 2 (20 + len) ++
    [0, 0, 0x40, 0, 64, BitVec.ofNat 8 proto, 0, 0] ++ s.connFree c 8 12) 14

/-- The frame that carries a TCP segment before the words of TX_FLOW run (R319, R320). (PRESUMED, unsafe: assumption 94) -/
def State.tcpFrame (s : State) (c seq ack win fl ts : Nat) (d : Bytes) : Bytes :=
  let opt : Bytes := if s.cng c CN.tsOpt = 1 then [1, 1, 8, 10] ++ beBytes 4 (Config.tcpTs s.edryn.clk).toNat ++ beBytes 4 ts else []
  let h := s.connFree c 4 45 ++ beBytes 4 seq ++ beBytes 4 ack ++ [BitVec.ofNat 8 (80 + opt.length * 4), BitVec.ofNat 8 fl] ++
    beBytes 2 win ++ [0, 0, 0, 0] ++ opt
  let ip := s.connHead c 6 (h.length + d.length)
  sumL4 (ip ++ h ++ d) (s.connSix c) 14 ip.length (h.length + d.length) (ip.length + 16) 6

/-- CRC-32 (IEEE 802.3, reflected). -/
def crc32Bit : Nat → Nat → Nat
  | 0, c => c
  | n + 1, c => crc32Bit n (if c % 2 = 1 then c / 2 ^^^ 0xEDB8_8320 else c / 2)
def crc32 (bs : Bytes) : Nat := bs.foldl (fun c b => crc32Bit 8 (c ^^^ b.toNat)) 0xFFFF_FFFF ^^^ 0xFFFF_FFFF

/-- The frame that carries a RoCEv2 packet before the words of TX_FLOW run: BTH, extended headers, payload, padding and
ICRC (R319; InfiniBand Architecture Specification, RoCEv2 annex). (PRESUMED, unsafe: assumption 94) -/
def State.roceFrame (s : State) (c op psn : Nat) (b : Bytes) : Bytes :=
  let pad := (4 - b.length % 4) % 4
  let b := b ++ List.replicate pad 0
  let n := 24 + b.length
  let ip := s.connHead c 17 n
  let udp (sum : Bytes) : Bytes := s.connFree c 2 45 ++ beBytes 2 4791 ++ beBytes 2 n ++ sum
  let bth (r : Byte) : Bytes := [BitVec.ofNat 8 op, BitVec.ofNat 8 (64 + 16 * pad)] ++ s.connFree c 2 49 ++ [r] ++
    beBytes 3 (s.cng c CN.peer % 2 ^ 24) ++ [if op ≤ 0x0C then 0x80 else 0] ++ beBytes 3 psn
  let l3 := ip.drop 14
  let masked := if s.connSix c then overlay (overlay l3 0 [0x6F, 0xFF, 0xFF, 0xFF]) 7 [0xFF]
    else overlay (overlay (overlay l3 1 [0xFF]) 8 [0xFF]) 10 [0xFF, 0xFF]
  let icrc := crc32 (List.replicate 8 0xFF ++ masked ++ udp [0xFF, 0xFF] ++ bth 0xFF ++ b)
  ip ++ udp [0, 0] ++ bth 0 ++ b ++ leBytes 4 icrc

/-- A frame of a connection enters FLOW by its TX_FLOW, charged to its owner, in its Hive's queue. One that
finds no cell is not sent: its transport sends it again. (DESIGN CHOICE, unsafe: assumption 96) -/
def State.connFrame (s : State) (c : Nat) (f : Bytes) : State :=
  let n := cellsOf f.length
  let o := s.cng c CN.owner
  if s.poolFree < n ∨ s.descFree = 0 then s
  else
    let own := if o < 2048 then some o else none
    let s := s.takePool n
    let s := s.addRef o IR.refComb n
    let (k, s) := s.addPkt { Pkt.none with bytes := f, cells := n, refs := 1, sender := own }
    let v := { Desc.empty with pkt := k, bytes := f, src := 9, inst := 2048 + s.cng c CN.hive, ver := s.seq,
                               holds := true, ts := quant125 s.edryn.time }
    let (d, s) := s.addDesc (v.withRec (parseFrame (s.cfgOf s.seq) f))
    s.reinject d (s.cng c CN.txFlow)

/-! TCP (R319). -/

def sub24 (a b : Nat) : Nat := (a + 2 ^ 24 - b) % 2 ^ 24

/-- The window that STOR offers, as a segment carries it. -/
def State.tcpWin (s : State) (c : Nat) : Nat := min 65535 (Config.storWindow / 2 ^ s.cng c CN.scaleRx)

/-- TCP flag bits. -/
def tfPsh : Nat := 0x08
def tfAck : Nat := 0x10
def tfEce : Nat := 0x40
def tfCwr : Nat := 0x80

/-- A segment: sequence number, payload, and the acknowledgement of all that arrived. -/
def State.tcpSegment (s : State) (c seq : Nat) (d : Bytes) : State :=
  let x := s.cx c
  let fl := tfAck + (if d.isEmpty then 0 else tfPsh) + (if x.ece then tfEce else 0) +
    (if x.cwr && !d.isEmpty then tfCwr else 0)
  let s := if x.cwr && !d.isEmpty then s.setCx c { x with cwr := false } else s
  s.connFrame c (s.tcpFrame c seq x.rcv (s.tcpWin c) fl x.tsRecent d)
def State.tcpAck (s : State) (c : Nat) : State := s.tcpSegment c (s.cx c).nxt []

/-- Bytes sent and not acknowledged. -/
def Conn.flight (x : Conn) : Nat := sub32 x.nxt x.una

/-- The retransmission timer's period in FCLK cycles; `rto` is in µs. -/
def Conn.rtoClk (x : Conn) : Nat := x.rto * 1500

/-- New data goes while both windows allow, in segments of MSS (R319). -/
def State.tcpPush (s : State) (c : Nat) : Nat → State
  | 0 => s
  | n + 1 =>
    let x := s.cx c
    let win := min x.cwnd x.wnd
    let k := min (s.cng c CN.mss) (min (x.out.length - x.flight) (win - x.flight))
    if k = 0 then s
    else
      let seq := x.nxt
      let s := s.setCx c { x with
        nxt := i32 (x.nxt + k), timer := if x.timer = 0 then s.edryn.clk + x.rtoClk else x.timer,
        rttSeq := if x.rttSeq.isNone then some (i32 (x.nxt + k), s.edryn.clk) else x.rttSeq }
      (s.tcpSegment c seq (slice x.out x.flight k)).tcpPush c n

/-- The first segment not acknowledged is sent again. -/
def State.tcpAgain (s : State) (c : Nat) : State :=
  let x := s.cx c
  let k := min (s.cng c CN.mss) (min x.out.length x.flight)
  (s.setCx c { x with rttSeq := none }).tcpSegment c x.una (x.out.take k)

/-- Bytes of the stream are sent. -/
def State.tcpWrite (s : State) (c : Nat) (b : Bytes) : State :=
  let x := s.cx c
  (s.setCx c { x with out := x.out ++ b }).tcpPush c (x.out.length + b.length + 1)

/-- A round-trip measurement (RFC 6298), times in µs; the minimum is 1 s. (PRESUMED, unsafe: assumption 95) -/
def Conn.measure (x : Conn) (r : Nat) : Conn :=
  if x.srtt = 0 then { x with srtt := r, rttvar := r / 2, rto := max 1_000_000 (r + 4 * (r / 2)) }
  else
    let dv := if x.srtt < r then r - x.srtt else x.srtt - r
    let v := (3 * x.rttvar + dv) / 4
    let t := (7 * x.srtt + r) / 8
    { x with srtt := t, rttvar := v, rto := max 1_000_000 (t + 4 * v) }

def Conn.halved (x : Conn) (mss : Nat) : Nat := max (x.flight / 2) (2 * mss)

/-- An acknowledgement of new data: the buffer, the timer, the windows (RFC 5681, RFC 6582, RFC 6298). -/
def State.tcpNewAck (s : State) (c ack : Nat) : State :=
  let x := s.cx c
  let mss := s.cng c CN.mss
  let d := sub32 ack x.una
  let x := match x.rttSeq with
    | some (q, t) => if sub32 q x.una ≤ d then { x.measure ((s.edryn.clk - t) / 1500) with rttSeq := none } else x
    | none => x
  let part := x.fast && decide (d < sub32 x.recover x.una)
  let cw := if part then (x.cwnd - min x.cwnd d) + mss
    else if x.fast then min x.ssthresh (max (x.flight - d) mss + mss)
    else if x.cwnd < x.ssthresh then x.cwnd + min d mss else x.cwnd + max 1 (mss * mss / max 1 x.cwnd)
  let y := { x with una := ack, out := x.out.drop d, dup := 0, cwnd := cw, fast := part }
  let y := { y with timer := if ack = y.nxt then 0 else s.edryn.clk + y.rtoClk }
  let s := s.setCx c y
  if part then s.tcpAgain c else s

/-- A duplicate acknowledgement: the third starts fast retransmission (RFC 6582). -/
def State.tcpDupAck (s : State) (c : Nat) : State :=
  let x := s.cx c
  let mss := s.cng c CN.mss
  let x := { x with dup := x.dup + 1 }
  if x.fast then s.setCx c { x with cwnd := x.cwnd + mss }
  else if x.dup = 3 ∧ sub32 x.una x.recover < 2 ^ 31 then
    (s.setCx c { x with ssthresh := x.halved mss, cwnd := x.halved mss + 3 * mss, recover := x.nxt, fast := true }).tcpAgain c
  else s.setCx c x

/-- The ECN response of RFC 3168: the window is halved once for each window of data. -/
def State.tcpEce (s : State) (c : Nat) : State :=
  let x := s.cx c
  if x.fast || decide (sub32 x.recover x.una ≠ 0 ∧ sub32 x.recover x.una < 2 ^ 31) then s
  else
    let h := x.halved (s.cng c CN.mss)
    s.setCx c { x with ssthresh := h, cwnd := h, recover := x.nxt, cwr := true }

/-- A retransmission timeout (RFC 6298). -/
def State.tcpRto (s : State) (c : Nat) : State :=
  let x := s.cx c
  let mss := s.cng c CN.mss
  let x := { x with ssthresh := x.halved mss, cwnd := mss, recover := x.nxt, fast := false, dup := 0, rto := 2 * x.rto }
  (s.setCx c { x with timer := s.edryn.clk + x.rtoClk }).tcpAgain c

/-! PDUs of NVMe/TCP (R319). -/

def State.hdg (s : State) (c : Nat) : Bool := s.cng c CN.hdgst == 1
def State.ddg (s : State) (c : Nat) : Bool := s.cng c CN.ddgst == 1
def crcBytes (b : Bytes) : Bytes := leBytes 4 (crc32c 0xFFFF_FFFF b)

/-- A PDU: type, flags, its header after the common 8 bytes, its data; with the digests that FLAGS selects. -/
def State.pdu (s : State) (c type flags : Nat) (hdr data : Bytes) : Bytes :=
  let hl := 8 + hdr.length
  let hd := if s.hdg c then 4 else 0
  let dd := if s.ddg c && !data.isEmpty then 4 else 0
  let fl := flags + b2n (s.hdg c) + 2 * b2n (s.ddg c && !data.isEmpty)
  let ch := leBytes 1 type ++ leBytes 1 fl ++ leBytes 1 hl ++ leBytes 1 (if data.isEmpty then 0 else hl + hd) ++
    leBytes 4 (hl + hd + data.length + dd) ++ hdr
  ch ++ (if s.hdg c then crcBytes ch else []) ++ data ++ (if dd = 4 then crcBytes data else [])

/-- The remote command's opcode, and the bytes it moves. -/
def State.rcOpcode (s : State) (p : SPart) : Nat :=
  match p.cmd with
  | 0 => 2 | 1 => 1 | 2 => 2 | 3 => if s.partXts p then 1 else 8 | 4 => 9 | _ => 0
def State.rcLen (s : State) (p : SPart) : Nat :=
  match s.rcOpcode p with
  | 1 => s.partLen p | 2 => s.partLen p | 9 => 16 | _ => 0

/-- The 64 bytes of a remote command (R315): its data by an SGL descriptor, `sgl`. FUA and LR are the
entry's. -/
def State.sqe (s : State) (p : SPart) (sgl : Bytes) : Bytes :=
  let raw := match s.sreq p.req with
    | some q => q.raw
    | none => 0
  let op := s.rcOpcode p
  let lim := if p.cmd ≤ 1 then rget raw SE.fua * 2 ^ 30 + rget raw SE.lr * 2 ^ 31 else 0
  let cdw12 := if op = 9 ∨ op = 0 then 0 else (p.nlb - 1) + lim + (if op = 8 then rget raw SE.deac * 2 ^ 25 else 0)
  leBytes 1 op ++ leBytes 1 0x40 ++ leBytes 2 p.cid ++ leBytes 4 p.rnsid ++ List.replicate 16 0 ++ padTo 16 sgl ++
    (if op = 9 then leBytes 4 0 ++ leBytes 4 4 else if op = 0 then List.replicate 8 0 else leBytes 8 p.rlba) ++
    leBytes 4 cdw12 ++ List.replicate 12 0

/-- The data that a part sends: a Write's LBAs, or one Dataset Management range. -/
def State.rcData (s : State) (p : SPart) : Bytes :=
  if s.rcOpcode p = 9 then leBytes 4 0 ++ leBytes 4 p.nlb ++ leBytes 8 p.rlba else p.data

/-! RoCEv2 (R319). -/

/-- A packet of the queue pair, kept until it is acknowledged. -/
def State.rocePkt (s : State) (c op : Nat) (b : Bytes) (keep : Bool) : State :=
  let x := s.cx c
  let s := s.connFrame c (s.roceFrame c op x.nxt b)
  if keep then s.setCx c { x with nxt := (x.nxt + 1) % 2 ^ 24, pkts := x.pkts ++ [(x.nxt, op, b)] } else s

/-- An acknowledgement or a NAK of the responder, with its syndrome, at a PSN. -/
def State.roceAck (s : State) (c syn psn : Nat) : State :=
  s.connFrame c (s.roceFrame c 0x11 psn (leBytes 1 syn ++ beBytes 3 psn))

/-- Packets from a PSN on are sent again, as often as the retry count allows. -/
def State.roceAgain (s : State) (c psn : Nat) : State :=
  let x := s.cx c
  if s.cng c (biF 74 2 0) ≤ x.tries then s
  else
    let s := s.setCx c { x with tries := x.tries + 1 }
    (x.pkts.filter (fun e => sub24 e.1 psn < 2 ^ 23)).foldl (fun s e =>
      s.connFrame c (s.roceFrame c e.2.1 e.1 e.2.2)) s

/-! Issue (R315–R317). -/

/-- The remote command of a part is sent. -/
def State.partSend (s : State) (k : Nat) : State :=
  let p := s.part k
  let c := p.conn
  if p.phase ≠ 4 then s
  else if s.squashed p then s.endPart k 0 0
  else
    let s := s.setPart k { p with phase := 5, seen := 0, data := if p.cmd = 0 ∨ p.cmd = 2 then List.replicate (s.partLen p) 0 else p.data }
    let n := s.rcLen p
    if s.cng c CN.transport = 1 then
      let sgl := padTo 8 [] ++ leBytes 4 n ++ padTo 3 [] ++ [(0x5A : Byte)]
      s.tcpWrite c (s.pdu c 0x04 0 (s.sqe p (if n = 0 then [] else sgl)) [])
    else
      let sgl := leBytes 8 (Config.storAddr c p.cid) ++ leBytes 3 n ++ leBytes 4 (Config.storKey c p.cid) ++ [(0x40 : Byte)]
      s.rocePkt c 0x04 (s.sqe p (if n = 0 then [] else sgl)) true

/-- What a part does as far as it can: its fetch, Scarab, its command, its placement. -/
def State.partGo (s : State) (k : Nat) : State :=
  (((((s.partFill k).partFetch k).partFetched k).partSend k)).partPlace k

/-- A free remote CID of a connection (R321): the lowest. -/
def State.freeCid (s : State) (c : Nat) : Option Nat :=
  let used := (s.connParts c).map (fun k => (s.part k).cid)
  (List.range (s.cng c CN.qdepth)).find? (fun i => !used.contains i)

/-- Whether a Flush part waits for parts of its target and namespace that came before it (R317). -/
def State.flushWaits (s : State) (p : SPart) : Bool :=
  match s.sreq p.req with
  | none => false
  | some q => s.sparts.any (fun e =>
      (e.2.cmd == 1 || e.2.cmd == 3 || e.2.cmd == 4) && e.2.tgt == p.tgt && e.2.slotHeld && decide (e.2.clk ≤ q.start) &&
      (match s.sreq e.2.req with
       | some r => r.ns == q.ns
       | none => false))

/-- The next part of a request is issued: it ends at once (R316, R320), waits, or takes a command slot. -/
def State.partIssue (s : State) (r : Nat) : State :=
  match s.sreq r with
  | none => s
  | some q =>
    match q.parts.find? (fun k => (s.part k).phase == 0) with
    | none => s
    | some k =>
      let p := s.part k
      let ro := rget q.nsr NS.readOnly == 1 || p.ext == 2
      let zeros := List.replicate (s.partLen p) (0 : Byte)
      if p.cmd ≠ 5 ∧ p.ext = 0 ∧ p.cmd = 1 then s.endPart k 4 (causeStatus 4)
      else if p.cmd ≠ 5 ∧ (p.cmd = 1 ∨ p.cmd = 3 ∨ p.cmd = 4) ∧ ro then s.endPart k 5 (causeStatus 5)
      else if p.cmd ≠ 5 ∧ p.ext = 0 then
        if p.cmd = 3 ∨ p.cmd = 4 then s.endPart k 0 0
        else (s.setPart k { p with phase := 6, data := zeros, zero := p.zero || p.cmd == 0, cid := 0xFFFF }).partPlace k
      else if 4096 ≤ p.conn ∨ s.cng p.conn CN.state ≠ 1 then s.endPart k 2 (causeStatus 2)
      else if p.cmd = 5 ∧ s.flushWaits p then s
      else match s.freeCid p.conn with
        | none => s
        | some i =>
          let ph := if p.cmd = 1 ∨ (p.cmd = 3 ∧ s.partXts p) then 1 else 4
          ((s.setPart k { p with phase := ph, cid := i, clk := s.edryn.clk }).syncOut p.conn).partGo k

/-- A part of a request gets its command slot (R317). -/
def execPartIssue (r : Nat) (s : State) : Host.Outcome State Fault Refusal :=
  done s (if s.inService STOR.base || s.cur STOR.base == svcQuiescing then
    if s.domUp 10 then s.partIssue r else s else s)

/-! Responses (R321). -/

/-- A part's remote command is over: its CID is free, and its connection counts it. -/
def State.partReply (s : State) (k status : Nat) : State :=
  let p := s.part k
  let c := p.conn
  let s := s.cnp c CN.cmds (satAdd 64 (s.cng c CN.cmds) 1)
  let s := (s.setPart k { p with cid := 0xFFFF }).syncOut c
  let st := bits status 8 1 + bits status 11 9 * 256 + bits status 15 15 * 32768
  if status / 2 ≠ 0 then s.endPart k 1 st
  else if p.cmd = 0 ∨ p.cmd = 2 then
    if s.squashed p then s.endPart k 0 0
    else if s.partXts p then s.partScarab k
    else (s.modPart k (fun p => { p with phase := 6 })).partPlace k
  else s.endPart k 0 0

/-- The outstanding part of a connection with a remote CID. -/
def State.cidPart (s : State) (c cid : Nat) : Option Nat :=
  (s.connParts c).find? (fun k => (s.part k).cid == cid && (s.part k).phase == 5)

/-- A completion entry: the part ends, or the connection fails (PROTOCOL). -/
def State.cqe (s : State) (c : Nat) (b : Bytes) : State :=
  match s.cidPart c (leAt b 12 2) with
  | none => s.connFail c 7
  | some k =>
    let p := s.part k
    let st := leAt b 14 2
    if st / 2 = 0 ∧ (p.cmd = 0 ∨ p.cmd = 2) ∧ p.seen ≠ s.partLen p then s.connFail c 7 else s.partReply k st

/-- Read data of a part from an offset; a length that contradicts the command is a PROTOCOL fault. -/
def State.partData (s : State) (c k off : Nat) (d : Bytes) (inOrder : Bool) : State :=
  let p := s.part k
  if !(p.cmd == 0 || p.cmd == 2) || decide (s.partLen p < off + d.length) || (inOrder && off != p.seen) then s.connFail c 7
  else s.setPart k { p with data := overlay p.data off d, seen := p.seen + d.length }

/-- H2CData PDUs of at most MAXH2CDATA bytes. -/
def State.h2c (s : State) (c cid ttag off : Nat) : Nat → Bytes → State
  | 0, _ => s
  | n + 1, d =>
    if d.isEmpty then s
    else
      let m := min d.length (s.cng c CN.maxH2c)
      let last := m == d.length
      let hdr := leBytes 2 cid ++ leBytes 2 ttag ++ leBytes 4 off ++ leBytes 4 m ++ padTo 4 []
      (s.tcpWrite c (s.pdu c 0x06 (4 * b2n last) hdr (d.take m))).h2c c cid ttag (off + m) n (d.drop m)

/-- Whether a PDU's digests are right. -/
def State.pduGood (s : State) (c : Nat) (b : Bytes) : Bool :=
  let hl := byteAt b 2
  let dlen := b.length - byteAt b 3 - 4
  (!s.hdg c || slice b hl 4 == crcBytes (b.take hl)) &&
  (!s.ddg c || byteAt b 0 != 0x07 || byteAt b 3 == 0 ||
    b.drop (byteAt b 3 + dlen) == crcBytes (slice b (byteAt b 3) dlen))

/-- A whole PDU from the target. -/
def State.pduIn (s : State) (c : Nat) (b : Bytes) : State :=
  let hd := if s.hdg c then 4 else 0
  let dd := if s.ddg c then 4 else 0
  if !s.pduGood c b || byteAt b 2 ≠ 24 then s.connFail c 7
  else match byteAt b 0 with
  | 0x05 => if b.length ≠ 24 + hd then s.connFail c 7 else s.cqe c (slice b 8 16)
  | 0x07 =>
    let len := leAt b 16 4
    match s.cidPart c (leAt b 8 2) with
    | none => s.connFail c 7
    | some k =>
      if byteAt b 3 ≠ 24 + hd ∨ b.length ≠ 24 + hd + len + dd then s.connFail c 7
      else
        let s := s.partData c k (leAt b 12 4) (slice b (24 + hd) len) true
        if s.cng c CN.state ≠ 1 ∨ !bit (byteAt b 1) 3 then s
        else if (s.part k).seen ≠ s.partLen (s.part k) then s.connFail c 7
        else s.partReply k 0
  | 0x09 =>
    let off := leAt b 12 4
    let len := leAt b 16 4
    match s.cidPart c (leAt b 8 2) with
    | none => s.connFail c 7
    | some k =>
      let d := s.rcData (s.part k)
      let op := s.rcOpcode (s.part k)
      if b.length ≠ 24 + hd ∨ !(op == 1 || op == 9) ∨ d.length < off + len then s.connFail c 7
      else s.h2c c (leAt b 8 2) (leAt b 10 2) off (len + 1) (slice d off len)
  | _ => s

/-- The whole PDUs of a stream are taken one after another. -/
def State.pdus (s : State) (c : Nat) : Nat → State
  | 0 => s
  | n + 1 =>
    let b := (s.cx c).stream
    let len := leAt b 4 4
    if s.cng c CN.state ≠ 1 ∨ b.length < 8 then s
    else if len < 8 then s.connFail c 7
    else if b.length < len then s
    else ((s.setCx c { s.cx c with stream := b.drop len }).pduIn c (b.take len)).pdus c n

/-- Whether a stream starts a PDU of a type that R319 does not list. -/
def pduOdd : Nat → Bytes → Bool
  | 0, _ => false
  | n + 1, b =>
    if b.length < 8 then !b.isEmpty && !([0x05, 0x07, 0x09].contains (byteAt b 0))
    else if !([0x05, 0x07, 0x09].contains (byteAt b 0)) then true
    else if leAt b 4 4 < 8 ∨ b.length < leAt b 4 4 then false
    else pduOdd n (b.drop (leAt b 4 4))

/-- Whether TCP options are all end, no-operation, timestamps or SACK (R320). -/
def optsKnown (b : Bytes) : Nat → Nat → Bool
  | 0, _ => true
  | n + 1, o =>
    if b.length ≤ o then true
    else match byteAt b o with
    | 0 => true
    | 1 => optsKnown b n (o + 1)
    | k => (k == 5 || k == 8) && decide (2 ≤ byteAt b (o + 1)) && optsKnown b n (o + byteAt b (o + 1))
/-- The timestamp value of a segment's options. -/
def tsVal (b : Bytes) : Nat → Nat → Option Nat
  | 0, _ => none
  | n + 1, o =>
    if b.length ≤ o then none
    else match byteAt b o with
    | 0 => none
    | 1 => tsVal b n (o + 1)
    | 8 => some (beAt b (o + 2) 4)
    | _ => if byteAt b (o + 1) < 2 then none else tsVal b n (o + byteAt b (o + 1))

/-- Segments out of order join the stream as far as they connect. -/
def State.tcpJoin (s : State) (c : Nat) : Nat → State
  | 0 => s
  | n + 1 =>
    let x := s.cx c
    match x.ooo.find? (fun e => decide (sub32 x.rcv e.1 ≤ e.2.length) && decide (sub32 x.rcv e.1 < 2 ^ 31)) with
    | none => s
    | some e =>
      let d := e.2.drop (sub32 x.rcv e.1)
      (s.setCx c { x with rcv := i32 (x.rcv + d.length), stream := x.stream ++ d,
                          ooo := x.ooo.filter (fun y => y != e) }).tcpJoin c n

/-- The payload of a segment: in order it joins the stream and its PDUs act; out of order it waits. Every
segment with payload is acknowledged at once. -/
def State.tcpData (s : State) (c seq : Nat) (d : Bytes) : State :=
  let x := s.cx c
  if d.isEmpty then s
  else
    let s := if sub32 x.rcv seq < 2 ^ 31 ∧ d.length ≤ sub32 x.rcv seq then s
      else (s.setCx c { x with ooo := (seq, d) :: x.ooo }).tcpJoin c (x.ooo.length + 2)
    (s.tcpAck c).pdus c ((s.cx c).stream.length + 1)

/-- A packet that STOR cannot handle: punted to the connection's Hive with PUNT_WORD (R320). -/
def State.storPunt (s : State) (c d : Nat) : State := s.punt d 0x03 0xFF (some (s.cng c CN.hive))

/-- A segment of an NVMe/TCP connection. (DEDUCED, unsafe: assumption 97) -/
def State.tcpIn (s : State) (c d : Nat) : State :=
  let v := s.desc d
  match v.tcpAt, v.tcpPayload with
  | some ((h, io), o), some (po, pe, seq) =>
    let b := v.bytes
    let x := s.cx c
    let fl := byteAt b (o + 13)
    let opts := slice b (o + 20) (po - o - 20)
    let data := slice b po (pe - po)
    let ahead := sub32 seq x.rcv
    let old := 2 ^ 31 ≤ ahead
    let inWin := old || decide (ahead + data.length ≤ Config.storWindow)
    let next := x.stream ++ (if ahead = 0 then data else [])
    if fl &&& 0x27 ≠ 0 || !inWin || !optsKnown opts 40 0 || pduOdd (next.length + 1) next then s.storPunt c d
    else
      let ce := if h = 0x07 then byteAt b (io + 1) % 4 == 3 else bits (beAt b io 2) 5 4 == 3
      let wnd := beAt b (o + 14) 2 * 2 ^ s.cng c CN.scaleTx
      let ack := beAt b (o + 8) 4
      let s := s.releaseDesc d
      let x := { x with ece := (x.ece && !bit fl 7) || ce, tsRecent := (tsVal opts 40 0).getD x.tsRecent }
      let same := wnd == x.wnd
      let s := s.setCx c { x with wnd := wnd }
      let newAck := decide (0 < sub32 ack x.una) && decide (sub32 ack x.una ≤ x.flight)
      let s := if newAck then s.tcpNewAck c ack
        else if ack = x.una ∧ data.isEmpty ∧ same ∧ 0 < x.flight then s.tcpDupAck c else s
      let s := if bit fl 6 then s.tcpEce c else s
      (s.tcpData c seq data).tcpPush c ((s.cx c).out.length + 1)
  | _, _ => s.storPunt c d

/-! RoCEv2 responses. -/

/-- Opcodes that R319 names: SEND, SEND with Invalidate, RDMA WRITE, RDMA READ request, Acknowledge. -/
def roceListed : List Nat := [0x00, 0x01, 0x02, 0x04, 0x16, 0x17, 0x06, 0x07, 0x08, 0x0A, 0x0C, 0x11]

/-- The outstanding part whose STOR memory a remote key and address name, with the offset. -/
def State.roceTarget (s : State) (c key va : Nat) : Option (Nat × Nat) :=
  ((s.connParts c).find? (fun k =>
    let p := s.part k
    p.phase == 5 && key == Config.storKey c p.cid && decide (Config.storAddr c p.cid ≤ va) &&
    decide (va < Config.storAddr c p.cid + s.rcLen p))).map (fun k => (k, va - Config.storAddr c (s.part k).cid))

/-- Read responses of one RDMA READ, cut at the path MTU, from a PSN on. -/
def State.readResp (s : State) (c psn : Nat) : Nat → Nat → Bytes → State
  | 0, _, _ => s
  | n + 1, i, b =>
    let mtu := s.cng c CN.mss
    let last := decide (b.length ≤ mtu)
    let op := if i = 0 then (if last then 0x10 else 0x0D) else if last then 0x0F else 0x0E
    let aeth := if op = 0x0E then [] else leBytes 1 0x1F ++ beBytes 3 psn
    let s := s.connFrame c (s.roceFrame c op (psn + i) (aeth ++ b.take mtu))
    if last then s else s.readResp c psn n (i + 1) (b.drop mtu)

/-- A request packet of the target with the expected PSN. -/
def State.roceReq (s : State) (c op psn : Nat) (b : Bytes) : State :=
  let x := s.cx c
  let adv (s : State) (n : Nat) : State := s.setCx c { s.cx c with rcv := (psn + n) % 2 ^ 24 }
  let ok (s : State) : State := (adv s 1).roceAck c 0x1F psn
  if op = 0x0C then
    let len := beAt b 12 4
    match s.roceTarget c (beAt b 8 4) (beAt b 0 8) with
    | some (k, o) =>
      let d := s.rcData (s.part k)
      if d.length < o + len then (s.roceAck c 0x62 psn).connFail c 7
      else (adv s (max 1 (ceilDiv len (s.cng c CN.mss)))).readResp c psn (len + 1) 0 (slice d o len)
    | none => (s.roceAck c 0x62 psn).connFail c 7
  else if op = 0x06 ∨ op = 0x0A then
    match s.roceTarget c (beAt b 8 4) (beAt b 0 8) with
    | some (k, o) =>
      let d := b.drop 16
      let s := (ok s).partData c k o d false
      if s.cng c CN.state = 1 then s.setCx c { s.cx c with place := if op = 0x06 then some (k, o + d.length) else none } else s
    | none => (s.roceAck c 0x62 psn).connFail c 7
  else if op = 0x07 ∨ op = 0x08 then
    match x.place with
    | some (k, o) =>
      let s := (ok s).partData c k o b false
      if s.cng c CN.state = 1 then s.setCx c { s.cx c with place := if op = 0x07 then some (k, o + b.length) else none } else s
    | none => (s.roceAck c 0x61 psn).connFail c 7
  else
    let b := if op = 0x16 ∨ op = 0x17 then b.drop 4 else b
    let m := if op = 0x00 ∨ op = 0x04 ∨ op = 0x17 then b else x.msg ++ b
    let fin := op = 0x02 ∨ op = 0x04 ∨ op = 0x16 ∨ op = 0x17
    let s := ok (s.setCx c { x with msg := if fin then [] else m })
    if fin then (if m.length = 16 then s.cqe c m else s.connFail c 7) else s

/-- An acknowledgement: packets up to its PSN are done; a NAK asks again or fails the connection. (DEDUCED, unsafe: assumption 97) -/
def State.roceAcked (s : State) (c psn syn : Nat) : State :=
  let x := s.cx c
  let left := x.pkts.filter (fun e => 2 ^ 23 ≤ sub24 psn e.1 || (32 ≤ syn && e.1 == psn))
  let s := s.setCx c { x with pkts := left, tries := if left.length < x.pkts.length then 0 else x.tries }
  if syn < 0x20 then s
  else if syn < 0x40 || syn = 0x60 then s.roceAgain c psn
  else s.connFail c 7

/-- A packet of a RoCEv2 connection. -/
def State.roceIn (s : State) (c d : Nat) : State :=
  let v := s.desc d
  match v.prec.hdrs.find? (fun e => e.1 == hBth) with
  | none => s.storPunt c d
  | some (_, o) =>
    let op := byteAt v.bytes o
    let psn := beAt v.bytes (o + 9) 3
    let x := s.cx c
    if !roceListed.contains op then s.storPunt c d
    else
      let e := match v.prec.hdrs.find? (fun e => e.1 == hUdp) with
        | some (_, u) => u + beAt v.bytes (u + 4) 2
        | none => v.bytes.length
      let b := slice v.bytes (o + 12) (e - 4 - bits (byteAt v.bytes (o + 1)) 5 4 - (o + 12))
      let s := s.releaseDesc d
      if op = 0x11 then s.roceAcked c psn (byteAt b 0)
      else if psn = x.rcv then s.roceReq c op psn b
      else if sub24 x.rcv psn < 2 ^ 23 then
        (if op = 0x0C then match s.roceTarget c (beAt b 8 4) (beAt b 0 8) with
          | some (k, at_) => s.readResp c psn (beAt b 12 4 + 1) 0 (slice (s.rcData (s.part k)) at_ (beAt b 12 4))
          | none => s
         else s.roceAck c 0x1F ((x.rcv + 2 ^ 24 - 1) % 2 ^ 24))
      else s.roceAck c 0x60 x.rcv

/-- The connection, UP, whose receive flow a packet of STOR hit. -/
def State.storConn (s : State) (d : Nat) : Option Nat :=
  (s.connRec.find? (fun e => rget e.2 CN.state == 1 && rget e.2 CN.rxFlow == (s.desc d).flowIdx)).map Prod.fst

/-- The first packet that waits in STOR is handled (R319–R321): a connection that is no longer UP hands it to
its Hive. -/
def State.storPacket (s : State) (d : Nat) : State :=
  let s := { s with storIn := s.storIn.filter (fun x => x != d) }
  match s.storConn d with
  | some c => if s.cng c CN.transport = 1 then s.tcpIn c d else s.roceIn c d
  | none => s.punt d 0x03 0xFF none

/-- A response or data PDU of connection c arrives: the oldest packet of it is handled. -/
def execRemoteResponse (c : Nat) (s : State) : Host.Outcome State Fault Refusal :=
  done s (if !s.domUp 10 then s
    else match s.storIn.find? (fun d => (s.storConn d).getD 4096 == c) with
    | some d => s.storPacket d
    | none => match s.storIn.find? (fun d => (s.storConn d).isNone) with
      | some d => s.storPacket d
      | none => s)

/-- A remote command has been unanswered for IO_TIMEOUT_MS (R321). -/
def execRemoteIoTimeout (c : Nat) (s : State) : Host.Outcome State Fault Refusal :=
  let late (k : Nat) : Bool := (s.part k).phase == 5 &&
    decide ((s.part k).clk + s.cng c CN.timeout * 1_500_000 ≤ s.edryn.clk)
  done s (if s.cng c CN.state ≠ 1 then s
    else match (s.connParts c).filter late with
    | [] => s
    | ks =>
      let s := ks.foldl (fun s k => (s.inc STOR.TIMEOUTS.COUNT).endPart k 3 (causeStatus 3)) s
      (s.connFail c 3).evt STOR.base 11)

/-- A connection's retransmission timer runs out (R319). -/
def execTcpRto (c : Nat) (s : State) : Host.Outcome State Fault Refusal :=
  let x := s.cx c
  done s (if s.cng c CN.state ≠ 1 then s
    else if s.cng c CN.transport = 1 then (if x.timer ≠ 0 ∧ x.timer ≤ s.edryn.clk then s.tcpRto c else s)
    else match x.pkts with
      | e :: _ => s.roceAgain c e.1
      | [] => s)

/-- A fence: every part split so far is marked (R325). -/
def State.mapFence (s : State) : State :=
  let ps := s.sparts.map (fun e => (e.1, { e.2 with marked := e.2.phase != 7 }))
  let s := State.pb { s with sparts := ps } STOR.MAP_FENCE.DONE false
  if ps.any (fun e => e.2.marked) then s else (s.pb STOR.MAP_FENCE.DONE true).evt STOR.base 10
def execMapFence (actor : Nat) (v : Word) (s : State) : Host.Outcome State Fault Refusal :=
  act s actor (s.gated actor STOR.MAP_FENCE.reg (fun s => if getF v 0 0 = 1 then s.mapFence else s))

/-- Parts go on after a wake, a translation or a change of the Forager's groups. -/
def State.storPump (s : State) : State := (tkeys s.sparts).foldl (fun s k => s.partGo k) s

/-- SQUASH of an instance's requests (R326): parts not issued go, those of a split request counted (R156); the others end
at their response. -/
def State.storSquash (s : State) (i : Nat) : State :=
  (s.sreqs.filter (fun e => e.2.inst == i && !e.2.squash)).foldl (fun s e =>
    let s := s.modReq e.1 (fun q => { q with squash := true })
    e.2.parts.foldl (fun s k =>
      let ph := (s.part k).phase
      if ph = 0 ∨ ph = 1 ∨ ph = 2 ∨ ph = 4 ∨ ph = 6 ∨ ph = 8 then
        (if 2 ≤ e.2.parts.length then s.satRef i IR.squashed 1 else s).endPart k 0 0
      else s.partFill k) s) s

end Sys2Proof.Machine
end

