-- ==== Sys2Proof/Machine/Forager.lean ====
section
/-! DEFINITION. FORAGER (R328–R344): channel records and states, descriptors and their checks, bursts, media
formats, timed starts, aborts. -/

namespace Sys2Proof.Machine

/-! Channel record. -/
namespace FR
def state : RF := byF 0 0
def feed : RF := byF 1 1
def group : RF := byF 2 2
def notify : RF := byF 3 3
def owner : RF := byF 4 5
def vector : RF := byF 6 7
def base : RF := byF 8 15
def log2 : RF := byF 16 16
def rspace : RF := biF 17 1 0
def rspaceZ : RF := biF 17 3 2
def rhive : RF := biF 17 7 4
def link : RF := biF 18 1 0
def linkZ : RF := biF 18 3 2
def nhive : RF := biF 18 7 4
def prod : RF := byF 20 23
def next : RF := byF 24 27
def doneI : RF := byF 28 31
def errIndex : RF := byF 32 35
def errReason : RF := byF 36 36
def lastStatus : RF := byF 38 39
def descs : RF := byF 40 47
end FR

/-! Descriptor. -/
namespace FD
def opcode : RF := EN.opcode
def byTrig : RF := ⟨12, 12⟩
def lateSkip : RF := ⟨13, 13⟩
def flagsZ : RF := ⟨15, 14⟩
def channel : RF := ⟨24, 16⟩
def fieldZ : RF := ⟨31, 25⟩
def src : RF := byF 8 15
def dst : RF := byF 16 23
def len : RF := byF 24 27
def srcSpace : RF := biF 28 1 0
def dstSpace : RF := biF 28 3 2
def hive : RF := biF 28 7 4
def start : RF := byF 32 39
def pattern : RF := byF 40 47
def fmt : RF := byF 48 48
def nch : RF := byF 49 49
def stride : RF := byF 52 55
end FD

def chIdle : Nat := 0
def chRunning : Nat := 1
def chWaiting : Nat := 2
def chAborting : Nat := 3
def chStopped : Nat := 4
def chError : Nat := 5

def State.chr (s : State) (c : Nat) : BitVec 512 := tget 0 s.chRec c
def State.chg (s : State) (c : Nat) (f : RF) : Nat := rget (s.chr c) f
def State.chp (s : State) (c : Nat) (f : RF) (v : Nat) : State := { s with chRec := tset 0 s.chRec c (rput (s.chr c) f v) }
/-- A channel's state, in its record and in `CH_CTL`. -/
def State.setCh (s : State) (c st : Nat) : State := (s.chp c FR.state st).p (FORAGER.CH_CTL.STATE c) st

def FDesc.none : FDesc := ⟨512, .none, 0, 0, 0, 0, 0, false, false, false, 0⟩
def State.fd (s : State) (k : Nat) : FDesc := tget FDesc.none s.fdescs k
def State.setFd (s : State) (k : Nat) (v : FDesc) : State := { s with fdescs := tset FDesc.none s.fdescs k v }
/-- Descriptors of a channel, oldest first. -/
def State.chDescs (s : State) (c : Nat) : List Nat := (s.fdescs.filter (fun e => e.2.ch == c)).map Prod.fst
/-- Started descriptors whose status is not reported, and those of a group. -/
def FDesc.live (d : FDesc) : Bool := decide (2 ≤ d.phase)
def State.chLive (s : State) (c : Nat) : List Nat := (s.chDescs c).filter (fun k => (s.fd k).live)
def State.groupLive (s : State) (g : Nat) : List Nat :=
  (s.fdescs.filter (fun e => e.2.live && s.chg e.2.ch FR.group == g)).map Prod.fst

/-! Checks of a channel record (R330). -/

/-- Fields in their stated values and reserved bits zero. -/
def chRecOk (r : BitVec 512) : Bool :=
  let g (f : RF) : Nat := rget r f
  decide (g FR.feed ≤ 1) && decide (g FR.group ≤ 7) && decide (g FR.notify ≤ 2) && g FR.rspaceZ == 0 &&
  decide (g FR.rspace ≤ 2) && decide (g FR.rhive ≤ 11) && g FR.linkZ == 0 && decide (g FR.nhive ≤ 11) &&
  g (byF 19 19) == 0 && g (byF 37 37) == 0 && getF r 511 384 == 0 &&
  (if g FR.feed = 0 then decide (g FR.owner < 2048)
   else g FR.owner == 0xFFFF && g FR.base % 64 == 0 && decide (6 ≤ g FR.log2) && decide (g FR.log2 ≤ 16)) &&
  (g FR.notify != 1 || decide (g FR.vector < 2048))

/-- Whether a range of HBM lies in the Hive data and outside the replay area (R335). (DEDUCED, unsafe: assumption 54) -/
def State.hbmOk (s : State) (a n : Nat) : Bool :=
  let r := s.g SCARAB.REPLAY_BASE.ADDR
  decide (hbmHiveFrom ≤ a) && decide (a + n ≤ hbmEnd) && (decide (a + n ≤ r) || decide (r + 2 ^ 27 ≤ a))
def State.spaceOk (s : State) (sp hive a n : Nat) : Bool :=
  match sp with
  | 0 => true
  | 1 => s.hbmOk a n
  | 2 => decide (hive < 12) && decide (a + n ≤ hsSize)
  | _ => false

/-- The check at START, but for the state of an instance that owns the channel. -/
def State.chRestOk (s : State) (r : BitVec 512) : Bool :=
  let g (f : RF) : Nat := rget r f
  chRecOk r &&
  (g FR.feed == 0 || s.spaceOk (g FR.rspace) (g FR.rhive) (g FR.base) (64 * 2 ^ g FR.log2)) &&
  (g FR.notify == 0 || (g FR.notify == 1 && s.fitted (g FR.link)) ||
    (g FR.notify == 2 && decide (g FR.nhive < 12) && decide (g FR.vector < 1024)))

/-- The check at START. -/
def State.chStartOk (s : State) (r : BitVec 512) : Bool :=
  s.chRestOk r && (rget r FR.feed != 0 || s.instActive (rget r FR.owner))

/-- The status of START: SQUASHED where nothing but the end of its instance stands against it (R154). (DEDUCED, unsafe: assumption 147) -/
def State.chStartStatus (s : State) (r : BitVec 512) : Nat :=
  if s.chStartOk r then stOk
  else if s.chRestOk r && s.instEnding (rget r FR.owner) then stSquashed
  else stMalformed

/-- NEXT of a ring-fed channel: the descriptor that starts next, one already read included. -/
def State.chNext (s : State) (c : Nat) : Nat :=
  match (s.chDescs c).find? (fun k => decide ((s.fd k).phase < 2)) with
  | some k => if s.chg c FR.feed = 0 then s.chg c FR.next else (s.fd k).index
  | none => s.chg c FR.next

/-- TAP table 0 (R329, R330). -/
def State.tapForager (s : State) (actor : Nat) (op : TapOp) (t i c : Nat) (d : BitVec 512) : TapRes :=
  if t ≠ 0 ∨ 512 ≤ i ∨ c ≠ 0 then TapRes.bad s
  else match op with
  | .read => TapRes.val s (rput (s.chr i) FR.next (s.chNext i))
  | .write =>
    let claims := [s.chg i FR.group, rget d FR.group]
    if s.chg i FR.state ≠ chIdle ∨ !chRecOk d then TapRes.bad s
    else if !claims.all (fun g => 7 < g || s.claimAllows (FORAGER.GRP_CLAIM.reg g) actor) then
      ⟨stConflict, 0, s.evtConflict FORAGER.base⟩
    else
      let old := s.chr i
      let r := [FR.state, FR.prod, FR.next, FR.doneI, FR.errIndex, FR.errReason, FR.lastStatus, FR.descs].foldl
        (fun r f => rput r f (rget old f)) d
      TapRes.of { s with chRec := tset 0 s.chRec i r } stOk
  | _ => TapRes.bad s

/-! Notification (R333). -/

/-- The function of a ring-fed channel's link. -/
def State.chPf (s : State) (c : Nat) : Nat := 2048 + s.chg c FR.link

def State.chNotifyHost (s : State) (c : Nat) : State :=
  let l := s.chg c FR.link
  let i := s.chPf c
  if s.chg c FR.feed = 0 then s
  else match s.chg c FR.notify with
  | 1 =>
    if (s.link l).held.any (fun p => p.inst == i) && s.bme l
    then s.post l ⟨i, 0, [], false, some (s.chg c FR.vector), 0, false, 0⟩ else s.signal l (s.chg c FR.vector)
  | 2 => s.ring (s.chg c FR.nhive + 1) (s.chg c FR.vector)
  | _ => s

/-- Descriptors that have not started are dropped: NEXT names the first of them. -/
def State.fdDrop (s : State) (c : Nat) : State :=
  let s := s.chp c FR.next (s.chNext c)
  { s with fdescs := s.fdescs.filter (fun e => !(e.2.ch == c && decide (e.2.phase < 2))) }

/-- A channel enters ERROR (R332, R336). (DEDUCED, unsafe: assumption 99) -/
def State.chFail (s : State) (c reason index : Nat) : State :=
  if s.chg c FR.state = chError then s
  else
    let s := ((s.setCh c chError).chp c FR.errReason reason).chp c FR.errIndex index
    ((s.fdDrop c).chNotifyHost c).evt FORAGER.base 8

/-! Formats and bursts (R334, R337, R338). -/

def audioB (r : BitVec 512) : Nat := if rget r FD.fmt = 2 then 2 else 3
/-- Bytes of one unit on the source and on the destination side. -/
def unitS (r : BitVec 512) : Nat :=
  match rget r FD.opcode with
  | 4 => 8 | 5 => 5 | 6 => 4 | 7 => rget r FD.nch * audioB r | _ => 1
def unitD (r : BitVec 512) : Nat :=
  match rget r FD.opcode with
  | 4 => 5 | 5 => 8 | 6 => rget r FD.nch * audioB r | 7 => 4 | _ => 1

/-- Bytes that a side spans. -/
def spanOf (r : BitVec 512) (dst : Bool) : Nat :=
  let op := rget r FD.opcode
  let n := rget r FD.len
  if (op = 6 ∧ !dst) ∨ (op = 7 ∧ dst) then (rget r FD.nch - 1) * rget r FD.stride + 4 * n
  else n * (if dst then unitD r else unitS r)
def media (r : BitVec 512) : Bool := rget r EN.media == 1

/-- The sides that an opcode uses: reads SRC, reads DST, writes DST. -/
def readsSrc (r : BitVec 512) : Bool := rget r FD.opcode != 2
def readsDst (r : BitVec 512) : Bool := rget r FD.opcode == 3
def writesDst (r : BitVec 512) : Bool := rget r FD.opcode != 3

/-- The first check that fails (R336), with what the generic reasons of R169 say first; `entry` for one that
comes by a WQ, with its channel's owner checked by the caller (FOREIGN_OBJECT). -/
def State.fdReason (s : State) (r : BitVec 512) (entry : Bool) : Nat :=
  let op := rget r FD.opcode
  let n := rget r FD.len
  let sp (f : RF) : Nat := rget r f
  let a := rget r FD.src
  let b := rget r FD.dst
  let ls := if op = 2 then 0 else spanOf r false
  let ld := spanOf r true
  if op = 0 ∨ 7 < op then 0x02
  else if media r ≠ decide (4 ≤ op) ∨ rget r FD.flagsZ ≠ 0 ∨
      (rget r EN.timed = 0 ∧ (rget r FD.byTrig = 1 ∨ rget r FD.lateSkip = 1)) ∨ (entry ∧ rget r FD.fieldZ ≠ 0) then 0x03
  else if n = 0 ∨ 0xFFFF_FFC0 < ls ∨ 0xFFFF_FFC0 < ld then 0x04
  else if (op = 4 ∨ op = 5) ∧ rget r FD.fmt ≠ 1 then 0x21
  else if 6 ≤ op ∧ (!(rget r FD.fmt == 2 || rget r FD.fmt == 3) ∨ rget r FD.nch = 0 ∨ 64 < rget r FD.nch ∨
      rget r FD.stride < 4 * n) then 0x21
  else if op ≤ 3 ∧ rget r FD.fmt ≠ 0 then 0x21
  else if (readsSrc r && !s.spaceOk (sp FD.srcSpace) (sp FD.hive) a ls) || !s.spaceOk (sp FD.dstSpace) (sp FD.hive) b ld ||
      (entry && (sp FD.srcSpace != 0 && readsSrc r || sp FD.dstSpace != 0)) then 0x22
  else if op ≤ 3 ∧ (n % 64 ≠ 0 ∨ (readsSrc r ∧ a % 64 ≠ 0) ∨ b % 64 ≠ 0) then 0x20
  else if 4 ≤ op ∧ (a % unitS r ≠ 0 ∨ b % unitD r ≠ 0 ∨ (6 ≤ op ∧ rget r FD.stride % 4 ≠ 0)) then 0x20
  else if readsSrc r && writesDst r && sp FD.srcSpace == sp FD.dstSpace && decide (a < b + ld) && decide (b < a + ls) then 0x23
  else 0

/-- The status of a reason. -/
def fdStatus (reason : Nat) : Nat := if reason = 0x20 then stMisaligned else stMalformed

/-- Units of one burst: at most 4 KiB written, on whole units. (DESIGN CHOICE, unsafe: assumption 100) -/
def burstUnits (r : BitVec 512) : Nat :=
  let w := if rget r FD.opcode = 7 then 4 * rget r FD.nch else unitD r
  max 1 (4096 / w)
def burstLen (r : BitVec 512) (pos : Nat) : Nat := min (burstUnits r) (rget r FD.len - pos)

/-- What a burst reads: whether on the source side, address and length. -/
def burstReads (r : BitVec 512) (pos n : Nat) : List (Bool × Nat × Nat) :=
  let a := rget r FD.src
  match rget r FD.opcode with
  | 2 => []
  | 3 => [(true, a + pos, n), (false, rget r FD.dst + pos, n)]
  | 6 => (List.range (rget r FD.nch)).map (fun k => (true, a + k * rget r FD.stride + 4 * pos, 4 * n))
  | _ => [(true, a + pos * unitS r, n * unitS r)]

/-- One pgroup from four little-endian samples, and back (R337). -/
def packPg (b : Bytes) : Bytes :=
  beBytes 5 ((leAt b 0 2 % 1024) * 2 ^ 30 + (leAt b 2 2 % 1024) * 2 ^ 20 + (leAt b 4 2 % 1024) * 2 ^ 10 + leAt b 6 2 % 1024)
def unpackPg (b : Bytes) : Bytes :=
  let v := beAt b 0 5
  leBytes 2 (bits v 39 30) ++ leBytes 2 (bits v 29 20) ++ leBytes 2 (bits v 19 10) ++ leBytes 2 (bits v 9 0)

/-- An audio sample from its plane word to its interleaved bytes, and back. -/
def sampleOut (B : Nat) (w : Bytes) : Bytes := (w.drop (4 - B)).reverse
def sampleIn (B : Nat) (b : Bytes) : Bytes := List.replicate (4 - B) 0 ++ (b.take B).reverse

/-- What a burst writes, from what it read: address offsets on the destination side and bytes. -/
def burstWrites (r : BitVec 512) (pos n : Nat) (b : Bytes) : List (Nat × Bytes) :=
  let d := rget r FD.dst
  let nch := rget r FD.nch
  let B := audioB r
  match rget r FD.opcode with
  | 1 => [(d + pos, b)]
  | 2 => [(d + pos, ((List.range (ceilDiv n 8)).flatMap (fun _ => leBytes 8 (rget r FD.pattern))).take n)]
  | 4 => [(d + 5 * pos, (List.range n).flatMap (fun t => packPg (slice b (8 * t) 8)))]
  | 5 => [(d + 8 * pos, (List.range n).flatMap (fun t => unpackPg (slice b (5 * t) 5)))]
  | 6 => [(d + pos * nch * B, (List.range n).flatMap (fun t =>
      (List.range nch).flatMap (fun k => sampleOut B (slice b (4 * n * k + 4 * t) 4))))]
  | 7 => (List.range nch).map (fun k => (d + k * rget r FD.stride + 4 * pos,
      (List.range n).flatMap (fun t => sampleIn B (slice b (t * nch * B + B * k) B))))
  | _ => []

/-- How many bytes from an address of a Hive store on lie below its secure region. (DEDUCED, unsafe: assumption 148) -/
def State.openBytes (s : State) (hive a : Nat) : Nat := s.secureFrom hive - a

/-- Bytes of a space of the device; the secure region of a Hive store reads zero and drops writes (R346). (DEDUCED, unsafe: assumption 148) -/
def State.spaceRead (s : State) (sp hive a n : Nat) : Bytes :=
  if sp = 1 then mread s.hbm a n else padTo n (s.hsRead hive a (min n (s.openBytes hive a)))
/-- (DEDUCED, unsafe: assumption 148) -/
def State.spaceWrite (s : State) (sp hive a : Nat) (d : Bytes) : State :=
  if sp = 1 then { s with hbm := mwrite s.hbm a d } else s.hsWrite hive a (d.take (s.openBytes hive a))

/-- The instance whose address space a descriptor's host addresses are in. -/
def State.fdInst (s : State) (d : FDesc) : Nat := if s.chg d.ch FR.feed = 0 then s.chg d.ch FR.owner else s.chPf d.ch

/-- Whether a read of a burst is of host memory. -/
def hostRead (r : BitVec 512) (e : Bool × Nat × Nat) : Bool :=
  rget r (if e.1 then FD.srcSpace else FD.dstSpace) == 0

/-- All the bytes of a burst's reads: those of host memory from the job's buffer, in order. -/
def State.gatherBurst (s : State) (r : BitVec 512) : List (Bool × Nat × Nat) → Bytes → Bytes
  | [], _ => []
  | e :: rest, b =>
    if hostRead r e then b.take e.2.2 ++ s.gatherBurst r rest (b.drop e.2.2)
    else s.spaceRead (rget r (if e.1 then FD.srcSpace else FD.dstSpace)) (rget r FD.hive) e.2.1 e.2.2 ++ s.gatherBurst r rest b

/-- A descriptor moves no more and will report a status (phase 4). -/
def State.fdStop (s : State) (k status : Nat) : State :=
  let d := s.fd k
  s.setFd k { d with phase := 4, stop := if d.stop = 0 then status else d.stop }

/-- A burst writes, or compares. Host writes of a sealed link end the descriptor; a write that has no
translation yet leaves the burst for later. -/
def State.burstDone (s : State) (k : Nat) (b : Bytes) : State :=
  let d := s.fd k
  let r := d.raw
  let n := burstLen r d.pos
  let i := s.fdInst d
  if rget r FD.opcode = 3 then
    match firstDiff 0 (b.take n) (b.drop n) with
    | some x => (s.setFd k { d with pos := d.pos + x }).fdStop k stMismatch
    | none => s.setFd k { d with pos := d.pos + n, phase := 2 }
  else
    let ws := burstWrites r d.pos n b
    if rget r FD.dstSpace = 0 then
      if s.instSealed i then s.fdStop k stSealed
      else match s.xlCheck i true (ws.map (fun e => (e.1, e.2.length))) with
        | (.ready, s) =>
          (ws.foldl (fun s e => s.dmaWrite i e.1 e.2 (rget r EN.fence == 0)) s).setFd k { d with pos := d.pos + n, phase := 2 }
        | (.wait, s) => s.setFd k { d with phase := 2 }
        | (.fault st, s) => s.fdStop k st
    else
      (ws.foldl (fun s e => s.spaceWrite (rget r FD.dstSpace) (rget r FD.hive) e.1 e.2) s).setFd k
        { d with pos := d.pos + n, phase := 2 }

/-- Bursts of a started descriptor: reads of host memory are issued and waited for; a descriptor that reads
none writes burst after burst, its last one when it finishes (`fin`). -/
def State.fdRun (s : State) (k : Nat) (fin : Bool) : Nat → State
  | 0 => s
  | m + 1 =>
    let d := s.fd k
    let r := d.raw
    let n := burstLen r d.pos
    let i := s.fdInst d
    if d.phase ≠ 2 then s
    else if d.stop ≠ 0 || n = 0 then s.fdStop k d.stop
    else
      let rs := burstReads r d.pos n
      let host := (rs.filter (hostRead r)).map Prod.snd
      if host.isEmpty then
        if d.pos + n = rget r FD.len && !fin then s
        else
          let t := s.burstDone k (s.gatherBurst r rs [])
          if (t.fd k).pos = d.pos then t else t.fdRun k fin m
      else if s.instSealed i then s.fdStop k stSealed
      else match s.xlCheck i false host with
        | (.ready, s) => (s.setFd k { d with phase := 3 }).startRead (.fdata d.ch k) i host
        | (.wait, s) => s
        | (.fault st, s) => s.fdStop k st
def fdFuel (d : FDesc) : Nat := rget d.raw FD.len + 2

/-- The reads of a burst are back. -/
def State.fdRead (s : State) (k status : Nat) (b : Bytes) : State :=
  let d := s.fd k
  if d.phase ≠ 3 then s
  else if status ≠ 0 then s.fdStop k status
  else
    let s := s.burstDone k (s.gatherBurst d.raw (burstReads d.raw d.pos (burstLen d.raw d.pos)) b)
    s.fdRun k false (fdFuel d)

/-! The end of a descriptor (R332, R333, R338). -/

/-- DONE follows the descriptors whose status is not written. -/
def State.syncDone (s : State) (c : Nat) : State :=
  if s.chg c FR.feed = 0 then s
  else match s.chDescs c with
    | k :: _ => s.chp c FR.doneI (s.fd k).index
    | [] => s.chp c FR.doneI (s.chg c FR.next)

/-- An abort is over when nothing that started is left (R342). -/
def State.abortCheck (s : State) (c : Nat) : State :=
  if s.chg c FR.state ≠ chAborting ∨ !(s.chLive c).isEmpty then s
  else
    let s := if s.chg c FR.feed = 0 then s.setCh c chRunning
      else
        (((s.fdDrop c).setCh c chStopped).syncDone c).chNotifyHost c
    s.evt FORAGER.base 9

/-- Where a ring-fed channel's descriptor stands. -/
def State.fdAddr (s : State) (c i : Nat) : Nat := s.chg c FR.base + 64 * (i % 2 ^ s.chg c FR.log2)

/-- The status of a ring-fed descriptor is written back into its bytes 56–63 (R332, R334). -/
def State.writeBack (s : State) (c index status : Nat) (stepped : Bool) (result : Nat) : State :=
  let b := leBytes 2 status ++ leBytes 1 (1 + 2 * b2n stepped) ++ leBytes 1 0 ++ leBytes 4 result
  let a := s.fdAddr c index + 56
  if s.chg c FR.rspace = 0 then s.dmaWrite (s.chPf c) a b false else s.spaceWrite (s.chg c FR.rspace) (s.chg c FR.rhive) a b

/-- A descriptor reports and is gone. A late one that ends otherwise than well reports how it ended. (DEDUCED, unsafe: assumption 99) -/
def State.fdReport (s : State) (k : Nat) : State :=
  let d := s.fd k
  let c := d.ch
  let own := if d.stop = 0 then (if d.late then stLate else stOk) else d.stop
  let result := if own = stMismatch then d.pos else rget d.raw FD.len - d.pos
  let s := { s with fdescs := tdel s.fdescs k }.dropXfer 11 (2 ^ 44 + k)
  let s := (s.chp c FR.lastStatus own).chp c FR.descs (satAdd 64 (s.chg c FR.descs) 1)
  let s := if d.late then s.evt FORAGER.base 10 else s
  let s := if own = stMismatch then s.evt FORAGER.base 11 else s
  let s := match d.entry with
    | some (w, i) =>
      let s := s.subRef (s.wqInst w) IR.refForager 1
      let s := if own = stXlate then s.wqError w 0x11 i else s
      s.completeEnt w i own (b2n d.stepped + 2 * b2n d.trig) (leBytes 4 d.pos ++ leBytes 4 result)
        (leBytes 8 d.ns ++ leBytes 2 c)
    | none =>
      let s := (s.writeBack c d.index own d.stepped result).syncDone c
      if rget d.raw EN.solicit = 1 ∨ own ≠ 0 then s.chNotifyHost c else s
  s.abortCheck c

/-- Statuses are written in channel order: the oldest descriptor, once it has moved all. -/
def State.fdFinish (s : State) (c : Nat) : State :=
  match s.chDescs c with
  | [] => s
  | k :: _ =>
    let s := s.fdRun k true (fdFuel (s.fd k))
    if (s.fd k).phase = 4 then s.fdReport k else s

/-! Starting (R339–R341). -/

/-- FORAGER runs what it has accepted. -/
def State.foragerUp (s : State) : Bool :=
  (s.inService FORAGER.base || s.cur FORAGER.base == svcQuiescing) && s.domUp 11

/-- A descriptor starts on an engine. -/
def State.fdBegin (s : State) (k : Nat) (late stepped trig : Bool) : State :=
  let d := s.fd k
  let d := { d with phase := 2, ns := s.ns, late := late, stepped := d.stepped || stepped, trig := trig }
  let s := s.setFd k d
  let s := if s.chg d.ch FR.state = chWaiting then s.setCh d.ch chRunning else s
  if late ∧ rget d.raw FD.lateSkip = 1 then s.fdStop k stLate else s.fdRun k false (fdFuel d)

/-- Whether a channel's group has an engine for one more descriptor, in the mode in effect (R328, R339). (DESIGN CHOICE, unsafe: assumption 100) -/
def State.engineFree (s : State) (c : Nat) : Bool :=
  let g := s.chg c FR.group
  let moving := (s.groupLive g).filter (fun k => decide ((s.fd k).phase < 4))
  let mine := (s.chLive c).filter (fun k => decide ((s.fd k).phase < 4))
  if s.g (FORAGER.GRP_CTL.INTERLEAVED g) ≠ s.g (FORAGER.GRP_CTL.MODE_NOW g) then false
  else if s.gb (FORAGER.GRP_CTL.MODE_NOW g) then decide (moving.length < 4) && decide ((s.chLive c).length < 4)
  else mine.isEmpty && decide (moving.length < 8)

/-- Whether a write or a status of the channel's descriptors is still held back from the transmit queue of its link
(R131). -/
def State.fdHeldWrites (s : State) (c k : Nat) : Bool :=
  let is := s.fdInst (s.fd k) :: (if s.chg c FR.feed = 0 then [] else [s.chPf c])
  (List.range 4).any (fun l => (s.link l).held.any (fun p => is.contains p.inst))

/-- The head descriptor starts, waits for its instant or trigger, or is malformed: its status is then written in its
turn, behind those of the descriptors before it. (DEDUCED, unsafe: assumption 99) -/
def State.fdHead (s : State) (c k : Nat) : State :=
  let d := s.fd k
  let r := d.raw
  let reason := if d.entry.isNone then s.fdReason r false else 0
  if reason ≠ 0 ∧ (s.chDescs c).head? ≠ some k then s
  else if reason ≠ 0 then
    let s := { s with fdescs := tdel s.fdescs k }
    let s := s.writeBack c d.index (fdStatus reason) false (rget r FD.len)
    let s := (s.chp c FR.lastStatus (fdStatus reason)).chp c FR.descs (satAdd 64 (s.chg c FR.descs) 1)
    ((s.chp c FR.next d.index).chFail c reason d.index).syncDone c
  else if rget r EN.fence = 1 ∧ ((s.chDescs c).head? ≠ some k ∨ s.fdHeldWrites c k) then s
  else if rget r EN.timed = 0 then (if s.engineFree c then s.fdBegin k false false false else s)
  else if rget r FD.byTrig = 1 then (s.setFd k { d with phase := 1 }).setCh c chWaiting
  else
    let t := rget r FD.start
    let now := s.ns
    let late := decide (t + 32 < now)
    if now < t then (s.setFd k { d with phase := 1 }).setCh c chWaiting
    else if s.engineFree c then s.fdBegin k late false false
    else (s.setFd k { d with phase := 1, late := late }).setCh c chWaiting

/-- A ring-fed channel's next descriptor joins its queue. -/
def State.fdArrive (s : State) (c : Nat) (b : Bytes) : State :=
  let i := s.chg c FR.next
  let k := s.fdescN + 1
  let d : FDesc := { FDesc.none with ch := c, index := i, raw := packBytes 512 (padTo 56 b) }
  (State.chp { s with fdescN := k, fdescs := tins k d s.fdescs } c FR.next (i32 (i + 1))).syncDone c

/-- A WQ entry joins its channel (R331). -/
def State.fdEntry (s : State) (c w i : Nat) (r : BitVec 512) : State :=
  let k := s.fdescN + 1
  let d : FDesc := { FDesc.none with ch := c, entry := some (w, i), raw := packBytes 512 (padTo 56 (recBytes r)) }
  State.addRef { s with fdescN := k, fdescs := tins k d s.fdescs } (s.wqInst w) IR.refForager 1

/-- The domain that hands a channel its descriptors: FABRIC for WQ entries, else that of the ring's memory, but for HBM,
of which the Forager fetches by itself. (DEDUCED, unsafe: assumption 144) -/
def State.chSource (s : State) (c : Nat) : Nat :=
  if s.chg c FR.feed = 0 then 1
  else if s.chg c FR.rspace = 0 then 3 + s.linkOf (s.chPf c) / 2
  else if s.chg c FR.rspace = 2 then 14 + s.chg c FR.rhive
  else 0

/-- The next descriptor of a RUNNING channel: the oldest that has not started, else the next of the ring. (DEDUCED, unsafe: assumption 99) -/
def State.fdNext (s : State) (c : Nat) : State :=
  match (s.chDescs c).find? (fun k => (s.fd k).phase == 0) with
  | some k =>
    match s.transfer (s.chSource c) 11 (2 ^ 44 + k) with
    | (.go, s) => s.fdHead c k
    | (_, s) => s
  | none =>
    if s.chg c FR.feed = 0 ∨ s.chg c FR.next = s.chg c FR.prod ∨ s.hasJob (.fdesc c) then s
    else
      let a := s.fdAddr c (s.chg c FR.next)
      if s.chg c FR.rspace = 0 then
        if s.instSealed (s.chPf c) then s else s.startRead (.fdesc c) (s.chPf c) [(a, 64)]
      else
        let s := s.fdArrive c (s.spaceRead (s.chg c FR.rspace) (s.chg c FR.rhive) a 64)
        match (s.chDescs c).find? (fun k => (s.fd k).phase == 0) with
        | some k => s.fdHead c k
        | none => s

/-- The read of a ring's descriptor is back; one that fails ends that descriptor with its status. (DEDUCED, unsafe: assumption 99) -/
def State.fdFetched (s : State) (c status : Nat) (b : Bytes) : State :=
  if s.chg c FR.state ≠ chRunning then s
  else if status = 0 then s.fdArrive c b
  else
    let s := s.fdArrive c []
    s.fdStop s.fdescN status

def execDescriptorStart (c : Nat) (s : State) : Host.Outcome State Fault Refusal :=
  done s (if !s.foragerUp ∨ s.chg c FR.state ≠ chRunning then
      (if s.inService FORAGER.base ∧ s.chg c FR.state = chRunning ∧ !(s.chDescs c).isEmpty
       then (s.transfer (s.chSource c) 11 (2 ^ 44 + (s.chDescs c).headD 0)).2 else s)
    else s.fdNext c)

/-- The descriptor that waits at the head of a channel. -/
def State.waiting (s : State) (c : Nat) : Option Nat :=
  if s.chg c FR.state = chWaiting then (s.chDescs c).find? (fun k => (s.fd k).phase == 1) else none

def execTimedDescriptorStart (c : Nat) (s : State) : Host.Outcome State Fault Refusal :=
  done s (match s.waiting c with
    | some k =>
      if rget (s.fd k).raw FD.byTrig = 0 ∧ rget (s.fd k).raw FD.start ≤ s.ns ∧ s.foragerUp ∧ s.engineFree c
      then s.fdBegin k (s.fd k).late false false else s
    | none => s)

def execDescriptorFinish (c : Nat) (s : State) : Host.Outcome State Fault Refusal :=
  done s (if s.foragerUp then s.fdFinish c else s)

/-- A step of Edryn time from T0 to T1 ns, as waiting descriptors see it (R340). -/
def State.foragerStep (s : State) (t0 t1 : Nat) : State :=
  { s with fdescs := s.fdescs.map (fun e =>
      let t := rget e.2.raw FD.start
      if e.2.phase = 1 ∧ rget e.2.raw FD.byTrig = 0 then
        (e.1, { e.2 with stepped := if t0 < t ∧ t ≤ t1 then true else if t1 < t then false else e.2.stepped })
      else e) }

/-- A FORAGER_START action (R95, R340): its status. -/
def State.foragerTrigger (s : State) (c : Nat) (late stepped : Bool) : Nat × State :=
  match s.waiting c with
  | some k => if rget (s.fd k).raw FD.byTrig = 1 then (stOk, s.fdBegin k late stepped true) else (stBusy, s)
  | none => (stBusy, s)

/-! Channel commands (R330, R333, R342). -/

def State.chStart (s : State) (c : Nat) : Nat × State :=
  if s.chg c FR.state ≠ chIdle then (stBusy, s)
  else
    let st := s.chStartStatus (s.chr c)
    (st, if st = stOk then s.setCh c chRunning else s)

/-- Whether a descriptor's current burst is its last. -/
def lastBurst (d : FDesc) : Bool := decide (rget d.raw FD.len ≤ d.pos + burstUnits d.raw)

/-- Descriptors of a channel are told to stop with a status at their burst boundary; one in its last burst
goes on. -/
def State.stopDescs (s : State) (c status : Nat) (all : Bool) : State :=
  (s.chDescs c).foldl (fun s k =>
    let d := s.fd k
    if d.phase = 4 ∨ (2 ≤ d.phase ∧ lastBurst d) then s
    else if d.phase = 3 then s.setFd k { d with stop := if d.stop = 0 then status else d.stop }
    else if d.phase = 0 ∧ !all then s
    else s.fdStop k status) s

def State.chAbort (s : State) (c : Nat) : Nat × State :=
  if s.chg c FR.state ≠ chRunning ∧ s.chg c FR.state ≠ chWaiting then (stBusy, s)
  else (stOk, ((s.setCh c chAborting).stopDescs c stAborted false).abortCheck c)

/-- RESET (R333); what descriptors of an ERROR channel have not written yet is not written. (DEDUCED, unsafe: assumption 99) -/
def State.chReset (s : State) (c : Nat) : Nat × State :=
  let st := s.chg c FR.state
  if st ≠ chIdle ∧ st ≠ chStopped ∧ st ≠ chError then (stBusy, s)
  else
    let s := [FR.prod, FR.next, FR.doneI, FR.errIndex, FR.errReason].foldl (fun s f => s.chp c f 0) s
    (stOk, State.setCh { s with fdescs := s.fdescs.filter (fun e => e.2.ch != c) } c chIdle)

/-- Actors that may write the channel registers. (DEDUCED, unsafe: assumption 98) -/
def foragerActor (a : Nat) : Bool := isPf a || isThread a

/-- A write to a channel register: dropped while the domain sleeps (R38), for an actor that may make it. (DEDUCED, unsafe: assumption 98) -/
def State.foragerWrite (s : State) (actor a : Nat) (f : State → State) : State :=
  if s.domDown 11 then s.inc ROOT.DROPPED_WRITES.COUNT
  else if !foragerActor actor then s.evtErr FORAGER.base
  else s.gated actor a f

/-- A command of `CH_CTL`: its status stands there. (DEDUCED, unsafe: assumption 98) -/
def State.chCommand (s : State) (actor c op : Nat) : State :=
  if 512 ≤ c then s
  else s.foragerWrite actor (FORAGER.CH_CTL.reg c) (fun s =>
    if op = 0 ∨ 3 < op then s.evtErr FORAGER.base
    else
      let x := if op = 1 then s.chStart c else if op = 2 then s.chAbort c else s.chReset c
      x.2.p (FORAGER.CH_CTL.STATUS c) x.1)

def execForagerChStart (actor c : Nat) (s : State) : Host.Outcome State Fault Refusal :=
  act s actor (s.chCommand actor c 1)
def execForagerChAbort (actor c : Nat) (s : State) : Host.Outcome State Fault Refusal :=
  act s actor (s.chCommand actor c 2)
def execForagerChReset (actor c : Nat) (s : State) : Host.Outcome State Fault Refusal :=
  act s actor (s.chCommand actor c 3)

/-- A doorbell of a ring-fed channel (R332). -/
def State.chDoorbell (s : State) (c p : Nat) : State :=
  let dn := s.chg c FR.doneI
  if s.chg c FR.state = chIdle ∨ s.chg c FR.feed = 0 then s
  else if sub32 (s.chg c FR.prod) dn ≤ sub32 p dn ∧ sub32 p dn ≤ 2 ^ s.chg c FR.log2 then s.chp c FR.prod p
  else s.chFail c 0x2F dn

def execForagerChDoorbell (actor c : Nat) (v : Word) (s : State) : Host.Outcome State Fault Refusal :=
  act s actor (if 512 ≤ c then s
    else s.foragerWrite actor (FORAGER.CH_DB.reg c) (fun s => s.chDoorbell c (getF v 31 0)))

/-- The mode of a group changes once nothing of it is in flight (R328). -/
def execGroupModeSwitch (g : Nat) (s : State) : Host.Outcome State Fault Refusal :=
  done s (if 8 ≤ g ∨ !(s.groupLive g).isEmpty then s
    else s.p (FORAGER.GRP_CTL.MODE_NOW g) (s.g (FORAGER.GRP_CTL.INTERLEAVED g)))

/-- SQUASH of an instance's descriptors (R156): at their burst boundary, with SQUASHED. -/
def State.foragerSquash (s : State) (i : Nat) : State :=
  (tkeys s.chRec).foldl (fun s c =>
    if s.chg c FR.feed = 0 ∧ s.chg c FR.owner = i then
      let s := s.stopDescs c stSquashed true
      if s.chg c FR.state = chWaiting then s.setCh c chRunning else s
    else s) s

/-- Descriptors that have moved all report, and waiting bursts go on. -/
def State.foragerPump (s : State) : State :=
  if !s.foragerUp then s
  else
    let s := (tkeys s.fdescs).foldl (fun s k => s.fdRun k false (fdFuel (s.fd k))) s
    (tkeys s.fdescs).foldl (fun s k =>
      let c := (s.fd k).ch
      if (s.fd k).phase = 4 ∧ (s.chDescs c).head? = some k then s.fdReport k else s) s

end Sys2Proof.Machine
end

