-- ==== Sys2Proof/Machine/Trig.lean ====
section
/-! DEFINITION. TRIG (R88–R102): arming, firing, the actions and their delivery, and a step of Edryn time as
every unit sees it (R76, R99). -/

namespace Sys2Proof.Machine

/-- The bits of ARG that an action's row lists (R95); the rest is reserved, and ignored (R9). -/
def trigArgBits (action : Nat) : Nat :=
  match action with
  | 1 => 8 | 2 => 20 | 3 => 9 | 4 => 17 | 5 => 4 | 6 => 17 | 7 => 20 | _ => 64
/-- An action's argument as its target takes it. -/
def trigArg (action arg : Nat) : Nat := arg % 2 ^ trigArgBits action

/-- Whether an action's code and argument keep the action table (R95). -/
def trigArgOk (action arg : Nat) : Bool :=
  let a := trigArg action arg
  match action with
  | 0 => a == 0
  | 4 => decide (bits a 7 0 ≤ 25) && decide (bits a 11 8 ≤ 3)
  | 7 => decide (bits a 19 16 ≤ 12)
  | _ => decide (action < 8)

/-- The power domain of an action's target (R97); 0 for AON. -/
def trigDom (action arg : Nat) : Nat :=
  match action with
  | 1 => 1
  | 2 => 9
  | 3 => 11
  | 6 => if bit arg 16 then 0 else 1
  | 7 => if bits arg 19 16 = 0 then 0 else 13 + bits arg 19 16
  | _ => 0

/-- Whether a domain takes a delivered action: not in SLEEP or below, and not on its way back. (DEDUCED, unsafe: assumption 35) -/
def State.takesAction (s : State) (d : Nat) : Bool := s.domUp d || s.domState d == 8

/-- The checks of an actor at delivery (R95): permission, then the claim over a register. Where a claim forbids an
action that the target would refuse as well, the lower code is the answer (R16). (DEDUCED, unsafe: assumption 35) -/
def State.trigGate (s : State) (by_ : Nat) (t : UType) (reg : Nat) (f : State → Nat × State) : Nat × State :=
  if !s.permits by_ t then (stMalformed, s)
  else match claimOver reg with
    | some (w, _) =>
      if s.claimAllows w by_ then f s
      else
        let c := (f s).1
        (if c = stOk then stConflict else min c stConflict, s)
    | none => f s

/-- A FIREFLY_EDGE on an output in TRIGGER mode, placed at an instant (R86, R95, R96). -/
def State.trigEdge (s : State) (n kind t : Nat) : Nat × State :=
  if s.g (EDRYN.FF_CTL.MODE n) ≠ 4 then (stMalformed, s)
  else
    let f := s.ffOut n
    match kind with
    | 0 => (stOk, s.ffEdge n true t)
    | 1 => (stOk, s.ffEdge n false t)
    | 2 => (stOk, s.ffEdge n (!f.level) t)
    | _ => (stOk, (s.setFf n { f with fallAt := some (t + s.g (EDRYN.FF_WIDTH.WIDTH n) * 65536) }).ffEdge n true t)

/-- An action acts on its target: the target's status (R95). TELEMETRY of FWC has a place in the action
table and no content anywhere: its status is a free one of the shared codes (R15). (DESIGN CHOICE, safe: assumption 84) (DESIGN CHOICE, unsafe: assumption 153) -/
def State.trigDeliver (s : State) (by_ action arg nominal : Nat) (late stepped : Bool) : Nat × State :=
  match action with
  | 1 => s.commit by_ arg true
  | 2 => s.trigGate by_ .scarab SCARAB.SLOT_CTL.reg (fun s =>
      if isThread by_ && !s.secure by_ then (stMalformed, s) else s.switchSlot arg)
  | 3 => s.trigGate by_ .forager (FORAGER.CH_CTL.reg arg) (fun s => s.foragerTrigger arg late stepped)
  | 4 => s.trigGate by_ .pwr PWR.VOTE.reg (fun s => (stOk, s.putVote (bits arg 7 0) (bits arg 16 12) (bits arg 11 8) by_))
  | 5 => s.trigGate by_ .edryn (EDRYN.FF_CTL.reg (bits arg 1 0)) (fun s =>
      s.trigEdge (bits arg 1 0) (bits arg 3 2) (if stepped || late then s.edryn.time else nominal * 65536))
  | 6 =>
    if bit arg 16 then s.trigGate by_ .fwc FWC.ALERT.reg (fun s =>
      let (v, s) := s.fresh
      (v.toNat % 0x13, s))
    else s.trigGate by_ .sched (SCHED.base + 0x40) (fun s => s.telemetry (arg % 2 ^ 16) nominal late stepped)
  | 7 =>
    let w := bits arg 19 16
    let d := arg % 2 ^ 16
    s.trigGate by_ .waggle (WAGGLE.DB_RING.reg w d) (fun s =>
      if dbCount w ≤ d then (stMalformed, s) else (stOk, s.ring w d))
  | _ => (stOk, s)

/-- The outcome of a delivery in `LAST_INFO` (R95, R97). -/
def State.trigReport (s : State) (n status nominal : Nat) (late stepped held : Bool) : State :=
  let s := ((s.p (TRIG.LAST_INFO.STATUS n) status).pb (TRIG.LAST_INFO.LATE n) late).pb (TRIG.LAST_INFO.STEPPED n) stepped
  let s := (s.pb (TRIG.LAST_INFO.HELD n) held).p (TRIG.LAST_INFO.LAG n) (min 0xFFFF (s.ns - nominal))
  if status = stOk then s else s.evt TRIG.base 11

/-- Comparator n fires (R92–R101): once for every occurrence up to now. An action that its target's domain cannot take
is held, and `LAST_INFO` tells of it when it is applied. (DEDUCED, unsafe: assumption 35) (DESIGN CHOICE, unsafe: assumption 153) -/
def State.trigFire (s : State) (n : Nat) (late stepped : Bool) : State :=
  let t := s.g (TRIG.TIME.NS n)
  let p := s.g (TRIG.PERIOD.NS n)
  let k := if p = 0 then 0 else (s.ns - t) / p
  let last := t + k * p
  let action := s.g (TRIG.CTL.ACTION n)
  let arg := trigArg action (s.g (TRIG.ARG.ARG n))
  let by_ := s.g (TRIG.CTL.ARMED_BY n)
  let s : State := { s with trigLate := s.trigLate.filter (· != n) }
  let s := (s.p (TRIG.LAST.NS n) last).addSat (TRIG.LAST_INFO.MISSED n) k
  let s := if p = 0 then s.pb (TRIG.CTL.ARM n) false else s.p (TRIG.TIME.NS n) (last + p)
  let s := s.inc (TRIG.CTL.COUNT n)
  let s := if s.gb (TRIG.CTL.NOTIFY n) then
      (s.setReg (TRIG.PEND.reg (n / 64)) (s.reg (TRIG.PEND.reg (n / 64)) ||| BitVec.ofNat 64 (2 ^ (n % 64)))).evt TRIG.base 8
    else s
  let s := if stepped then s.evt TRIG.base 10 else s
  let s := if late then s.evt TRIG.base 9 else s
  if s.takesAction (trigDom action arg) then
    let x := s.trigDeliver by_ action arg last late stepped
    x.2.trigReport n x.1 last late stepped false
  else { s with held := s.held ++ [⟨n, action, arg, by_, last, stepped, late⟩] }

/-- Actions held for a domain that is back in IDLE or RUN are applied, oldest first, with LATE set and status LATE
(R97); UNIT_EVT.LATE where the firing had not raised it. (DEDUCED, unsafe: assumption 35) -/
def State.heldApply (s : State) (d : Nat) : State :=
  let (l, r) := s.held.partition (fun h => trigDom h.action h.arg == d)
  l.foldl (fun s h =>
    let s := if h.late then s else s.evt TRIG.base 9
    (s.trigDeliver h.by_ h.action h.arg h.nominal true h.stepped).2.trigReport h.comp stLate h.nominal true h.stepped true)
    { s with held := r }

/-- Whether comparator n evaluates (R88). -/
def State.trigEvaluates (s : State) (n : Nat) : Bool := decide (n < 16) || s.domUp 1
def State.trigArmed (s : State) (n : Nat) : Bool := s.gb (TRIG.CTL.ARM n)

/-- Whether Edryn time is at or past an armed comparator's instant, a FIREFLY_EDGE 64 ns ahead of it (R92, R93). -/
def State.trigDue (s : State) (n : Nat) : Bool :=
  s.trigArmed n && s.trigEvaluates n &&
  decide (s.g (TRIG.TIME.NS n) ≤ s.ns + (if s.g (TRIG.CTL.ACTION n) = 5 then 64 else 0))

/-- Comparators fire in ascending order (R94): late more than 32 ns after the instant, or where FABRIC's return found
it passed (R88). (DESIGN CHOICE, unsafe: assumption 153) -/
def State.trigFireAll (s : State) (l : List Nat) : State :=
  l.foldl (fun s n => s.trigFire n (decide (s.g (TRIG.TIME.NS n) + 32 < s.ns) || s.trigLate.contains n) false) s

/-- The comparators up to n that are due fire. -/
def State.trigUpTo (s : State) (n : Nat) : State := s.trigFireAll ((List.range (n + 1)).filter s.trigDue)

/-- Comparators whose instant passed while FABRIC did not evaluate them fire LATE (R88). -/
def State.trigFabric (s : State) : State :=
  if s.domUp 1 then
    let l := s.trigLate
    (l.foldl (fun s n => if s.trigArmed n ∧ s.g (TRIG.TIME.NS n) ≤ s.ns then s.trigFire n true false else s) s)
  else s

/-- A step from T0 to T1 ns fires what it passes, in comparator order (R94, R99). -/
def State.trigStep (s : State) (t0 t1 : Nat) : State :=
  ((List.range 256).filter (fun n =>
    let t := s.g (TRIG.TIME.NS n)
    s.trigArmed n && s.trigEvaluates n && decide (t0 < t) && decide (t ≤ t1))).foldl (fun s n => s.trigFire n false true) s

/-- A write of `CTLn` (R91): what is due fires before the write takes effect (R92); a comparator armed for an instant
that is past fires at once (R98). A refused arming still stores ACTION and NOTIFY. (DEDUCED, unsafe: assumption 35) (DESIGN CHOICE, unsafe: assumption 132) -/
def State.trigCtl (s : State) (actor n : Nat) (v : Word) : State :=
  let s := if s.trigDue n then s.trigUpTo n else s
  let action := getF v 15 8
  let notify := getF v 1 1
  if s.trigArmed n then
    let s := (s.p (TRIG.CTL.NOTIFY n) notify).p (TRIG.CTL.ARM n) (getF v 0 0)
    if action = s.g (TRIG.CTL.ACTION n) then s else s.evtErr TRIG.base
  else
    let s := (s.p (TRIG.CTL.NOTIFY n) notify).p (TRIG.CTL.ACTION n) action
    let p := s.g (TRIG.PERIOD.NS n)
    if getF v 0 0 = 0 then s
    else if !trigArgOk action (s.g (TRIG.ARG.ARG n)) ∨ (p ≠ 0 ∧ p < 1000) then s.evtErr TRIG.base
    else
      let s := (s.pb (TRIG.CTL.ARM n) true).p (TRIG.CTL.ARMED_BY n) actor
      let s := (s.p (TRIG.CTL.COUNT n) 0).p (TRIG.LAST_INFO.MISSED n) 0
      if s.g (TRIG.TIME.NS n) ≤ s.ns ∧ s.trigEvaluates n then s.trigFire n true false else s

/-- A write of `CTLn` with ARM set; one without it. -/
def execTrigArm (actor n : Nat) (v : Word) (s : State) : Host.Outcome State Fault Refusal :=
  act s actor (if 256 ≤ n then s
    else s.gated actor (TRIG.CTL.reg n) (fun s => s.trigCtl actor n (v ||| 1)))
def execTrigDisarm (actor n : Nat) (v : Word) (s : State) : Host.Outcome State Fault Refusal :=
  act s actor (if 256 ≤ n then s
    else s.gated actor (TRIG.CTL.reg n) (fun s => s.trigCtl actor n (v &&& ~~~1)))

/-- Comparator n reaches its instant: it fires, after those below it that are due as well (R92–R94). -/
def execTrigFire (n : Nat) (s : State) : Host.Outcome State Fault Refusal :=
  done s (if n < 256 ∧ s.trigDue n then s.trigUpTo n else s)

/-- A write of `STEP` (R76): Edryn time, then triggers, Beeline, waiting descriptors and thread timers. -/
def State.edrynStep (s : State) (v : Nat) : State :=
  let t0 := s.ns
  let s := s.stepTime v
  let t1 := s.ns
  (((s.trigStep t0 t1).beelineStep t0 t1).foragerStep t0 t1).timersDue

def execEdrynStep (actor : Nat) (v : Word) (s : State) : Host.Outcome State Fault Refusal :=
  act s actor (s.gated actor EDRYN.STEP.reg (fun s => s.edrynStep v.toNat))

end Sys2Proof.Machine
end

