-- ==== Sys2Proof/Machine/Svc.lean ====
section
/-! DEFINITION. The unit header's commands: service requests and transitions (R49–R54, R470), live update
(R360, R426, R449), events (R47, R123) and faults (R46). -/

namespace Sys2Proof.Machine

def State.svcTag (s : State) (u : Nat) : Nat := tget 0 s.svc u
def State.unitReq (s : State) (u : Nat) : Nat := s.g (UNIT.SVC.REQ u)
def State.modKeeperImage (s : State) (c : Nat) (b : Tbl (BitVec 512)) : State :=
  s.modTrust (fun t => { t with image := b, checked := c })

/-- Everything that waited for a unit to take work looks again. (DESIGN CHOICE, unsafe: assumption 2) -/
def State.svcPump (s : State) : State :=
  (s.hivesLeft.resumePunts.resumePipe.pumpOps.storPump).foragerPump

/-- Whether a unit still holds accepted work (R49): a TAP command, or what its own kind takes; a Hive by R360. -/
def State.unitBusy (s : State) (i : UnitInfo) : Bool :=
  s.tapBusy.any (fun e => e.1 == i.base) ||
  match i.type with
  | .hive =>
    let h := i.inst
    !(s.hv h).done || s.g (HIVE.INTAKE_IDX.PROD h) != s.g (HIVE.INTAKE_IDX.CONS h) ||
      s.g (HIVE.HELD.PACKETS h) != 0 || !(List.range 64).all (fun k => (s.th (h * 64 + k)).idle)
  | .qcore =>
    let c := (i.base - i.parent - 0x20_0000) / 0x2_0000
    let h := (i.parent - HIVE.base 0) / 0x40_0000
    (List.range 8).any (fun k => (s.th (h * 64 + c * 8 + k)).state == thWait)
  | .port => !(s.onWire i.inst).isEmpty
  | .scarab => s.sops.any (fun e => e.2.seq.isSome)
  | .forager => s.fdescs.any (fun e => decide (2 ≤ e.2.phase))
  | .stor => !s.sreqs.isEmpty
  | .flow => s.descs.any (fun e => e.2.place == .flow)
  | .beeline => !s.beeline.isEmpty
  | .ring => s.jobs.any (fun e => match e.2.use with | .fetch _ _ _ => true | _ => false)
  | .comb => !s.pkts.isEmpty
  | .hostlink => !(s.link i.inst).reads.isEmpty || !(s.link i.inst).xlReqs.isEmpty
  | .inst => !s.instCmd.isEmpty
  | .sched => s.noder.any (fun e => !e.2.q.isEmpty)
  | _ => false

/-- The threads of one QCORE restart at the image's entry point (R360). (DEDUCED, unsafe: assumption 49) -/
def State.restartCore (s : State) (i : UnitInfo) : State :=
  let h := (i.parent - HIVE.base 0) / 0x40_0000
  let c := (i.base - i.parent - 0x20_0000) / 0x2_0000
  (List.range 8).foldl (fun s k => (s.resetTh (h * 64 + c * 8 + k)).startTh (h * 64 + c * 8 + k) (s.hv h).entry) s

/-- A port is back in service: it trains, and XON follows when its link is up (R449). (DEDUCED, unsafe: assumption 48) -/
def State.portBack (s : State) (p : Nat) : State :=
  let s := if s.trains p && !s.gb (PORT.STAT.LINK p) then s.pb (PORT.STAT.TRAINING p) true else s
  (s.calXon p).unblock p

/-- A unit returns to IN_SERVICE. (DEDUCED, unsafe: assumption 48) -/
def State.svcReturn (s : State) (i : UnitInfo) (reason : Nat) : State :=
  let s := (s.setSvc i.base 0).setCur i.base svcIn reason
  match i.type with
  | .port => s.portBack i.inst
  | _ => s

/-- A unit in IN_SERVICE begins to quiesce. -/
def State.svcLeave (s : State) (i : UnitInfo) (reason : Nat) : State :=
  let s := (s.setSvc i.base (16 + reason)).setCur i.base svcQuiescing reason
  match i.type with
  | .port => if s.unitReq i.base = 3 then s.calXoff i.inst else s
  | .hive =>
    let s := s.modHv i.inst (fun v => { v with quiClk := s.edryn.clk, done := false })
    (s.pb (HIVE.MIGRATE.PENDING i.inst) true).thEvent (supervisor i.inst) evMigrate
  | _ => s

/-- QUIESCING ends with REQ := 0: nothing is lost. (DEDUCED, unsafe: assumption 51) -/
def State.svcBack (s : State) (i : UnitInfo) (reason : Nat) : State :=
  let s := match i.type with
    | .port => s.setPort i.inst { s.portSt i.inst with calClk := 0 }
    | .hive => s.pb (HIVE.MIGRATE.PENDING i.inst) false
    | _ => s
  s.svcReturn i reason

/-- A staged image that has not been activated goes. -/
def State.dropImage (s : State) (i : UnitInfo) (checked : Nat) : State :=
  match i.type with
  | .hive => s.modHv i.inst (fun v => { v with staged := [], checked := checked })
  | .keeper => s.modKeeperImage checked []
  | _ => s

/-- SCARAB leaves UPDATING with its image not activated: the image goes. -/
def State.dropProg (s : State) (i : UnitInfo) : State := if i.type = .scarab then s.progDiscard else s

/-- A unit enters UPDATING; a port drops its link and trains anew (R449). (DEDUCED, unsafe: assumption 48) -/
def State.svcUpdate (s : State) (i : UnitInfo) (reason : Nat) : State :=
  let s := (s.setCur i.base svcUpdating reason).dropImage i 0
  match i.type with
  | .port =>
    let v := s.portSt i.inst
    (s.setPort i.inst { v with calClk := if v.calClk = 0 then s.edryn.clk + 1 else v.calClk }).linkFall i.inst true
  | _ => s

/-- The image that a unit holds staged, and what its check found (0 not checked, 1 passed). -/
def State.stagedOf (s : State) (i : UnitInfo) : Tbl (BitVec 512) × Nat :=
  match i.type with
  | .hive => ((s.hv i.inst).staged, (s.hv i.inst).checked)
  | .keeper => (s.trust.image, s.trust.checked)
  | .scarab => if s.progBusy then (s.progStage, 0) else if s.g SCARAB.PROG_STAT.RESULT = 1 then (s.progStage, 1) else ([], 0)
  | _ => ([], 0)

/-- A verified image starts to run (R360, R428). (DEDUCED, unsafe: assumption 50) (DEDUCED, unsafe: assumption 118) -/
def State.activate (s : State) (i : UnitInfo) (b : Bytes) : State :=
  match i.type with
  | .hive => match segOf b 2 with
    | some g => ((s.loadHive i.inst (segBytes b g)).startSup i.inst).measure 4 g.digest
    | none => s
  | .keeper => match segOf b 1 with
    | some g => s.measure 3 g.digest
    | none => s
  | .scarab => s.progLoad
  | _ => s

/-- UPDATING ends with REQ := 0, its image activated; an image still with the Keeper is waited for. -/
def State.svcActivate (s : State) (i : UnitInfo) (r : Nat) : State :=
  let x := s.stagedOf i
  if !x.1.isEmpty && x.2 == 0 then s.setSvc i.base (12 + r)
  else
    let s := if x.1.isEmpty then s else (s.activate i (stagedBytes x.1)).dropImage i 0
    let s := if i.type = .qcore ∧ r = 1 then s.restartCore i else s
    s.svcReturn i (if r = 1 then 6 else 2)

/-- A unit acts on its REQ: reason 1 REQUEST, 2 PARENT. A unit that is not fitted stays so (R41), a sleeping
domain holds the request (R54). (DEDUCED, unsafe: assumption 47) -/
def State.svcAct (s : State) (u r : Nat) : State :=
  match unitAt u with
  | none => s
  | some i =>
    if s.notFitted u then s
    else if s.domDown i.dom then s.setSvc u r
    else
      let s := s.setSvc u 0
      match s.ownCur u, s.unitReq u with
      | 0, 2 => s.svcLeave i r
      | 0, 3 => s.svcLeave i r
      | 1, 0 => s.svcBack i r
      | 1, _ => s.setSvc u (16 + r)
      | 2, 3 => s.svcUpdate i r
      | 2, 0 => if i.type = .port then s.setSvc u (8 + r) else s.svcReturn i r
      | 3, 0 => s.svcActivate i r
      | 3, 2 => ((s.dropImage i 0).dropProg i).setCur u svcOut r
      | 4, 3 => if s.domUp i.dom then s.setSvc u (4 + r) else s.evtErr u
      | _, _ => s

/-- Requests held for units of a domain are applied when it is back (R54). -/
def State.svcHeld (s : State) (d : Nat) : State :=
  (s.svc.filter (fun e => (e.2 == 1 || e.2 == 2) && (domUnits d).contains e.1)).foldl
    (fun s e => s.svcAct e.1 e.2) s

/-- Units that load a signed image, with their bit of Chitin's FW_UPDATE (R53, R432). -/
def fwBit : UType → Option Nat
  | .hive => some 0 | .qcore => some 0 | .scarab => some 1 | .keeper => some 2 | _ => none

/-- Whether a write to REQ is ignored with ERROR (R41, R49, R52, R53). -/
def State.svcRefused (s : State) (actor : Nat) (i : UnitInfo) (req : Nat) : Bool :=
  i.base == 0 || !s.permits actor i.type ||
  (i.type == .keeper && actor != 0x2000 && actor != s.owner && actor != 0x2001) ||
  (req != 0 && req != 2 && req != 3) || (req == 0 && s.notFitted i.base) ||
  (req == 3 && (fwBit i.type).any (fun k => !s.fwPermit k)) ||
  (req == 0 && s.unitReq i.parent != 0)

/-- REQ and its actor are written, and the unit acts. -/
def State.svcWrite (s : State) (actor u req r : Nat) : State :=
  ((s.p (UNIT.SVC.REQ u) req).p (UNIT.SVC.REQ_ACTOR u) actor).svcAct u r

/-- A write to REQ: the unit, then its copy in every unit below (R51). (DEDUCED, unsafe: assumption 47) -/
def State.svcRequest (s : State) (actor : Nat) (i : UnitInfo) (req : Nat) : State :=
  if s.svcRefused actor i req then s.evtErr i.base
  else
    let s := s.svcWrite actor i.base req 1
    (((subtree i.base).drop 1).foldl (fun s c => if s.notFitted c then s else s.svcWrite actor c req 2) s).svcPump

/-- The unit that a command names by its base. -/
def unitInfo (u : Nat) : Option UnitInfo :=
  match unitAt u with
  | some i => if i.base = u then some i else none
  | none => none

/-- A command on a unit named by its base; at any other address nothing is there to act (R37). (DEDUCED, unsafe: assumption 17) -/
def onInfo (s : State) (u : Nat) (f : UnitInfo → State) : Host.Outcome State Fault Refusal :=
  match unitInfo u with
  | some i => done s (f i)
  | none => done s s

/-- The same with an actor. -/
def actInfo (s : State) (actor u : Nat) (f : UnitInfo → State) : Host.Outcome State Fault Refusal :=
  if actorOk actor then onInfo s u f else .refused .outsideInterface

def execSvcReqWrite (actor unit req : Nat) (s : State) : Host.Outcome State Fault Refusal :=
  actInfo s actor unit (fun i => s.svcRequest actor i (req % 16))

/-- QUIESCING ends: no accepted work is left (R49, R360). The reason is that of the latest request (R51). -/
def State.quiesced (s : State) (i : UnitInfo) : State :=
  let t := s.svcTag i.base
  let r := if t / 4 = 4 then t % 4 else s.g (UNIT.SVC.REASON i.base)
  let s := s.setSvc i.base (if t / 4 = 4 then 0 else t)
  let s := match i.type with
    | .hive =>
      let s := s.pb (HIVE.MIGRATE.PENDING i.inst) false
      if (s.hv i.inst).done then s.evt i.base 12 else s
    | _ => s
  let s := s.setCur i.base svcOut r
  if s.unitReq i.base = 3 then s.svcUpdate i r else s

def execQuiesceComplete (unit : Nat) (s : State) : Host.Outcome State Fault Refusal :=
  onInfo s unit (fun i => if s.ownCur unit ≠ svcQuiescing ∨ s.unitBusy i then s else (s.quiesced i).svcPump)

/-- The return checks of an OUT_OF_SERVICE unit pass: a port's SerDes PLL locks (R449, R470). -/
def execReturnChecksPass (unit : Nat) (s : State) : Host.Outcome State Fault Refusal :=
  onInfo s unit (fun i =>
    let t := s.svcTag unit
    if s.ownCur unit = svcOut ∧ t / 4 = 2 then (s.svcReturn i (t % 4)).svcPump else s)

/-- A FAILED unit's self-test ends (R470). -/
def execEntryChecksDone (unit : Nat) (pass : Bool) (s : State) : Host.Outcome State Fault Refusal :=
  onInfo s unit (fun i =>
    let t := s.svcTag unit
    if s.ownCur unit ≠ svcFailed ∨ t / 4 ≠ 1 then s
    else
      let s := s.setSvc unit 0
      if pass && s.domUp i.dom && s.unitReq unit == 3 then s.svcUpdate i (t % 4) else s.evtErr unit)

/-! Images of HIVE and KEEPER (R360, R426). -/

/-- The Keeper has checked the image staged into a unit in UPDATING. -/
def State.imageChecked (s : State) (i : UnitInfo) : State :=
  let x := s.stagedOf i
  if s.ownCur i.base ≠ svcUpdating ∨ x.1.isEmpty ∨ x.2 ≠ 0 then s
  else if s.serviceReason (stagedBytes x.1) [if i.type = .hive then 2 else 1] ≠ 0 then
    (s.dropImage i 2).failUnit i.base 7
  else
    let s := match i.type with
      | .hive => s.modHv i.inst (fun v => { v with checked := 1 })
      | _ => s.modKeeperImage 1 x.1
    let t := s.svcTag i.base
    if t / 4 = 3 then s.svcActivate i (t % 4) else s

def execImageVerifyDone (unit : Nat) (s : State) : Host.Outcome State Fault Refusal :=
  onInfo s unit (fun i => if i.type = .hive ∨ i.type = .keeper then (s.imageChecked i).svcPump else s)

/-- PROG_VERIFY_DONE: the Keeper's check of a mode-program image is over (R289). SCARAB in UPDATING fails with an image
that is rejected, and returns with one that it waited for (R290). (DESIGN CHOICE, safe: assumption 89) -/
def execProgVerifyDone (s : State) : Host.Outcome State Fault Refusal :=
  done s (if !s.progBusy then s
    else
      let s := s.progChecked
      match unitInfo SCARAB.base with
      | none => s
      | some i =>
        if s.ownCur i.base ≠ svcUpdating then s
        else if s.g SCARAB.PROG_STAT.RESULT ≠ 1 then s.failUnit i.base 7
        else
          let t := s.svcTag i.base
          (if t / 4 = 3 then s.svcActivate i (t % 4) else s).svcPump)

/-- A write of `HIVE.MIGRATE`: TIMEOUT_MS, and DONE from the supervisor (R360). (DEDUCED, unsafe: assumption 28) (DEDUCED, unsafe: assumption 51) -/
def State.migrateWrite (s : State) (actor h : Nat) (v : Word) : State :=
  let s := s.p (HIVE.MIGRATE.TIMEOUT_MS h) (getF v 31 16)
  if getF v 0 0 = 0 then s
  else if actor ≠ thActor (supervisor h) then s.evtErr (HIVE.base h)
  else if s.ownCur (HIVE.base h) ≠ svcQuiescing then s
  else (s.modHv h (fun x => { x with done := true })).pb (HIVE.MIGRATE.PENDING h) false

def execMigrateDone (actor h : Nat) (v : Word) (s : State) : Host.Outcome State Fault Refusal :=
  act s actor (if 12 ≤ h then s else s.gated actor (HIVE.MIGRATE.reg h) (fun s => s.migrateWrite actor h (v ||| 1)))

/-- The forced release of R360: held packets, intake, threads. (DEDUCED, unsafe: assumption 51) -/
def State.forceRelease (s : State) (h : Nat) : State :=
  let l := (s.hv h).held.filterMap s.byHandle
  let s := (l.foldl (fun s d => s.discard d) s).addSat (HIVE.HELD.FORCED h) l.length
  let s := s.p (HIVE.INTAKE_IDX.CONS h) (s.g (HIVE.INTAKE_IDX.PROD h))
  ((List.range 64).foldl (fun s k => s.resetTh (h * 64 + k)) s).evt (HIVE.base h) 13

def execMigrateTimeout (h : Nat) (s : State) : Host.Outcome State Fault Refusal :=
  onInfo s (HIVE.base h) (fun i =>
    if i.type ≠ .hive ∨ s.ownCur i.base ≠ svcQuiescing ∨ !s.unitBusy i ∨
      s.edryn.clk < (s.hv h).quiClk + s.g (HIVE.MIGRATE.TIMEOUT_MS h) * msClk then s
    else ((s.forceRelease h).quiesced i).svcPump)

/-! Events and faults. -/

/-- A write to `UNIT_EVT`: common bits clear in the whole subtree, the unit's own bits in the unit (R47). -/
def State.evtClear (s : State) (u : Nat) (v : Word) : State :=
  let clear (s : State) (a : Nat) (m : Word) : State := s.setReg (UNIT.EVT.reg a) (s.reg (UNIT.EVT.reg a) &&& ~~~ m)
  ((subtree u).drop 1).foldl (fun s c => clear s c (v &&& 0xFF)) (clear s u v)

/-- A write to a unit's header: only Chitin's permission stands before it (R38, R58, R432). -/
def State.headerWrite (s : State) (actor : Nat) (i : UnitInfo) (f : State → State) : State :=
  if s.permits actor i.type then f s else s.evtErr i.base

def execEvtClear (actor unit : Nat) (v : Word) (s : State) : Host.Outcome State Fault Refusal :=
  actInfo s actor unit (fun i => s.headerWrite actor i (fun s => s.evtClear unit v))

/-- A write of CLEAR to `UNIT_FAULT`. -/
def State.faultClear (s : State) (u : Nat) : State :=
  ((s.p (UNIT.FAULT.CODE u) 0).p (UNIT.FAULT.COUNT u) 0).p (UNIT.FAULT.SRC u) 0

def execFaultClear (actor unit : Nat) (s : State) : Host.Outcome State Fault Refusal :=
  actInfo s actor unit (fun i => s.headerWrite actor i (fun s => s.faultClear unit))

/-- A write to `DEV_EVT` of a link; REARM signals the vector again while the condition holds (R123). -/
def State.devEvtWrite (s : State) (l : Nat) (v : Word) : State :=
  let s := (s.p (HOSTLINK.DEV_EVT.VECTOR l) (getF v 10 0)).p (HOSTLINK.DEV_EVT.EN l) (getF v 12 12)
  if getF v 13 13 = 1 && s.devCond && s.gb (HOSTLINK.DEV_EVT.EN l) then s.signal l (s.g (HOSTLINK.DEV_EVT.VECTOR l)) else s

def execDevEvtRearm (actor l : Nat) (v : Word) (s : State) : Host.Outcome State Fault Refusal :=
  act s actor (if 4 ≤ l then s
    else s.gated actor (HOSTLINK.DEV_EVT.reg l) (fun s => s.devEvtWrite l (putF v 13 13 1)))

end Sys2Proof.Machine
end

