-- ==== Sys2Proof/Machine/Hive.lean ====
section
/-! DEFINITION. Hive threads as a Hive's registers and the debugger command them: start and reset (R349, R362),
timers (R369), stall detection (R352), halt and resume (R355, R437). -/

namespace Sys2Proof.Machine

/-- Whether a thread exists. -/
def thOk (t : Nat) : Bool := decide (t < 768)

/-- A RESET takes effect at once, or when the access that the thread waits for completes (R378). -/
def State.askReset (s : State) (t : Nat) : State :=
  if (s.th t).state = thWait then s.modTh t (fun v => { v with later := 1 }) else s.resetTh t

/-- A command of `THREAD_CTL` on a thread: its status and effect. (DESIGN CHOICE, unsafe: assumption 52) -/
def State.threadCmd (s : State) (actor t op entry : Nat) : Nat × State :=
  if isThread actor && !s.secure actor && s.secThread t then (stMalformed, s)
  else match op with
  | 1 => if (s.th t).state ≠ thOff then (stBusy, s)
         else if entry % 4 ≠ 0 then (stMalformed, s)
         else (stOk, s.startTh t entry)
  | 2 => (stOk, s.askReset t)
  | _ => (stMalformed, s)

/-- Whether `THREAD_CTL` of a Hive accepts commands from an actor: its supervisor, secure threads, and actors
that Chitin permits. (DEDUCED, unsafe: assumption 28) -/
def State.threadActor (s : State) (actor h : Nat) : Bool :=
  actor == thActor (supervisor h) || (isThread actor && s.secure actor) || s.permits actor .hive

/-- A write of `THREAD_CTL` of Hive h. -/
def State.threadCtl (s : State) (actor h th op entry : Nat) : State :=
  if s.domDown (14 + h) then s.inc ROOT.DROPPED_WRITES.COUNT
  else if !s.threadActor actor h then s.evtErr (HIVE.base h)
  else if !s.claimAllows (UNIT.CLAIM.reg (HIVE.base h)) actor then s.evtConflict (HIVE.base h)
  else
    let x := s.threadCmd actor (h * 64 + th % 64) op entry
    x.2.p (HIVE.THREAD_CTL.STATUS h) x.1

def execThreadStart (actor th entry : Nat) (s : State) : Host.Outcome State Fault Refusal :=
  act s actor (if thOk th then s.threadCtl actor (th / 64) th 1 (entry % 2 ^ 19) else s)
def execThreadReset (actor th : Nat) (s : State) : Host.Outcome State Fault Refusal :=
  act s actor (if thOk th then s.threadCtl actor (th / 64) th 2 0 else s)

/-- Edryn time reaches a thread's deadline. -/
def execThreadTimer (th : Nat) (s : State) : Host.Outcome State Fault Refusal :=
  done s (if thOk th && (s.th th).timer != 0 && decide ((s.th th).timer ≤ s.ns) then s.timerFire th else s)

/-- 4,096 QCLK cycles without a thread that runs or can be woken from outside. -/
def execHiveStall (h : Nat) (s : State) : Host.Outcome State Fault Refusal :=
  done s (if 12 ≤ h || !s.domUp (14 + h) || (s.hv h).stalled || !s.stallNow h ||
      decide (s.edryn.clk < s.stallSince h + cyc 2048) then s
    else
      let s := ((s.modHv h (fun v => { v with stalled := true })).inc (HIVE.STALL.COUNT h)).evt (HIVE.base h) 8
      s.thEvent (supervisor h) evStall)

/-! The debugger. -/

/-- A refused JTAG access: zeros, and DENIED in DEBUG (R437). -/
def State.jtagDenied (s : State) : State := (s.emit (.jtag 0)).evt DEBUG.base 8

/-- Whether the debugger may halt and resume a thread. (DEDUCED, unsafe: assumption 53) -/
def State.debugs (s : State) (t : Nat) : Bool :=
  bit (s.chitin 5) 0 && (if s.secThread t then bit (s.chitin 5) 2 else bit (s.chitin 5) 1)

/-- A halt of a thread: a thread in WAIT halts before its next instruction (R378). (DEDUCED, unsafe: assumption 53) -/
def State.halt (s : State) (t : Nat) : State :=
  if !s.debugs t then s.jtagDenied
  else
    let st := (s.th t).state
    if st = thRun ∨ st = thWfe then s.setThState t thHalted
    else if st = thWait then s.modTh t (fun v => { v with later := if v.later = 1 then 1 else 2 })
    else s

/-- (DEDUCED, unsafe: assumption 53) -/
def State.resume (s : State) (t : Nat) : State :=
  if !s.debugs t then s.jtagDenied
  else if (s.th t).state = thHalted then s.setThState t thRun
  else s

def execDebugHalt (threads : List Nat) (s : State) : Host.Outcome State Fault Refusal :=
  done s ((threads.filter thOk).foldl State.halt s)
def execDebugResume (threads : List Nat) (s : State) : Host.Outcome State Fault Refusal :=
  done s ((threads.filter thOk).foldl State.resume s)

end Sys2Proof.Machine
end

