-- ==== Sys2Proof/Machine/Inst.lean ====
section
/-! DEFINITION. Instances (R138–R160): their ranges, CREATE and SET_SHARES, RESET and DESTROY by drain or
squash, and the tables of INST and of the interrupt entries (R124, R143). -/

namespace Sys2Proof.Machine

/-! Pools (R138, R139). -/

/-- The allocated ranges of one kind, base and number, by the two fields that hold them. -/
def State.ranges (s : State) (base n : RF) : List (Nat × Nat) :=
  (s.inst.filter (fun e => rget e.2 IR.state != 0 && rget e.2 n != 0)).map (fun e => (rget e.2 base, rget e.2 n))

def rangeFree (used : List (Nat × Nat)) (pool a n : Nat) : Bool :=
  decide (a + n ≤ pool) && used.all (fun u => decide (a + n ≤ u.1) || decide (u.1 + u.2 ≤ a))

/-- The lowest base at which a range fits. (DESIGN CHOICE, unsafe: assumption 155) -/
def lowestBase (used : List (Nat × Nat)) (pool n : Nat) : Option Nat :=
  if n = 0 then some 0
  else (0 :: used.map (fun u => u.1 + u.2)).foldl (fun b a =>
    if rangeFree used pool a n then match b with
      | none => some a
      | some x => some (min x a)
    else b) none

/-- FREE and LARGEST of a pool. -/
def poolFigures (used : List (Nat × Nat)) (pool : Nat) : Nat × Nat :=
  let gap (a : Nat) : Nat :=
    if used.any (fun u => decide (u.1 ≤ a) && decide (a < u.1 + u.2)) then 0
    else used.foldl (fun m u => if a ≤ u.1 then min m (u.1 - a) else m) (pool - a)
  (pool - used.foldl (fun a u => a + u.2) 0, ((0 :: used.map (fun u => u.1 + u.2)).map gap).foldl max 0)

def wqPool : Nat := 131072
def crPool : Nat := 65536
def intPool : Nat := 16384
def leafPool : Nat := 65536

/-! CREATE (R144) and SET_SHARES (R146). -/

/-- A share or quota of a staged record, with its largest value. -/
def quotas : List (RF × Nat) :=
  [(IR.combLimit, 393216), (IR.flowQuota, 4194304), (IR.keyQuota, 1048576), (IR.beelineQuota, 262144),
   (IR.policerQuota, 65536), (IR.encapQuota, 65536), (IR.nsQuota, 8192), (IR.connQuota, 4096)]
def quotaUse : List (RF × RF) :=
  [(IR.flowQuota, IR.flowUsed), (IR.keyQuota, IR.keyUsed), (IR.beelineQuota, IR.beelineUsed),
   (IR.policerQuota, IR.policerUsed), (IR.encapQuota, IR.encapUsed), (IR.nsQuota, IR.nsUsed),
   (IR.connQuota, IR.connUsed)]
def quotasOk (r : BitVec 1024) : Bool := quotas.all (fun q => decide (rget r q.1 ≤ q.2))
/-- Fields that a staged record gives to chunk 0. -/
def bindFields : List RF := [IR.link, IR.pasidEn, IR.atsEn, IR.pasid, IR.nwq, IR.ncr, IR.nint, IR.nleaf]

def State.staged (s : State) (i : Nat) : BitVec 1024 := tget 0 s.instStaged i

/-- Whether a staged record is in the ranges of the resource table and of the links. (DESIGN CHOICE, unsafe: assumption 155) -/
def State.createOk (s : State) (r : BitVec 1024) : Bool :=
  decide (1 ≤ rget r IR.nwq) && decide (rget r IR.nwq ≤ 4096) && decide (1 ≤ rget r IR.ncr) &&
  decide (rget r IR.ncr ≤ 2048) && decide (rget r IR.nint ≤ 2048) && decide (1 ≤ rget r IR.nleaf) &&
  decide (rget r IR.nleaf ≤ 4096) && quotasOk r && s.fitted (rget r IR.link) &&
  !(rget r IR.atsEn == 1 && rget r IR.pasidEn == 0)

/-- Rings as a ring RESET leaves them, and interrupt entries without PEND (R144, R157). -/
def State.freshRings (s : State) (i : Nat) : State :=
  let s := (s.instWqs i).foldl (fun s w => s.resetWq w) s
  (s.instCrs i).foldl (fun s c => s.resetCr c) s
/-- Interrupt entries of an instance. -/
def State.instInts (s : State) (i : Nat) : List Nat :=
  (List.range (s.ri i IR.nint)).map (fun k => s.ri i IR.intBase + k)
def State.clearInts (s : State) (i : Nat) (f : RF) : State :=
  (s.instInts i).foldl (fun s e => s.setInt e (rput (s.intEntry e) f 0)) s

/-- An instance is created from its staged record: the status, and the state after. -/
def State.create (s : State) (i : Nat) : Nat × State :=
  let r := s.staged i
  if s.instState i ≠ 0 then (stBusy, s)
  else if !s.createOk r then (stMalformed, s)
  else match lowestBase (s.ranges IR.wqBase IR.nwq) wqPool (rget r IR.nwq),
    lowestBase (s.ranges IR.crBase IR.ncr) crPool (rget r IR.ncr),
    lowestBase (s.ranges IR.intBase IR.nint) intPool (rget r IR.nint),
    lowestBase (s.ranges IR.leafBase IR.nleaf) leafPool (rget r IR.nleaf) with
  | some w, some c, some n, some f =>
    let z : BitVec 1536 := 0
    let z := bindFields.foldl (fun z k => rput z k (rget r k)) z
    let z := quotas.foldl (fun z q => rput z q.1 (rget r q.1)) z
    let z := rput (rput (rput (rput z IR.wqBase w) IR.crBase c) IR.intBase n) IR.leafBase f
    let z := rput (rput z IR.created s.ns) IR.state 1
    let s : State := { s with inst := tset 0 s.inst i z }
    (stOk, (((s.freshRings i).clearInts i IE.valid).zeroLeaves f (rget r IR.nleaf)).chEmpty i)
  | _, _, _, _ => (stBusy, s)

def State.setShares (s : State) (i : Nat) : Nat × State :=
  let r := s.staged i
  let st := s.instState i
  if st = 0 ∨ st = 3 then (stBusy, s)
  else if !quotasOk r then (stMalformed, s)
  else if quotaUse.any (fun q => decide (rget r q.1 < s.ri i q.2)) then (stBusy, s)
  else (stOk, quotas.foldl (fun s q => s.wi i q.1 (rget r q.1)) s)

/-! Squash (R156). -/

/-- Work removed without a completion. -/
def State.countSquash (s : State) (i : Nat) : State := s.satRef i IR.squashed 1

/-- A packet descriptor at a packet boundary. -/
def Desc.onWire (v : Desc) : Bool := match v.place with
  | .wire _ => true
  | _ => false

/-- Whether a packet's transmission has begun, or the hold for its launch (R282). -/
def State.begun (s : State) (d : Nat) : Bool :=
  let v := s.desc d
  v.onWire || (v.place == .beeline && v.dk == 2 && tget false s.blHold v.dest && s.inHold v.dest d)

/-- A packet removed by a squash with what it waits for. -/
def State.dropPkt (s : State) (d : Nat) : State :=
  match (s.desc d).op with
  | some o => (s.endOp o).releaseDesc d
  | none => s.releaseDesc d

/-- A started NET_TX entry under a squash: its copies go, but for those that have begun to leave (R156, R282). With none
of these the entry completes SQUASHED; else it completes as they do, and the copies removed are counted. (DEDUCED, unsafe: assumption 140) -/
def State.squashTx (s : State) (w index k : Nat) : State :=
  let ds := (s.descs.filter (fun e => e.2.pkt == k)).map Prod.fst
  let go := ds.filter (fun d => !s.begun d)
  if ds.isEmpty then
    -- the frame is still being read, or the packet is gone
    ((s.leaveBeeline k).freePkt k).completeEnt w index stSquashed 0 [] []
  else if go.length = ds.length then
    (ds.foldl (fun s d => s.dropPkt d) (s.txComplete k stSquashed 0 s.ns 0 (s.desc (ds.headD 0)).ver 0))
  else
    go.foldl (fun s d =>
      let s := if (s.desc d).main then
          s.modPkt k (fun p => { p with work := p.work.map (fun w => { w with left := w.left - 1 }) }) else s
      (s.dropPkt d).satRef (s.wqInst w) IR.squashed 1) s

/-- A fetched entry of a WQ under a squash; those of STOR, the Forager and Scarab end with their unit. -/
def State.squashEnt (s : State) (w : Nat) (e : Ent) : State :=
  if e.phase < 3 then s.completeEnt w e.index stSquashed 0 [] []
  else match s.wqg w WQ.type with
    | 0 => s.squashTx w e.index e.data
    | 4 => if s.sops.any (fun o => decide (o.2.use = .entry w e.index)) then s
           else s.completeEnt w e.index stSquashed 0 [] []
    | 5 => s.completeEnt w e.index stSquashed 0 [] []
    | _ => s

/-- Every engine ends an instance's work at its next boundary. -/
def State.squashInst (s : State) (i : Nat) : State :=
  let s : State := { s with cellWait := s.cellWait.filter (fun c => s.wqInst c.wq != i) }
  let s := (s.instWqs i).foldl (fun s w => (s.wqa w).ents.foldl (fun s e => s.squashEnt w e) s) s
  let s := (s.storSquash i).foragerSquash i
  let s := s.failOps (fun o => match o.use with
    | .entry w _ => s.wqInst w == i
    | .part _ => false
    | .inline d => o.inst == i || (s.desc d).inst == i
    | .call _ => false) stSquashed
  -- timed packets of its entries that are complete already
  let old := (s.descs.filter (fun e => e.2.waitsTimed && !s.begun e.1 &&
    (match e.2.txq with
      | some q => s.wqInst q.1 == i
      | none => false) && (s.pkt e.2.pkt).work.isNone)).map Prod.fst
  let s := old.foldl (fun s d => (s.dropPkt d).countSquash i) s
  -- packets in the Comb destined for it, and packets that a Hive holds of it
  let mine := (s.descs.filter (fun e => (e.2.dk == 1 && e.2.dest == i && (match e.2.place with
    | .queue _ => true
    | .adm _ => true
    | _ => false)) || (e.2.inst == i && (match e.2.place with
    | .held _ => true
    | _ => false)))).map Prod.fst
  let s := mine.foldl (fun s d => (s.discard d).countSquash i) s
  let open_ := tget 0 s.chOpen i
  ((State.subRef { s with chOpen := tset 0 s.chOpen i 0 } i IR.refHive open_).satRef i IR.squashed open_).syncBee

/-! The end of RESET and DESTROY (R157). -/

/-- Every count of chunk 2 except NAMED. -/
def refFields : List RF :=
  [IR.refRing, IR.refComb, IR.refScarab, IR.refForager, IR.refStor, IR.refHive, IR.refBeeline]
def State.refsZero (s : State) (i : Nat) : Bool := refFields.all (fun f => s.ri i f == 0)

/-- What both commands leave before DONE. -/
def State.instClean (s : State) (i : Nat) : State :=
  let ks := (s.slots.filter (fun e => rget e.2 KS.state != 0 && rget e.2 KS.owner == i)).map Prod.fst
  let s := ks.foldl (fun s k => (s.eraseSlot k).freeSlot k) s
  (((s.freshRings i).clearInts i IE.pend).chEmpty i)

/-- What DESTROY frees besides. (DESIGN CHOICE, unsafe: assumption 61) -/
def State.instFree (s : State) (i : Nat) : State :=
  let fl := (s.flows.filter (fun e => ctxState e.2 != 0 && rget e.2 FC.owner == i)).map Prod.fst
  let s := fl.foldl (fun s k => s.freeCtx k) s
  let s := ((s.policers.filter (fun e => rget e.2 PO.mode != 0 && rget e.2 PO.owner == i)).map Prod.fst).foldl
    (fun s k => s.freePol k) s
  let s := ((s.templates.filter (fun e => rget e.2 TM.len != 0 && rget e.2 TM.owner == i)).map Prod.fst).foldl
    (fun s k => s.freeTm k) s
  let s := ((s.nsRec.filter (fun e => rget e.2 NS.state != 0 && rget e.2 NS.owner == i)).map Prod.fst).foldl
    (fun s k => s.freeNs k) s
  let s := ((s.connRec.filter (fun e => rget e.2 CN.state != 0 && rget e.2 CN.owner == i)).map Prod.fst).foldl
    (fun s k => s.freeConn k) s
  let s := ((s.freeRules i).clearInts i IE.valid).releaseClaims (0x100 + i)
  let s := s.zeroLeaves (s.ri i IR.leafBase) (s.ri i IR.nleaf)
  { s with inst := tset 0 s.inst i 0, page := tset TimePage.reset s.page i TimePage.reset }

/-! Commands (R141, R142). -/

/-- A command starts. -/
def State.instBegin (s : State) (actor op i : Nat) : State :=
  let s := (s.p (INST.CMD_STATUS.STATE i) 1).p (INST.CMD_STATUS.OP i) op
  let s := (s.p (INST.CMD_STATUS.ACTOR i) actor).p (INST.CMD_STATUS.STATUS i) 0
  s.p (INST.CMD_STATUS.CONVERTED i) 0
/-- A command ends with its status. (DESIGN CHOICE, unsafe: assumption 61) -/
def State.instEnd (s : State) (i status : Nat) : State :=
  let s := (s.p (INST.CMD_STATUS.STATE i) 2).p (INST.CMD_STATUS.STATUS i) status
  let s := s.setReg (INST.DONE.reg (i / 64)) (s.reg (INST.DONE.reg (i / 64)) ||| BitVec.ofNat 64 (2 ^ (i % 64)))
  s.evt INST.base 8
def State.instRunning (s : State) (i : Nat) : Bool := s.g (INST.CMD_STATUS.STATE i) == 1
/-- A command refused under R142. -/
def State.instRefuse (s : State) (actor i : Nat) : State :=
  let s := (s.p INST.CMD_REFUSED.INSTANCE i).p INST.CMD_REFUSED.STATUS stBusy
  (s.p INST.CMD_REFUSED.ACTOR actor).evtErr INST.base

def State.instCmdOf (s : State) (i : Nat) : InstCmd := tget InstCmd.none s.instCmd i
def State.setInstCmd (s : State) (i : Nat) (c : InstCmd) : State :=
  { s with instCmd := tset InstCmd.none s.instCmd i c }

/-- A RESET or DESTROY is accepted (R154, R155): op 2 or 3. -/
def State.instTake (s : State) (op mode i us : Nat) : State :=
  let sq := mode == 1 || us == 0
  let s := (s.instWqs i).foldl (fun s w => s.dropGrant w) ((s.wi i IR.state op).setInstCmd i ⟨sq, s.ns + us * 1000⟩)
  if sq then s.squashInst i else s

/-- A DESTROY replaces the RESET of an instance in RESETTING. -/
def State.instReplace (s : State) (actor mode i us : Nat) : State :=
  let c := s.instCmdOf i
  let sq := c.squash || mode == 1 || us == 0
  let s := (s.instBegin actor 3 i).wi i IR.state 3
  let s := s.setInstCmd i ⟨sq, min c.deadline (s.ns + us * 1000)⟩
  if sq && !c.squash then s.squashInst i else s

/-- A write to `INST.CMD` that Chitin permits. (DEDUCED, unsafe: assumption 60) -/
def State.instWrite (s : State) (actor op mode i us : Nat) : State :=
  if s.instRunning i then
    if op = 3 ∧ mode < 2 ∧ s.instState i = 2 ∧ s.named i = 0 then s.instReplace actor mode i us
    else s.instRefuse actor i
  else
    let s := s.instBegin actor op i
    match op with
    | 1 => let x := s.create i
           x.2.instEnd i x.1
    | 4 => let x := s.setShares i
           x.2.instEnd i x.1
    | 2 => if 2 ≤ mode then s.instEnd i stMalformed else if s.instState i = 0 then s.instEnd i stBusy
           else s.instTake 2 mode i us
    | 3 => if 2 ≤ mode then s.instEnd i stMalformed
           else if s.instState i = 0 ∨ s.named i ≠ 0 then s.instEnd i stBusy
           else s.instTake 3 mode i us
    | _ => s.instEnd i stMalformed

/-- (DEDUCED, unsafe: assumption 60) -/
def State.instCommand (s : State) (actor op mode i us : Nat) : State :=
  if 2048 ≤ i then s else s.gated actor INST.CMD.reg (fun s => s.instWrite actor op (mode % 4) i (us % 2 ^ 32))

def execInstCreate (actor i : Nat) (s : State) : Host.Outcome State Fault Refusal :=
  act s actor (s.instCommand actor 1 0 i 0)
def execInstSetShares (actor i : Nat) (s : State) : Host.Outcome State Fault Refusal :=
  act s actor (s.instCommand actor 4 0 i 0)
def execInstReset (actor i mode us : Nat) (s : State) : Host.Outcome State Fault Refusal :=
  act s actor (s.instCommand actor 2 mode i us)
def execInstDestroy (actor i mode us : Nat) (s : State) : Host.Outcome State Fault Refusal :=
  act s actor (s.instCommand actor 3 mode i us)

/-! Conversion (R155). -/

/-- Whether a descriptor is a timed packet whose launch lies after an instant. -/
def Desc.launchAfter (v : Desc) (t : Nat) : Bool := v.waitsTimed && decide (t < v.launch.getD 0)

/-- Whether a fetched entry can wait for nothing that comes before the deadline: an empty NET_RX entry, or a
timed one of NET_TX that has started and whose launch lies after it. -/
def State.entStuck (s : State) (w : Nat) (e : Ent) (t : Nat) : Bool :=
  s.wqg w WQ.type == 1 || (s.wqg w WQ.type == 0 && decide (3 ≤ e.phase) && rget e.raw EN.timed == 1 && decide (t < rget e.raw TX.launch))

/-- Whether a packet's cells count as stuck for an instance. -/
def State.pktStuck (s : State) (i : Nat) (k : Nat) (p : Pkt) (t : Nat) : Bool :=
  let ds := s.descs.filter (fun e => e.2.pkt == k)
  (!(p.sender == some i) && !p.dests.contains i) ||
  ds.all (fun e => e.2.launchAfter t ||
    (e.2.dk == 1 && e.2.dest == i && (match e.2.place with
      | .queue _ => (s.wqa (s.rxWq e.2)).ents.isEmpty
      | _ => false)) || !(p.sender == some i || (e.2.dk == 1 && e.2.dest == i))) &&
    (!ds.isEmpty || (match p.work with
      | some w => decide (t < rget (s.workEnt w) TX.launch) && rget (s.workEnt w) EN.timed == 1
      | none => false))

/-- Whether entries of an instance are being fetched. -/
def State.fetching (s : State) (i : Nat) : Bool := s.jobs.any (fun j => match j.2.use with
  | .fetch w _ _ => s.wqInst w == i
  | _ => false)

/-- The first instant at which only stuck references remain. -/
def State.drainStuck (s : State) (i t : Nat) : Bool :=
  !s.refsZero i && !s.fetching i && s.ri i IR.refForager == 0 && s.ri i IR.refStor == 0 && s.ri i IR.refHive == 0 &&
  s.sops.all (fun o => o.2.inst != i || (match o.2.use with
    | .inline d => (s.desc d).launchAfter t
    | _ => false)) &&
  (s.instWqs i).all (fun w => (s.wqa w).ents.all (fun e => s.entStuck w e t)) &&
  s.pkts.all (fun e => s.pktStuck i e.1 e.2 t)

/-- DRAIN_CONVERT: the deadline, or nothing left that could end before it. -/
def execDrainConvert (i : Nat) (s : State) : Host.Outcome State Fault Refusal :=
  let c := s.instCmdOf i
  done s (if s.instState i < 2 ∨ 2048 ≤ i ∨ c.squash ∨ s.refsZero i ∨ (s.ns < c.deadline ∧ !s.drainStuck i c.deadline) then s
    else (((s.setInstCmd i { c with squash := true }).pb (INST.CMD_STATUS.CONVERTED i) true).evt INST.base 10).squashInst i)

/-- INST_CMD_DONE: every count except NAMED is 0, and nothing owed is held (R157, R159). -/
def execInstCmdDone (i : Nat) (s : State) : Host.Outcome State Fault Refusal :=
  done s (if s.instState i < 2 ∨ 2048 ≤ i ∨ !s.refsZero i ∨ (s.link (s.linkOf i)).held.any (fun p => p.inst == i) then s
    else
      let op := s.instState i
      let s := (s.instClean i).setInstCmd i InstCmd.none
      let s := if op = 2 then s.wi i IR.state 1 else s.instFree i
      s.instEnd i stOk)

/-! Tables: instance records (R143) and interrupt entries (R124). -/

def State.tapInst (s : State) (op : TapOp) (t i c : Nat) (d : BitVec 512) : TapRes :=
  if t ≠ 0 ∨ 2048 ≤ i ∨ 3 ≤ c then TapRes.bad s
  else match op with
  | .read => TapRes.val s (chunkOf (rput (s.instRec i) IR.refNamed (s.named i)) c)
  | .stage => if c = 2 then TapRes.bad s
    else TapRes.of { s with instStaged := tset 0 s.instStaged i (putChunk (s.staged i) c d) } stOk
  | _ => TapRes.bad s

/-- MASK of an entry is written 0 (R125); a raise that follows and signals under AUTOMASK of a CR of the entry sets it
again (R177). (DESIGN CHOICE, unsafe: assumption 155) -/
def State.unmask (s : State) (e : Nat) : State :=
  if rget (s.intEntry e) IE.mask = 0 then s
  else
    let (sent, s) := (s.setInt e (rput (s.intEntry e) IE.mask 0)).maskCleared e
    let i := rget (s.intEntry e) IE.inst
    if sent && (s.instCrs i).any (fun c => s.ri i IR.intBase + s.crg c CR.int == e && s.crg c CR.automask == 1)
    then s.setInt e (rput (s.intEntry e) IE.mask 1) else s

def State.tapHostif (s : State) (op : TapOp) (t i c : Nat) (d : BitVec 512) : TapRes :=
  if t ≠ 0 ∨ intPool ≤ i ∨ c ≠ 0 then TapRes.bad s
  else
    let old := s.intEntry i
    match op with
    | .read => TapRes.val s (BitVec.ofNat 512 old.toNat)
    | .write =>
      let v : Word := BitVec.ofNat 64 (getF d 63 0)
      let w := [IE.vector, IE.inst, IE.valid].foldl (fun w f => rput w f (rget v f)) old
      TapRes.of (if rget v IE.mask = 0 then (s.setInt i w).unmask i else s.setInt i (rput w IE.mask 1)) stOk
    | .invalidate => TapRes.of (s.setInt i (rput old IE.valid 0)) stOk
    | .stage => TapRes.bad s

end Sys2Proof.Machine
end

