-- ==== Sys2Proof/Machine/Tap.lean ====
section
/-! DEFINITION. The table access port: its binding (R55), its commands (R56) under claims (R58) and Chitin's
permissions (R432), and the tables of RING (R178), EDRYN (R84), PWR (R398), CHITIN (R431, R435), KEEPER (R424,
R428) and HIVE (R351, R360). -/

namespace Sys2Proof.Machine

/-! Tables of RING (R178). -/

def wqRw : List RF := [WQ.base, WQ.log2, WQ.type, WQ.cr, WQ.cshEn, WQ.cshadow]
def crRw : List RF :=
  [CR.base, CR.log2, CR.ext, CR.automask, CR.intMode, CR.int, CR.coalCount, CR.pshadow, CR.coalNs]

/-- A context with the fields that software writes taken from a chunk. (DESIGN CHOICE, unsafe: assumption 66) -/
def mergeRec (fs : List RF) (old d : BitVec 512) : BitVec 512 := fs.foldl (fun r f => rput r f (rget d f)) old

/-- (DESIGN CHOICE, unsafe: assumption 66) -/
def State.tapRing (s : State) (actor : Nat) (op : TapOp) (t i c : Nat) (d : BitVec 512) : TapRes :=
  if c ≠ 0 then TapRes.bad s
  else match t, op with
  | 0, .read => if i < wqPool then TapRes.val s (s.wqRec i) else TapRes.bad s
  | 1, .read => if i < crPool then TapRes.val s (s.crRec i) else TapRes.bad s
  | 0, .write =>
    if wqPool ≤ i ∨ !s.instActive (s.wqInst i) ∨ s.wqState i ≠ rIdle then TapRes.bad s
    else TapRes.of { s with wq := tset 0 s.wq i (rput (mergeRec wqRw (s.wqRec i) d) WQ.writer actor) } stOk
  | 1, .write =>
    if crPool ≤ i ∨ !s.instActive (s.crInst i) ∨ s.crState i ≠ rIdle then TapRes.bad s
    else TapRes.of { s with cr := tset 0 s.cr i (mergeRec crRw (s.crRec i) d) } stOk
  | _, _ => TapRes.bad s

/-! Tables of units in AON. -/

/-- EDRYN: the evidence records, READ only (R84). -/
def State.tapEdryn (s : State) (op : TapOp) (t i c : Nat) : TapRes :=
  if t ≠ 0 ∨ 64 ≤ i ∨ 4 ≤ c ∨ op ≠ .read then TapRes.bad s
  else TapRes.val s (chunkOf (tget 0 s.edryn.ev i) c)

/-- PWR: the vote slots, READ only (R398). -/
def State.tapPwr (s : State) (op : TapOp) (t i c : Nat) : TapRes :=
  if t ≠ 0 ∨ 26 * 32 ≤ i ∨ c ≠ 0 ∨ op ≠ .read then TapRes.bad s
  else
    let v := s.vote (i / 32) (i % 32)
    TapRes.val s (BitVec.ofNat 512 (v.value + v.actor * 2 ^ 16 + v.ns * 2 ^ 64))

/-- CHITIN: Party H's staged change record (R435), and the words, READ only (R431). (DESIGN CHOICE, unsafe: assumption 69) -/
def State.tapChitin (s : State) (op : TapOp) (t i c : Nat) (d : BitVec 512) : TapRes :=
  match t, op with
  | 0, .stage =>
    if i ≠ 0 ∨ 14 ≤ c then TapRes.bad s
    else TapRes.of (s.modTrust (fun x => { x with stagedH := tset 0 x.stagedH c d })) stOk
  | 1, .read => if 17 ≤ i ∨ c ≠ 0 then TapRes.bad s else TapRes.val s (BitVec.ofNat 512 (s.chitin i))
  | _, _ => TapRes.bad s

/-- Blocks of an image of at most 64 MiB (R422). -/
def imageBlocks : Nat := 2 ^ 20

/-- KEEPER: the measurement log, READ only (R428), and the image that recovery or UPDATING accepts (R424, R426). (DESIGN CHOICE, unsafe: assumption 69) -/
def State.tapKeeper (s : State) (op : TapOp) (t i c : Nat) (d : BitVec 512) : TapRes :=
  if c ≠ 0 then TapRes.bad s
  else match t, op with
  | 0, .read => if 1024 ≤ i then TapRes.bad s else TapRes.val s (tget 0 s.trust.log i)
  | 1, .stage =>
    if imageBlocks ≤ i ∨ (s.trust.phase ≠ 3 ∧ s.ownCur KEEPER.base ≠ svcUpdating) then TapRes.bad s
    else TapRes.of (s.modKeeperImage 0 (tins i d s.trust.image)) stOk
  | _, _ => TapRes.bad s

/-! HIVE (R351, R360). -/

/-- (DESIGN CHOICE, unsafe: assumption 69) -/
def State.tapHive (s : State) (h : Nat) (op : TapOp) (t i c : Nat) (d : BitVec 512) : TapRes :=
  if c ≠ 0 then TapRes.bad s
  else match t, op with
  | 0, .stage =>
    if 65536 ≤ i ∨ s.ownCur (HIVE.base h) ≠ svcUpdating then TapRes.bad s
    else TapRes.of (s.modHv h (fun v => { v with staged := tins i d v.staged, checked := 0 })) stOk
  | 1, .read => if 256 ≤ i then TapRes.bad s else TapRes.val s (BitVec.ofNat 512 (s.hch h i).toNat)
  | 1, .write =>
    let w := bits d.toNat 6 0 + 256 * bits d.toNat 9 8
    if 256 ≤ i ∨ bits d.toNat 9 8 = 3 then TapRes.bad s
    else if s.msgs h i ≠ [] then TapRes.of s stBusy
    else
      let s : State := { s with hchan := tset 0 s.hchan (h * 256 + i) (BitVec.ofNat 64 w) }
      TapRes.of (s.modHv h (fun v => { v with cfgClk := s.edryn.clk })) stOk
  | _, _ => TapRes.bad s

/-! The dispatch of a command (R56, R58). -/

/-- The command on the unit that has the table. -/
def State.tapOn (s : State) (actor : Nat) (u : UnitInfo) (op : TapOp) (t i c : Nat) (d : BitVec 512) : TapRes :=
  match u.type with
  | .hostif => s.tapHostif op t i c d
  | .inst => s.tapInst op t i c d
  | .ring => s.tapRing actor op t i c d
  | .parse => s.tapParse op t i c d
  | .class => s.tapClass actor op t i c d
  | .flow => s.tapFlow actor op t i c d
  | .comb => s.tapComb op t i c d
  | .sched => s.tapSched s.polRefs op t i c d
  | .scarab => s.tapScarab actor op t i c d
  | .stor => s.tapStor actor op t i c d
  | .forager => s.tapForager actor op t i c d
  | .edryn => s.tapEdryn op t i c
  | .pwr => s.tapPwr op t i c
  | .chitin => s.tapChitin op t i c d
  | .fwc => if c = 0 then s.tapFwc op t i d else TapRes.bad s
  | .keeper => s.tapKeeper op t i c d
  | .hive => s.tapHive u.inst op t i c d
  | _ => TapRes.bad s

/-- Whether a unit's claim covers a command: not a READ, nor a table whose records follow claims of their own
(R58, R252, R329). -/
def tapClaimed (u : UnitInfo) (op : TapOp) (t : Nat) : Bool :=
  op != .read && !(u.type == .forager && t == 0) && !(u.type == .comb && t == 3)

/-- A command with its claim check, as the port and CONTROL entries perform it. -/
def State.tapDo (s : State) (actor : Nat) (u : UnitInfo) (op : TapOp) (t i c : Nat) (d : BitVec 512) : TapRes :=
  if !hasTap u.type then TapRes.bad s
  else if tapClaimed u op t && !s.claimAllows (UNIT.CLAIM.reg u.base) actor then
    ⟨stConflict, 0, s.evtConflict u.base⟩
  else s.tapOn actor u op t i c d

/-! The port's registers (R55). -/

def State.tapHolder (s : State) (u : Nat) : Nat := s.g (TAP.STATUS.HOLDER u)

/-- The last access of the holder, for the release after 1 ms. -/
def State.tapTouch (s : State) (u : Nat) : State := { s with tapClk := tset 0 s.tapClk u (s.ns + 1) }

/-- A write to the port: power, permission and binding; `bind` where it takes a free port. (DESIGN CHOICE, unsafe: assumption 68) -/
def State.tapPort (s : State) (actor : Nat) (u : UnitInfo) (bind : Bool) (f : State → State) : State :=
  if !hasTap u.type then s
  else if s.domDown u.dom then s.inc ROOT.DROPPED_WRITES.COUNT
  else if !s.permits actor u.type then s.evtErr u.base
  else
    let h := s.tapHolder u.base
    if h = 0 then f (if bind then (s.p (TAP.STATUS.HOLDER u.base) actor).tapTouch u.base else s)
    else if h = actor then f (s.tapTouch u.base)
    else s.evtConflict u.base

/-- The fields of `TAP_ADDR`. -/
def State.tapSetAddr (s : State) (u : Nat) (v : Word) : State :=
  ((s.p (TAP.ADDR.TABLE u) (getF v 7 0)).p (TAP.ADDR.CHUNK u) (getF v 11 8)).p (TAP.ADDR.INDEX u) (getF v 47 16)

def execTapAddrWrite (actor unit : Nat) (v : Word) (s : State) : Host.Outcome State Fault Refusal :=
  actInfo s actor unit (fun u => s.tapPort actor u true (fun s => s.tapSetAddr unit v))

def execTapDataWrite (actor unit k : Nat) (v : Word) (s : State) : Host.Outcome State Fault Refusal :=
  actInfo s actor unit (fun u => if 8 ≤ k then s else s.tapPort actor u true (fun s => s.p (TAP.DATA.DATA unit k) v.toNat))

/-- The data registers as one chunk, and a chunk into them. -/
def State.tapData (s : State) (u : Nat) : BitVec 512 :=
  packBytes 512 ((List.range 8).flatMap (fun k => recBytes (s.reg (TAP.DATA.reg u k))))
def State.tapLoad (s : State) (u : Nat) (d : BitVec 512) : State :=
  (List.range 8).foldl (fun s k => s.p (TAP.DATA.DATA u k) (getF d (64 * k + 63) (64 * k))) s

/-- The operation of a command (R56): no other code of OP is listed. -/
def tapOpOf : Nat → Option TapOp
  | 1 => some .read
  | 2 => some .write
  | 3 => some .stage
  | 4 => some .invalidate
  | _ => none

/-- A command of the port starts, at the address and with the data that the port then holds: BUSY reads 1 until it
completes. (DEDUCED, unsafe: assumption 67) -/
def State.tapStart (s : State) (actor u op : Nat) : State :=
  { (s.p (TAP.STATUS.BUSY u) 1) with tapBusy := tins u ⟨actor, op, s.g (TAP.ADDR.TABLE u), s.g (TAP.ADDR.INDEX u),
      s.g (TAP.ADDR.CHUNK u), s.tapData u⟩ s.tapBusy }

/-- A command of the port acts, which gives its status: a READ loads the data registers. (DEDUCED, unsafe: assumption 67) -/
def State.tapRun (s : State) (u : UnitInfo) (b : TapBusy) : Nat × State :=
  match tapOpOf b.op with
  | none => (stMalformed, s)
  | some op =>
    let x := s.tapDo b.actor u op b.table b.index b.chunk b.data
    (x.status, if op = .read ∧ x.status = stOk then x.st.tapLoad u.base x.data else x.st)

/-- A write of an OP to `TAP_CMD`: RELEASE frees the port at once. (DESIGN CHOICE, unsafe: assumption 68) -/
def State.tapCmd (s : State) (actor : Nat) (u : UnitInfo) (op : Nat) : State :=
  s.tapPort actor u false (fun s =>
    if s.gb (TAP.STATUS.BUSY u.base) then s.evtErr u.base
    else if op = 5 then (s.p (TAP.STATUS.HOLDER u.base) 0).p (TAP.STATUS.STATUS u.base) stOk
    else s.tapStart actor u.base op)

def execTapRead (actor unit : Nat) (s : State) : Host.Outcome State Fault Refusal :=
  actInfo s actor unit (fun u => s.tapCmd actor u 1)
def execTapWrite (actor unit : Nat) (s : State) : Host.Outcome State Fault Refusal :=
  actInfo s actor unit (fun u => s.tapCmd actor u 2)
def execTapStage (actor unit : Nat) (s : State) : Host.Outcome State Fault Refusal :=
  actInfo s actor unit (fun u => s.tapCmd actor u 3)
def execTapInvalidate (actor unit : Nat) (s : State) : Host.Outcome State Fault Refusal :=
  actInfo s actor unit (fun u => s.tapCmd actor u 4)
def execTapRelease (actor unit : Nat) (s : State) : Host.Outcome State Fault Refusal :=
  actInfo s actor unit (fun u => s.tapCmd actor u 5)

/-- 1 ms of Edryn time without a command or an access of the holder (R55). (DESIGN CHOICE, unsafe: assumption 68) -/
def execTapHoldExpire (unit : Nat) (s : State) : Host.Outcome State Fault Refusal :=
  onInfo s unit (fun u =>
    if !hasTap u.type ∨ s.tapHolder unit = 0 ∨ s.gb (TAP.STATUS.BUSY unit) ∨ s.ns + 1 < tget 0 s.tapClk unit + 1_000_000
    then s else s.p (TAP.STATUS.HOLDER unit) 0)

/-- A command in progress acts and ends (R56). (DEDUCED, unsafe: assumption 67) -/
def execTapCommandComplete (unit : Nat) (s : State) : Host.Outcome State Fault Refusal :=
  onInfo s unit (fun u =>
    match s.tapBusy.find? (fun e => e.1 == unit) with
    | none => s
    | some (_, b) =>
      let x := State.tapRun { s with tapBusy := tdel s.tapBusy unit } u b
      ((x.2.p (TAP.STATUS.BUSY unit) 0).p (TAP.STATUS.STATUS unit) x.1).tapTouch unit)

end Sys2Proof.Machine
end

