-- ==== Sys2Proof/Machine/RingCmd.lean ====
section
/-! DEFINITION. RING at work: doorbells (R165, R166), the fetch of entries (R163, R168, R169), their start by
type (R170–R173, R303, R311–R315, R331, R473, R474), what their reads bring, and ring commands (R179–R182). -/

namespace Sys2Proof.Machine

/-! Doorbells. -/

/-- What follows for a CR whose reservations or free space have changed: grants, waits, aborts of stopping WQs,
and a shadow that has come due (R164, R176, R180). -/
def State.crMoved (s : State) (c : Nat) : State :=
  let s := s.crSync c
  let s := if s.shadowDue c then s.shadowWrite c else s
  (s.boundWqs c).foldl (fun s w => s.stopProgress w) s

/-- A WQ doorbell (R165), for a local WQ of an instance. (DEDUCED, unsafe: assumption 64) (DESIGN CHOICE, unsafe: assumption 156) -/
def State.wqDoorbell (s : State) (i k p : Nat) : State :=
  if s.ri i IR.nwq ≤ k then s
  else
    let w := s.ri i IR.wqBase + k
    if s.instState i ≠ 1 ∨ (s.wqState w ≠ rActive ∧ s.wqState w ≠ rWaitCr) then
      (s.wqp w WQ.droppedDb (satAdd 64 (s.wqg w WQ.droppedDb) 1)).satRef i IR.droppedDb 1
    else
      let r := s.wqg w WQ.retire
      if sub32 (s.wqg w WQ.prod) r ≤ sub32 p r ∧ sub32 p r ≤ 2 ^ s.wqg w WQ.log2 then
        (s.wqp w WQ.prod p).crSync (s.wqCr w)
      else
        let s := (s.wqp w WQ.errProd p).wqError w 0x01 r
        (if s.crg (s.wqCr w) CR.intMode = 0 then s else s.crRaise (s.wqCr w)).crMoved (s.wqCr w)

/-- A CR consumer doorbell is dropped and counted (R166). -/
def State.cdbDropped (s : State) (c : Nat) : State :=
  (s.crp c CR.droppedCdb (satAdd 32 (s.crg c CR.droppedCdb) 1)).evt RING.base 9

/-- A CR consumer doorbell (R166), for a local CR of an instance. (DESIGN CHOICE, unsafe: assumption 156) -/
def State.crDoorbell (s : State) (i k v : Nat) (unmask : Bool) : State :=
  if s.ri i IR.ncr ≤ k then s
  else
    let c := s.ri i IR.crBase + k
    if sub32 (s.crg c CR.prod) (s.crg c CR.cons) < sub32 v (s.crg c CR.cons) then s.cdbDropped c
    else
      let s := (s.crp c CR.cons v).crMoved c
      if unmask then s.unmask (s.ri i IR.intBase + s.crg c CR.int) else s

/-- A command of an instance for a ring of its own (R182). -/
def State.instRing (s : State) (i op : Nat) (cr : Bool) (k : Nat) : State :=
  let x := if s.ri i (if cr then IR.ncr else IR.nwq) ≤ k then (stMalformed, s)
    else s.ringOp op cr (s.ri i (if cr then IR.crBase else IR.wqBase) + k)
  { x.2 with icmd := tset 0 x.2.icmd i x.1 }

/-- A write to a doorbell or to `ICMD`; `hi`: a 32-bit write to bytes 4–7. -/
def State.pageApply (s : State) (i off : Nat) (wide hi : Bool) (v : Word) : State :=
  if off < 0x8000 then (if hi then s else s.wqDoorbell i (off / 8) (getF v 31 0))
  else if off < 0xC000 then
    if hi then (if s.ri i IR.ncr ≤ (off - 0x8000) / 8 then s else s.cdbDropped (s.ri i IR.crBase + (off - 0x8000) / 8))
    else s.crDoorbell i ((off - 0x8000) / 8) (getF v 31 0) (wide && getF v 32 32 == 1)
  else if hi then s
  else s.instRing i (getF v 3 0) (getF v 4 4 == 1) (getF v 27 16)

def xferPage (k : Nat) : Nat := 2 ^ 45 + k

/-- Writes held for FABRIC are applied in their order once it is up (R42). -/
def State.dbPump (s : State) : State :=
  if !s.domUp 1 then s
  else
    s.dbWait.foldl (fun s w =>
      let s := s.dropXfer 1 (xferPage w.key)
      if s.instSealed w.inst || !s.instLive w.inst then s
      else s.pageApply w.inst (w.off / 8 * 8) w.wide (w.off % 8 == 4) w.value) { s with dbWait := [] }

/-- A write to a doorbell or `ICMD` of an instance page (R42, R45, R117): a transfer into FABRIC. (DEDUCED, unsafe: assumption 64) (DESIGN CHOICE, unsafe: assumption 124) -/
def State.pageWrite (s : State) (i off : Nat) (wide : Bool) (v : Word) : State :=
  if !s.instLive i || s.instSealed i then s
  else
    let k := s.dbN + 1
    let s : State := { s with dbN := k, dbWait := s.dbWait ++ [⟨k, i, off, wide, v⟩] }
    if s.domUp 1 then (s.transfer 0 1 (xferPage k)).2.dbPump
    else if s.lockdown 1 then s
    else (s.transfer (3 + s.linkOf i / 2) 1 (xferPage k)).2

def execWqDoorbell (i w p : Nat) (s : State) : Host.Outcome State Fault Refusal :=
  done s (if 2048 ≤ i ∨ 4096 ≤ w then s else s.pageWrite i (8 * w) true (BitVec.ofNat 64 (p % 2 ^ 32)))

/-- A consumer doorbell: 64 bits, or bytes 0–3 (`hi` false) or 4–7 alone. -/
def execCrDoorbell (i c : Nat) (wide hi : Bool) (v : Word) (s : State) : Host.Outcome State Fault Refusal :=
  done s (if 2048 ≤ i ∨ 2048 ≤ c then s
    else s.pageWrite i (0x8000 + 8 * c + (if hi && !wide then 4 else 0)) wide v)

/-! Fetching (R163, R168). -/

/-- Whether RING takes new entries, and whether it runs those it has. -/
def State.ringTakes (s : State) : Bool := s.inService RING.base && s.domUp 1
def State.ringRuns (s : State) : Bool := (s.inService RING.base || s.cur RING.base == svcQuiescing) && s.domUp 1

/-- The addresses of entries of a WQ, cut where the ring wraps. -/
def State.entRanges (s : State) (w f n : Nat) : List (Nat × Nat) :=
  let sz := 2 ^ s.wqg w WQ.log2
  let k := min n (sz - f % sz)
  (s.wqg w WQ.base + 64 * (f % sz), 64 * k) :: (if k < n then [(s.wqg w WQ.base, 64 * (n - k))] else [])

/-- Reservations of entries that were not fetched are released. -/
def State.unfetch (s : State) (w n : Nat) : State :=
  let c := s.wqCr w
  (s.crp c CR.reserved (s.crg c CR.reserved - n)).subRef (s.wqInst w) IR.refRing n

/-- A failed fetch (R169): one completion, at the first entry of the read. -/
def State.fetchFail (s : State) (w f n status : Nat) : State :=
  let s := (s.unfetch w (n - 1)).wqp w WQ.fetch (i32 (f + 1))
  let s := s.wqError w (if status = stXlate then 0x11 else 0x10) f
  (s.complete w f ⟨0, status, false, 0, s.ns, [], []⟩).stopProgress w

/-- The device fetches up to `n` entries of a WQ, for slots it has reserved. (DESIGN CHOICE, unsafe: assumption 156) -/
def State.fetch (s : State) (w n : Nat) : State :=
  let c := s.wqCr w
  let s := s.crSync c
  let i := s.wqInst w
  let busy := s.jobs.any (fun e => match e.2.use with
    | .fetch x _ _ => x == w
    | _ => false)
  let f := s.wqg w WQ.fetch
  let g := (s.wqa w).granted
  let k := min (min (max n 1) (sub32 (s.wqg w WQ.prod) f)) (g + s.crFree c)
  if !s.instActive i || s.wqg w WQ.state ≠ rActive || !s.ringTakes || s.instSealed i || busy || k = 0 then s
  else match s.xlCheck i false (s.entRanges w f k) with
  | (.wait, s) => s
  | (.fault st, s) =>
    let s := (s.crp c CR.reserved (s.crg c CR.reserved + (1 - g))).addRef i IR.refRing 1
    let s := s.setWqa w { s.wqa w with granted := g - 1 }
    (s.fetchFail w f 1 st).crMoved c
  | (.ready, s) =>
    let s := (s.crp c CR.reserved (s.crg c CR.reserved + (k - g))).addRef i IR.refRing k
    let s := s.setWqa w { s.wqa w with granted := g - k }
    (s.startRead (.fetch w f k) i (s.entRanges w f k)).crSync c

def execEntryFetch (w n : Nat) (s : State) : Host.Outcome State Fault Refusal :=
  done s (if s.wqInst w = 2048 then s else s.fetch w n)

/-- The read of a fetch has ended. -/
def State.fetchDone (s : State) (w f n status : Nat) (b : Bytes) : State :=
  let c := s.wqCr w
  let s :=
    if status = stOk then
      let es : List Ent := (List.range n).map (fun k => ⟨i32 (f + k), packBytes 512 (slice b (64 * k) 64), 0, [], 0⟩)
      let s := (s.wqp w WQ.fetch (i32 (f + n))).setWqa w { s.wqa w with ents := (s.wqa w).ents ++ es }
      let i := s.wqInst w
      let s := if 2 ≤ s.instState i ∧ (s.instCmdOf i).squash then es.foldl (fun s e => s.squashEnt w e) s else s
      s.stopProgress w
    else if status = stSealed then (s.unfetch w n).stopProgress w
    else s.fetchFail w f n status
  s.crMoved c

/-! Starting: what all types share. -/

/-- The generic flags of a type (R170): TIMED, MEDIA, and the type flags it does not define. -/
def flagsBad (r : BitVec 512) (timed media : Bool) (tf : Nat) : Bool :=
  (!timed && rget r EN.timed == 1) || (!media && rget r EN.media == 1) || rget r EN.typeFlags / tf != 0

/-- An entry that needs a domain goes on with `f`, waits, or completes POWER_DENIED (R402). -/
def State.entTransfer (s : State) (w : Nat) (e : Ent) (d : Nat) (f : State → State) : State :=
  match s.transfer 1 d (xferEnt w e.index) with
  | (.go, s) => f s
  | (.wait, s) => s
  | (.denied, s) => s.powerDenied.completeEnt w e.index stPowerDenied 0 [] []

/-- An entry whose addresses are translated goes on; a fault stops its WQ (R153). -/
def State.entXlate (s : State) (w : Nat) (e : Ent) (wr : Bool) (rs : List (Nat × Nat)) (f : State → State) : State :=
  let i := s.wqInst w
  match s.xlCheck i wr rs with
  | (.ready, s) => f s
  | (.wait, s) => s
  | (.fault st, s) => s.entHostFail w e.index st

/-- A list read of an entry (R474). -/
def State.listRead (s : State) (w : Nat) (e : Ent) (rs : List (Nat × Nat)) : State :=
  s.entXlate w e false rs (fun s =>
    (s.setEnt w { e with phase := 1 }).startRead (.list w e.index) (s.wqInst w) rs)

/-! NET_TX (R171, R257, R275). -/

/-- The reasons that need no list. (DEDUCED, unsafe: assumption 63) (DESIGN CHOICE, unsafe: assumption 156) -/
def txReason (r : BitVec 512) : Nat :=
  let op := rget r EN.opcode
  let len := rget r TX.len
  let n := rget r TX.nseg
  let l0 := rget r TX.len0
  let l1 := if n = 2 then rget r TX.len1 else 0
  if op ≠ 1 ∧ op ≠ 2 then 0x02
  else if flagsBad r true false 4 then 0x03
  else if len < 14 ∨ 16380 < len then 0x04
  else if op = 1 ∧ (n = 1 ∨ n = 2) ∧ (l0 = 0 ∨ (n = 2 ∧ l1 = 0) ∨ l0 + l1 ≠ len) then 0x04
  else if op = 1 ∧ (n = 0 ∨ 2 < n) then 0x05
  else if op = 2 ∧ (rget r TX.addr0 % 16 ≠ 0 ∨ l0 % 32 = 0 ∨ 16 < l0 % 32) then 0x05
  else 0

/-- The reason that the gather list gives. -/
def txListReason (e : Ent) : Nat :=
  let l := (txRanges e).map Prod.snd
  if rget e.raw EN.opcode = 2 ∧ (l.any (fun n => n == 0) ∨ l.foldl (· + ·) 0 ≠ rget e.raw TX.len) then 0x04 else 0

/-- The slot of a launch lies beyond the horizon (R275). -/
def State.txFar (s : State) (r : BitVec 512) : Bool :=
  rget r EN.timed == 1 && decide (s.ns / 8 + 2 ^ 20 ≤ slotOf (rget r TX.launch))

/-- The cells of an entry are asked for, once; they are granted at once where it is the next in order. (DEDUCED, unsafe: assumption 65) -/
def State.askCells (s : State) (w : Nat) (e : Ent) : State :=
  let c : CellWait := ⟨w, e.index, cellsOf (rget e.raw TX.len), rget e.raw EN.timed == 1⟩
  if s.cellWait.contains c then s
  else match s.grantNext (s.cellWait ++ [c]) [] false with
    | some (x, rsv) => if x = c then s.startTx c rsv else { s with cellWait := s.cellWait ++ [c] }
    | none => { s with cellWait := s.cellWait ++ [c] }

def State.startNetTx (s : State) (w : Nat) (e : Ent) : State :=
  let r := e.raw
  let reason := txReason r
  if reason ≠ 0 then s.malformed w e.index reason stMalformed
  else if rget r EN.opcode = 2 ∧ e.phase = 0 then
    s.listRead w e [(rget r TX.addr0, 16 * (rget r TX.len0 % 32))]
  else if e.phase = 1 then s
  else if txListReason e ≠ 0 then s.malformed w e.index 0x04 stMalformed
  else if s.ri (s.wqInst w) IR.nleaf ≤ rget r TX.leaf then s.malformed w e.index 0x06 stMalformed
  else if s.txFar r then ((s.inc BEELINE.FAR.COUNT).evt BEELINE.base 9).completeEnt w e.index stFar 0 [] []
  else s.entTransfer w e 2 (fun s => s.entXlate w e false (txRanges e) (fun s => s.askCells w e))

/-- The frame of an entry is there, or not (R25, R169). (DESIGN CHOICE, unsafe: assumption 138) -/
def State.txRead (s : State) (w : Nat) (e : Ent) (status : Nat) (b : Bytes) : State :=
  let k := e.data
  if status = stOk then
    let s := s.modPkt k (fun p => { p with bytes := b })
    if s.descFree = 0 then s else s.formTx k
  else (((s.leaveBeeline k).freePkt k).syncBee).entHostFail w e.index status

/-! NET_RX (R172): a checked entry waits for its packet. -/

def rxEntReason (r : BitVec 512) : Nat :=
  if rget r EN.opcode ≠ 1 then 0x02
  else if flagsBad r false false 1 then 0x03
  else if rget r RX.len < 64 ∨ 16384 < rget r RX.len then 0x04
  else 0

def State.startNetRx (s : State) (w : Nat) (e : Ent) : State :=
  if rxEntReason e.raw ≠ 0 then s.malformed w e.index (rxEntReason e.raw) stMalformed
  else s.setEnt w { e with phase := 2 }

/-! STORAGE (R311–R315). -/

/-- A request of an entry that passed every check: its parts take their trackers. -/
def State.newReq (s : State) (w : Nat) (e : Ent) (ns : Nat) (rs : List (Nat × Nat)) : State :=
  let i := s.wqInst w
  let r := s.reqN + 1
  let ps := s.splitParts ns r e.raw e.list
  let ids := (List.range ps.length).map (fun k => r * 16 + k)
  let q : SReq := ⟨w, e.index, i, ns, e.raw, rs, s.nsr ns, ids, false, 0, s.edryn.clk⟩
  let s : State := { s with reqN := r, sreqs := tins r q s.sreqs,
                            sparts := ps.foldl (fun t p => tins (r * 16 + p.no) p t) s.sparts }
  ((s.addRef i IR.refStor 1).setEnt w { e with phase := 3, list := [] }).syncStor.storCheck r

/-- An entry whose lists are there. -/
def State.startRequest (s : State) (w : Nat) (e : Ent) (ns : Nat) (rs : List (Nat × Nat)) : State :=
  let reason := s.splitReason ns e.raw e.list
  if reason ≠ 0 then s.malformed w e.index reason stMalformed
  else s.entTransfer w e 10 (fun s => s.newReq w e ns rs)

def State.startStorage (s : State) (w : Nat) (e : Ent) : State :=
  let r := e.raw
  let i := s.wqInst w
  let dsm := rget r SE.opcode == 9
  if !s.storRoom || !s.inService STOR.base || e.phase = 1 then s
  else
    let reason := s.sqeReason i r
    if reason ≠ 0 then s.malformed w e.index reason stMalformed
    else match s.nsFind i (rget r SE.nsid) with
    | none => s
    | some ns =>
      let more := prpMore (rget r SE.prp1) (s.sqeLen ns r)
      match (if dsm then none else prpNext more (e.list.length / 8) (if e.list.isEmpty then rget r SE.prp2 else e.data)) with
      | some x =>
        -- a list that another list names starts on a page
        if !e.list.isEmpty && x.1 % 4096 != 0 then s.malformed w e.index 0x67 stMalformed
        else s.listRead w { e with data := x.1 } [x]
      | none =>
        match s.sqeRanges ns r e.list with
        | none => s.malformed w e.index 0x67 stMalformed
        | some rs =>
          if dsm ∧ e.phase = 0 then s.listRead w e rs
          else s.startRequest w e ns (if dsm then [] else rs)

/-- A list of an entry has been read (R474). -/
def State.listDone (s : State) (w index status : Nat) (b : Bytes) : State :=
  match s.ent w index with
  | none => s
  | some e =>
    if e.phase ≠ 1 then s
    else if status = stSealed then s.setEnt w { e with phase := 0, list := [], data := 0 }
    else if status ≠ stOk then
      (s.wqError w (if status = stXlate then 0x11 else 0x10) index).completeEnt w index status 0 [] []
    else if s.wqg w WQ.type = 2 ∧ rget e.raw SE.opcode ≠ 9 then
      let more := match s.nsFind (s.wqInst w) (rget e.raw SE.nsid) with
        | some ns => prpMore (rget e.raw SE.prp1) (s.sqeLen ns e.raw)
        | none => 0
      let x := prpTake more (e.list.length / 8) e.data b
      s.setEnt w { e with phase := 2, list := e.list ++ x.1, data := x.2 }
    else s.setEnt w { e with phase := 2, list := b }

/-! FORAGER (R331, R336). -/

/-- The reasons in their order: generic ones, FOREIGN_OBJECT among them, then the Forager's own. (DEDUCED, unsafe: assumption 63) -/
def State.foragerReason (s : State) (i : Nat) (r : BitVec 512) : Nat :=
  let c := rget r FD.channel
  let f := s.fdReason r true
  let st := s.chg c FR.state
  if f ≠ 0 ∧ f < 0x07 then f
  else if s.chg c FR.owner ≠ i then 0x07
  else if f ≠ 0 then f
  else if s.chg c FR.feed ≠ 0 ∨ st = chIdle ∨ st = chStopped then 0x24
  else 0

def State.startForager (s : State) (w : Nat) (e : Ent) : State :=
  let reason := s.foragerReason (s.wqInst w) e.raw
  if reason ≠ 0 then s.malformed w e.index reason (fdStatus reason)
  else if !s.inService FORAGER.base then s
  else s.entTransfer w e 11 (fun s =>
    (s.setEnt w { e with phase := 3 }).fdEntry (rget e.raw FD.channel) w e.index e.raw)

/-! CRYPTO (R303). -/

def State.startCrypto (s : State) (w : Nat) (e : Ent) : State :=
  let reason := s.cryptoReason (s.wqInst w) e.raw
  let rs := cryptoRanges e.raw
  if reason ≠ 0 then s.malformed w e.index reason stMalformed
  else s.entTransfer w e 9 (fun s => s.entXlate w e false rs (fun s =>
    let s := s.setEnt w { e with phase := 3 }
    if rs.isEmpty then s.cryptoStart w e.index [] else s.startRead (.data w e.index) (s.wqInst w) rs))

/-! CONTROL (R173). -/

namespace CT
def table : RF := biF 0 23 16
def chunk0 : RF := biF 0 27 24
def nchunk : RF := biF 0 31 28
def unit : RF := byF 8 11
def index : RF := byF 16 19
def count : RF := byF 20 23
def data : RF := byF 24 31
end CT

/-- (DESIGN CHOICE, unsafe: assumption 62) -/
def ctlReason (r : BitVec 512) : Nat :=
  let op := rget r EN.opcode
  if op = 0 ∨ 4 < op then 0x02
  else if flagsBad r false false 1 then 0x03
  else if rget r CT.count = 0 ∨ 4096 < rget r CT.count ∨ 16 < rget r CT.chunk0 + rget r CT.nchunk + 1 then 0x04
  else if op ≠ 4 ∧ rget r CT.data % 64 ≠ 0 then 0x05
  else 0

def ctlOp (op : Nat) : TapOp := match op with
  | 1 => .read | 2 => .write | 3 => .stage | _ => .invalidate

/-- The commands of one table entry, chunk by chunk; what READ returns is gathered. -/
def State.ctlChunks (s : State) (actor : Nat) (u : UnitInfo) (op : TapOp) (t i : Nat) :
    List Nat → Bytes → Bytes → Nat × Bytes × State
  | [], _, out => (stOk, out, s)
  | c :: r, b, out =>
    let x := s.tapDo actor u op t i c (packBytes 512 (b.take 64))
    if x.status ≠ stOk then (x.status, out, x.st)
    else x.st.ctlChunks actor u op t i r (b.drop 64) (if op = .read then out ++ recBytes x.data else out)

/-- The commands of a CONTROL entry: its status, the table entries completed, what READ returned. (DESIGN CHOICE, unsafe: assumption 62) -/
def State.ctlRun (s : State) (actor : Nat) (u : UnitInfo) (op : TapOp) (t : Nat) (cs : List Nat) :
    Nat → Nat → Bytes → Nat → Bytes → Nat × Nat × Bytes × State
  | 0, _, _, k, out => (stOk, k, out, s)
  | n + 1, i, b, k, out =>
    let x := s.ctlChunks actor u op t i cs b out
    if x.1 ≠ stOk then (x.1, k, x.2.1, x.2.2)
    else x.2.2.ctlRun actor u op t cs n (i + 1) (b.drop (64 * cs.length)) (k + 1) x.2.1

/-- Whether a CONTROL entry stages whole flow records: each is then one insertion (R228). -/
def ctlInserts (r : BitVec 512) (u : UnitInfo) : Bool :=
  u.type == .flow && rget r EN.opcode == 3 && rget r CT.table == 0 && rget r CT.chunk0 == 0 && rget r CT.nchunk == 3

/-- Insertions of a CONTROL entry, from its own buffer: the status, how many completed, and each one's place in the
data area with its INDEX and HASH (R228). -/
def State.ctlInsert (s : State) (actor : Nat) (u : UnitInfo) :
    Nat → Nat → Bytes → Nat → List (Nat × Bytes) → Nat × Nat × List (Nat × Bytes) × State
  | 0, _, _, k, out => (stOk, k, out, s)
  | n + 1, i, b, k, out =>
    if !s.claimAllows (UNIT.CLAIM.reg u.base) actor then (stConflict, k, out, s.evtConflict u.base)
    else if flowMax ≤ i then (stMalformed, k, out, s)
    else
      let x := s.insertRec i (packBytes 2048 (b.take 256))
      if x.1.status ≠ stOk then (x.1.status, k, out, x.2)
      else x.2.ctlInsert actor u n (i + 1) (b.drop 256) (k + 1)
        (out ++ [(256 * k + 4, leBytes 4 x.1.index ++ leBytes 4 (rget (x.2.ctx x.1.index) FC.hash))])

/-- A CONTROL entry performs its commands with the authority of its WQ's WRITER; Chitin restricts those that
write. (DESIGN CHOICE, unsafe: assumption 62) -/
def State.control (s : State) (w : Nat) (e : Ent) (u : UnitInfo) (b : Bytes) : State :=
  let r := e.raw
  let actor := s.wqg w WQ.writer
  let op := ctlOp (rget r EN.opcode)
  let cs := (List.range (rget r CT.nchunk + 1)).map (fun k => rget r CT.chunk0 + k)
  if op ≠ .read ∧ !s.permits actor u.type then (s.evtErr u.base).completeEnt w e.index stMalformed 0 (leBytes 4 0) []
  else if ctlInserts r u then
    let x := s.ctlInsert actor u (rget r CT.count) (rget r CT.index) b 0 []
    let s := x.2.2.1.foldl (fun s o =>
      s.dmaWrite (s.wqInst w) (rget r CT.data + o.1) o.2 (rget r EN.fence == 0)) x.2.2.2
    s.completeEnt w e.index x.1 0 (leBytes 4 x.2.1) []
  else
    let x := s.ctlRun actor u op (rget r CT.table) cs (rget r CT.count) (rget r CT.index) b 0 []
    let s := x.2.2.2
    let s := if x.2.2.1.isEmpty then s else s.dmaWrite (s.wqInst w) (rget r CT.data) x.2.2.1 (rget r EN.fence == 0)
    s.completeEnt w e.index x.1 0 (leBytes 4 x.2.1) []

/-- (DESIGN CHOICE, unsafe: assumption 156) -/
def State.startControl (s : State) (w : Nat) (e : Ent) : State :=
  let r := e.raw
  let op := rget r EN.opcode
  let n := rget r CT.count * (rget r CT.nchunk + 1) * 64
  let rs := [(rget r CT.data, n)]
  if ctlReason r ≠ 0 then s.malformed w e.index (ctlReason r) stMalformed
  else match unitInfo (rget r CT.unit) with
  | none => s.completeEnt w e.index stMalformed 0 (leBytes 4 0) []
  | some u =>
    if !hasTap u.type then s.completeEnt w e.index stMalformed 0 (leBytes 4 0) []
    else s.entTransfer w e u.dom (fun s =>
      let started (s : State) := s.setEnt w { e with phase := 3 }
      match op with
      | 1 => s.entXlate w e true rs (fun s => (started s).control w e u [])
      | 4 => (started s).control w e u []
      | _ =>
        let read (s : State) : State := (started s).startRead (.data w e.index) (s.wqInst w) rs
        s.entXlate w e false rs (fun s => if ctlInserts r u then s.entXlate w e true rs read else read s))

/-! The start of the next entry (R130, R168). -/

/-- The first entry of a WQ that has not started. -/
def State.nextEnt (s : State) (w : Nat) : Option Ent :=
  (s.wqa w).ents.find? (fun e => decide (e.phase < (if s.wqg w WQ.type = 1 then 2 else 3)))

/-- A fenced entry is the first that remains, and nothing posted for its instance is held (R130). -/
def State.fenceHolds (s : State) (w : Nat) (e : Ent) : Bool :=
  s.wqg w WQ.type == 2 || s.wqg w WQ.type == 1 || rget e.raw EN.fence == 0 ||
  (((s.wqa w).ents.head?.map Ent.index) == some e.index && !(s.link (s.linkOf (s.wqInst w))).held.any (fun p => p.inst == s.wqInst w))

def State.startEntry (s : State) (w : Nat) (e : Ent) : State :=
  match s.wqg w WQ.type with
  | 0 => s.startNetTx w e
  | 1 => s.startNetRx w e
  | 2 => s.startStorage w e
  | 3 => s.startForager w e
  | 4 => s.startCrypto w e
  | _ => s.startControl w e

/-- ENTRY_START: the next entry of a WQ that runs. -/
def State.startNext (s : State) (w : Nat) : State :=
  match s.nextEnt w with
  | none => s
  | some e =>
    if (s.wqg w WQ.state ≠ rActive ∧ s.wqg w WQ.state ≠ rWaitCr) ∨ s.instSealed (s.wqInst w) ∨ !s.ringRuns ∨
      !s.fenceHolds w e then s
    else (s.startEntry w e).crMoved (s.wqCr w)

def execEntryStart (w : Nat) (s : State) : Host.Outcome State Fault Refusal :=
  done s (if s.wqInst w = 2048 then s else s.startNext w)

/-! What reads bring. -/

/-- The data of an entry have been read, or not. -/
def State.dataDone (s : State) (w index status : Nat) (b : Bytes) : State :=
  match s.ent w index with
  | none => s
  | some e =>
    if e.phase ≠ 3 then s
    else match s.wqg w WQ.type with
    | 0 => s.txRead w e status b
    | t =>
      if status = stXlate then s.xlateEnt w index
      else if status ≠ stOk then s.completeEnt w index status 0 (if t = 5 then leBytes 4 0 else []) []
      else if t = 4 then s.cryptoStart w index b
      else match unitInfo (rget e.raw CT.unit) with
        | some u => s.control w e u b
        | none => s

/-- A read job has ended: the engine it served goes on. -/
def State.jobDone (s : State) (j : DmaJob) : State :=
  match j.use with
  | .fetch w f n => s.fetchDone w f n j.status j.buf
  | .list w i => s.listDone w i j.status j.buf
  | .data w i => (s.dataDone w i j.status j.buf).crMoved (s.wqCr w)
  | .part id => s.partRead id j.status j.buf
  | .fdesc c => s.fdFetched c j.status j.buf
  | .fdata _ k => s.fdRead k j.status j.buf

/-! The coalescing timer (R176). -/

/-- (DESIGN CHOICE, unsafe: assumption 156) -/
def execCoalTimer (c : Nat) (s : State) : Host.Outcome State Fault Refusal :=
  done s (
    let a := s.cra c
    if s.crInst c = 2048 ∨ s.crg c CR.coalNs = 0 ∨ a.oldest = 0 ∨ s.crg c CR.prod = s.crg c CR.shadowed ∨
      s.since (a.oldest - 1) < s.crg c CR.coalNs then s
    else s.shadowWrite c)

/-! Ring commands (R182). -/

/-- A write to `RING.CMD`: the command, and its status. -/
def State.ringCommand (s : State) (actor op : Nat) (cr : Bool) (n : Nat) : State :=
  let x := s.ringOp op cr n
  let s := (x.2.p RING.CMD_STATUS.STATUS x.1).pb RING.CMD_STATUS.CR cr
  (s.p RING.CMD_STATUS.NUMBER n).p RING.CMD_STATUS.ACTOR actor

/-- A ring command of the manager, or of an instance through `ICMD` (`n` is then its local number). -/
def State.ringBy (s : State) (actor op : Nat) (cr : Bool) (n : Nat) : State :=
  if isInst actor then
    s.pageWrite (actor - 0x100) 0xE008 true (BitVec.ofNat 64 (op + 16 * b2n cr + 2 ^ 16 * (n % 4096)))
  else s.gated actor RING.CMD.reg (fun s => s.ringCommand actor op cr (n % 2 ^ 17))

def execRingStart (actor : Nat) (cr : Bool) (n : Nat) (s : State) : Host.Outcome State Fault Refusal :=
  act s actor (s.ringBy actor 1 cr n)
def execRingStop (actor : Nat) (cr : Bool) (n : Nat) (s : State) : Host.Outcome State Fault Refusal :=
  act s actor (s.ringBy actor 2 cr n)
def execRingReset (actor : Nat) (cr : Bool) (n : Nat) (s : State) : Host.Outcome State Fault Refusal :=
  act s actor (s.ringBy actor 3 cr n)

end Sys2Proof.Machine
end

