-- ==== Sys2Proof/Machine/Power.lean ====
section
/-! DEFINITION. PWR and PIN: votes, the steps of power-down and wake and their failures (R396–R407), OFF
(R409, R410), the regulators (R462–R464) and the thermal sensors (R467). -/

namespace Sys2Proof.Machine

/-- What waited for FABRIC to be in RUN or IDLE goes on (R42, R88): comparators that its return found due, then
writes to instance pages. (DESIGN CHOICE, unsafe: assumption 133) -/
def State.fabricPump (s : State) : State :=
  if s.domUp 1 then s.trigFabric.dbPump else s

/-- What a step does with an empty queue: one FCLK cycle passes, and work that waits for a unit or for FABRIC looks
again. (DESIGN CHOICE, unsafe: assumption 2) -/
def idleTick (s : State) : Host.Outcome State Fault Refusal := done s s.tick.svcPump.fabricPump

/-- Whether a name is that of a domain that power states apply to. -/
def domOk (d : Nat) : Bool := decide (1 ≤ d) && decide (d ≤ 25)

/-- A write to PWR.VOTE (R398). -/
def State.voteWrite (s : State) (actor : Nat) (v : Word) : State :=
  let d := getF v 7 0
  let st := getF v 11 8
  if 25 < d ∨ 3 < st then s.evtErr PWR.base
  else
    let s := s.putVote d (getF v 16 12) st actor
    if d = 1 then s.fabricPump else s

def execVoteWrite (actor : Nat) (v : Word) (s : State) : Host.Outcome State Fault Refusal :=
  act s actor (s.gated actor PWR.VOTE.reg (fun s => s.voteWrite actor v))

/-! Going down. -/

/-- Work that a domain's units have accepted and not finished. (DEDUCED, unsafe: assumption 56) -/
def State.domBusy (s : State) (d : Nat) : Bool :=
  match d with
  | 1 => s.tapBusy.any (fun e => (domUnits 1).contains e.1) || s.jobs.any (fun e => match e.2.use with
          | .fetch _ _ _ => true
          | _ => false) ||
         s.descs.any (fun e => e.2.place == .flow) || s.wqx.any (fun e => e.2.ents.any (fun x => decide (1 ≤ x.phase)))
  | 3 => [0, 1].any (fun l => !(s.link l).reads.isEmpty || !(s.link l).xlReqs.isEmpty)
  | 4 => [2, 3].any (fun l => !(s.link l).reads.isEmpty || !(s.link l).xlReqs.isEmpty)
  | 9 => s.tapBusy.any (fun e => e.1 == SCARAB.base) || s.sops.any (fun e => e.2.seq.isSome)
  | 10 => s.tapBusy.any (fun e => e.1 == STOR.base) || !s.sreqs.isEmpty
  | 11 => s.tapBusy.any (fun e => e.1 == FORAGER.base) || s.fdescs.any (fun e => decide (2 ≤ e.2.phase))
  | d => s.tapBusy.any (fun e => (domUnits d).contains e.1)

/-- Threads at work in a Hive, and frames on the wires of a port group. -/
def State.domRuns (s : State) (d : Nat) : Bool :=
  if 14 ≤ d then (List.range 64).any (fun k =>
    let st := (s.th ((d - 14) * 64 + k)).state
    st == thRun || st == thWait)
  else if 5 ≤ d ∧ d ≤ 8 then !(s.onWire (2 * (d - 5))).isEmpty || !(s.onWire (2 * (d - 5) + 1)).isEmpty
  else false

/-- A domain with TARGET IDLE and nothing to do (R401). -/
def execIdleEnter (d : Nat) (s : State) : Host.Outcome State Fault Refusal :=
  done s (if domOk d && s.domState d == 0 && s.targetOf d == 1 && s.g (PWR.DOM_STAT.XFER d) == 0 &&
      !s.domBusy d && !s.domRuns d then s.setDomState d 1 0 else s)

/-- The ports of a PORTG domain. -/
def groupPorts (d : Nat) : List Nat := if 5 ≤ d ∧ d ≤ 8 then [2 * (d - 5), 2 * (d - 5) + 1] else []

/-- Ports whose lanes touch a domain (R439). -/
def State.portsOn (s : State) (d : Nat) : List Nat := (List.range 8).filter (fun p => (s.portDoms p).contains d)

/-- D2 begins: a PORTG domain's ports drop their links (R450). -/
def State.saveStep (s : State) (d : Nat) : State :=
  (s.portsOn d).foldl (fun s p => s.linkFall p false) (s.drainStep d 2)

/-- Domains on the rail of a domain. -/
def railMates (d : Nat) : List Nat := ((List.range 25).map (· + 1)).filter (fun e => railOf e != 0 && railOf e == railOf d)

/-- Whether nothing on a domain's rail needs it: each other domain there is DEEP, or failed from it. (DEDUCED, unsafe: assumption 56) -/
def State.railIdle (s : State) (d : Nat) : Bool :=
  (railMates d).all (fun e => e == d || s.domState e == 3 || s.domState e == 11 ||
    (s.domState e == 10 && (s.domx e).left == 3))

/-- The sleep state is reached; a shared rail goes off with its last domain (R397). -/
def State.asleep (s : State) (d st : Nat) : State :=
  let s := (s.setDomState d st 0).setDomx d { s.domx d with left := st }
  if st = 3 ∧ s.railIdle d then s.setRail (railOf d) false else s

/-- The end of a power-down step (R403, R404); D1 with a TARGET that has become IDLE ends in IDLE. (DEDUCED, unsafe: assumption 56) -/
def State.stepDone (s : State) (d : Nat) : State :=
  let t := s.targetOf d
  let us := s.since (s.domx d).stepClk
  match s.g (PWR.DOM_STAT.STEP d) with
  | 1 => if s.g (PWR.DOM_STAT.XFER d) ≠ 0 ∨ s.domBusy d then s
         else if 2 ≤ t then s.saveStep d else s.setDomState d t 0
  | 2 => if t < 2 then (s.setDomx d { s.domx d with left := 2 }).wakeStep d 3 else s.drainStep d 3
  | 3 =>
    if us < 1000 then s
    else if t < 2 then s.wakeStart d 2
    else if t = 2 then s.asleep d 2
    else s.drainStep d 4
  | 4 =>
    if us < 2000 then s
    else
      let s := s.asleep d 3
      if t < 3 then s.actTarget d else s
  | _ => s

def execPowerStepDone (d : Nat) (s : State) : Host.Outcome State Fault Refusal :=
  done s (if domOk d && s.domState d == 8 then
    let s := s.stepDone d
    if d = 1 then s.fabricPump else s
  else s)

/-! Waking. -/

/-- Registers whose value follows other state of their unit, whatever their domain does. -/
def wakeLive (t : UType) (off : Nat) : Bool :=
  (t == .comb && off == 0x70) || (t == .stor && off == 0x40) || (t == .hostlink && off == 0x50)

/-- A register at a domain wake: every field that is not kept takes its value (R11). -/
def descWake (r : RegDesc) (v : Nat) : Nat :=
  r.fields.foldl (fun v f => match f.wake with
    | some x => setBits v f.hi f.lo x
    | none => v) v

/-- What a domain's units show after its wake in tables and threads: a status of an instance command, a thread's events,
mask, last fault and staged words; its STATE is kept (R11, R348). (DEDUCED, unsafe: assumption 58) -/
def State.wakeTables (s : State) (d : Nat) : State :=
  if d = 1 then { s with icmd := [], regs := s.regs.filter (fun e => decide (e.1 < IPAGE.base 0)) }
  else if 14 ≤ d then
    (tkeys s.thread).foldl (fun s t =>
      if t / 64 = d - 14 then s.modTh t (fun v => { v with lastFault := 0, pending := 0, mask := 0, staging := [] }) else s) s
  else s

/-- The registers of a domain's units after its wake (R11, R38). (DEDUCED, unsafe: assumption 58) -/
def State.wakeRegs (s : State) (d : Nat) : State :=
  (s.wakeTables d).regs.foldl (fun s e =>
    match regAt e.1 with
    | some (u, r, _) =>
      if u.dom ≠ d ∨ e.1 - u.base < 0x40 ∨ wakeLive u.type (e.1 - u.base) then s
      else s.setReg e.1 (BitVec.ofNat 64 (descWake r (s.reg e.1).toNat))
    | none => s) (s.wakeTables d)

/-- The table access ports of a domain's units are free after its wake. (DEDUCED, unsafe: assumption 58) -/
def State.wakeTaps (s : State) (d : Nat) : State :=
  let us := domUnits d
  { s with tapBusy := s.tapBusy.filter (fun e => !us.contains e.1), tapClk := s.tapClk.filter (fun e => !us.contains e.1) }

/-- What waited for a domain goes on (R42, R54, R88, R97, R402, R450). -/
def State.wakeResume (s : State) (d : Nat) : State :=
  let s := (s.heldApply d).svcHeld d
  let s := if d = 1 then s.fabricPump else s
  let s := (s.portsOn d).foldl (fun s p =>
    if s.trains p && !s.gb (PORT.STAT.LINK p) then s.pb (PORT.STAT.TRAINING p) true else s) s
  s.svcPump

/-- The registers with PERST as the pin has it, the pauses of a port group over, and the translation cache empty,
of which `ATC_STAT` tells 0. -/
def State.wakeLinks (s : State) (d : Nat) : State :=
  let ls := if d = 3 then [0, 1] else if d = 4 then [2, 3] else []
  let perst := ls.map (fun l => (l, s.g (HOSTLINK.LINK_STAT.PERST l)))
  let s := (groupPorts d).foldl (fun s p => (List.range 8).foldl (fun s k => s.resumeClass p k) s) s
  let s := s.wakeRegs d
  let s : State := if d = 1 then { s with xl := [] } else s
  perst.foldl (fun s e => s.p (HOSTLINK.LINK_STAT.PERST e.1) e.2) s

/-- A wake ends: RUN (R405, R407). -/
def State.domRun (s : State) (d : Nat) : State :=
  let retry := (s.domx d).byRetry
  let s := (s.setDomState d 0 0).setDomx d Dom.reset
  let s := if retry then s.pb (PWR.DOM_CTL.LOCKDOWN d) false else s
  (((s.wakeLinks d).wakeTaps d).wakeResume d).actTarget d

/-- A wake step ends (R405). -/
def State.wakeNext (s : State) (d : Nat) : State :=
  let k := s.g (PWR.DOM_STAT.STEP d)
  let s := if k = 1 ∧ railOf d ≠ 0 then s.withPins (fun p => { p with regPg := setBits p.regPg (railOf d) (railOf d) 1 }) else s
  match s.nextWake d k false with
  | 0 => s.domRun d
  | n => s.wakeStep d n

/-- The condition of a wake step is there and its fixed delay over, before its timeout. -/
def execWakeStepDone (d : Nat) (s : State) : Host.Outcome State Fault Refusal :=
  let k := s.g (PWR.DOM_STAT.STEP d)
  let us := s.since (s.domx d).stepClk
  done s (if domOk d && s.domState d == 9 && decide ((wakeDelay d k).1 * 1000 ≤ us) &&
      (k == 3 || decide (us ≤ (wakeDelay d k).2 * 1000)) then s.wakeNext d else s)

/-- A domain becomes FAILED, and its units with it (R406, R463). (DEDUCED, unsafe: assumption 57) -/
def State.failDomain (s : State) (d : Nat) : State :=
  let s := (s.setDomState d 11 0).setDomx d { s.domx d with byRetry := false }
  let s := (s.pb (PWR.DOM_CTL.LOCKDOWN d) true).evt PWR.base 9
  let s := (s.portsOn d).foldl (fun s p => s.linkFall p false) s
  ((domUnits d).foldl (fun s u => s.failUnit u 4) s).hivesLeft

/-- The record of a wake failure in a step (R406). -/
def State.wakeLog (s : State) (d k : Nat) : State :=
  let s := (s.p PWR.WAKE_LOG.DOMAIN d).p PWR.WAKE_LOG.STEP k
  let s := s.p PWR.WAKE_LOG.CAUSE (if k = 1 then 1 else if k = 2 then 2 else 3)
  ((s.inc PWR.WAKE_LOG.FAILS).p PWR.WAKE_LOG_NS.NS s.ns).evt PWR.base 8

/-- A wake failure (R406, R407): the completed steps are reversed. -/
def State.wakeFail (s : State) (d : Nat) : State :=
  let s := s.wakeLog d (s.g (PWR.DOM_STAT.STEP d))
  let retry := (s.domx d).byRetry
  let s := if (s.domx d).left = 3 ∧ s.railIdle d then s.setRail (railOf d) false else s
  let x := s.fwcEvent fWakeFail d 0 PWR.base
  if x.1 || retry then x.2.failDomain d
  else (x.2.setDomState d 10 0).setDomx d { x.2.domx d with failClk := s.edryn.clk }

def execWakeStepTimeout (d : Nat) (s : State) : Host.Outcome State Fault Refusal :=
  let k := s.g (PWR.DOM_STAT.STEP d)
  done s (if domOk d && s.domState d == 9 && k != 3 &&
      decide ((wakeDelay d k).2 * 1000 ≤ s.since (s.domx d).stepClk) then s.wakeFail d else s)

/-- 10 ms after the failure (R406). -/
def execWakeRetry (d : Nat) (s : State) : Host.Outcome State Fault Refusal :=
  done s (if domOk d && s.domState d == 10 && decide (10_000_000 ≤ s.since (s.domx d).failClk)
    then s.wakeStart d (s.domx d).left else s)

/-- DOM_CTL.RETRY (R407). -/
def State.domainRetry (s : State) (d : Nat) : State :=
  if s.domState d = 11 then (s.setDomx d { s.domx d with byRetry := true }).wakeStart d 3 else s.evtErr PWR.base

def execDomainRetry (actor d : Nat) (s : State) : Host.Outcome State Fault Refusal :=
  act s actor (if 25 < d then s else s.gated actor (PWR.DOM_CTL.reg d) (fun s => s.domainRetry d))

/-! OFF. -/

/-- A write to PWR.OFF (R409): keys erased, rails down. -/
def State.offWrite (s : State) (actor : Nat) (v : Word) : State :=
  if getF v 15 0 ≠ 0x4F46 ∨ (actor ≠ s.owner ∧ actor ≠ 0x2001) then s.evtErr PWR.base
  else if !((List.range 25).all (fun k => s.domState (k + 1) == 3)) then s.p PWR.OFF.STATUS stBusy
  else s.wipeKeys.sysReset 4

/-- (DEDUCED, unsafe: assumption 56) -/
def execOffRequest (actor : Nat) (v : Word) (s : State) : Host.Outcome State Fault Refusal :=
  act s actor (s.gated actor PWR.OFF.reg (fun s => s.offWrite actor v))

/-- Whether an output is high impedance (R456): while SYS_RST_N is low, and in OFF, where only a pad on VDD_WAKE
is powered and driven. (DESIGN CHOICE, safe: assumption 126) -/
def State.outputZ (s : State) (onWake : Bool) : Bool :=
  if s.trust.phase = 4 ∨ s.trust.phase = 5 then !onWake else !s.pins.sysRstN

/-- WAKE_N low for 1 µs: it counts in OFF alone (R410). -/
def execWakeNEvent (s : State) : Host.Outcome State Fault Refusal :=
  done s (if s.trust.phase = 4 then
      (s.modTrust (fun t => { t with phase := 5 })).withPins (fun p => { p with regEn := 1 })
    else s)

/-- REG_PG0 high for 10 ms: the detector releases the device (R410). -/
def execOffWakeRelease (strapBoot strapHost : Nat) (imgA imgB : Bytes) (tests : Bool) (s : State) :
    Host.Outcome State Fault Refusal :=
  done s (if s.trust.phase = 5 ∧ bit s.pins.regPg 0 then
      (s.modTrust (fun t => { t with phase := 0 })).startUp strapBoot strapHost imgA imgB tests
    else s)

/-- VDD_WAKE comes up: the detector drives REG_EN0 high (R410). (DESIGN CHOICE, unsafe: assumption 45) -/
def execVddWakeApply (s : State) : Host.Outcome State Fault Refusal :=
  done s (s.withPins (fun p => { p with regEn := setBits p.regEn 0 0 1 }))

/-! Regulators. -/

/-- Whether the loss of a rail strikes a domain: it is above DEEP. -/
def State.aboveDeep (s : State) (d : Nat) : Bool :=
  match s.domState d with
  | 3 => false
  | 11 => false
  | 10 => (s.domx d).left != 3
  | 9 => s.g (PWR.DOM_STAT.STEP d) != 1
  | _ => true

/-- REG_PGk low for 1 µs (R463). (DEDUCED, unsafe: assumption 57) -/
def State.pgLoss (s : State) (k : Nat) : State :=
  let s := s.withPins (fun p => { p with regPg := setBits p.regPg k k 0 })
  if s.trust.phase = 4 ∨ s.trust.phase = 5 then s
  else if k < 3 then
    (s.withPins (fun p => { p with pgReset := setBits p.pgReset k k 1 })).sysReset 0
  else
    let ds := ((List.range 25).map (· + 1)).filter (fun d => railOf d == k && s.aboveDeep d)
    if ds.isEmpty then s
    else (ds.foldl (fun s d => s.failDomain d) s).withPins (fun p => { p with alertHold := true })

def execRegPgLoss (k : Nat) (s : State) : Host.Outcome State Fault Refusal :=
  done s (if k < 8 ∧ bit s.pins.regPg k then s.pgLoss k else s)

/-- REG_PGk high again, for k below 3 for 1 ms: the last of them releases the reset (R463). -/
def State.pgBack (s : State) (k strapBoot strapHost : Nat) (imgA imgB : Bytes) (tests : Bool) : State :=
  let held := bit s.pins.pgReset k
  let s := s.withPins (fun p => { p with regPg := setBits p.regPg k k 1, pgReset := setBits p.pgReset k k 0, pgBack := s.edryn.clk })
  if held && s.pins.pgReset == 0 && s.pins.sysRstN && s.trust.phase == 0
  then s.startUp strapBoot strapHost imgA imgB tests else s

/-- (DEDUCED, unsafe: assumption 46) -/
def execRegPgRestore (k strapBoot strapHost : Nat) (imgA imgB : Bytes) (tests : Bool) (s : State) :
    Host.Outcome State Fault Refusal :=
  done s (if k < 8 then s.pgBack k strapBoot strapHost imgA imgB tests else s)

/-- The readings of the regulators that acknowledge go to the PMC; the AON firmware does this while KEEPER is
in service (R53, R464). -/
def execRegPoll (readings : List (Nat × Nat × Nat × Nat)) (s : State) : Host.Outcome State Fault Refusal :=
  done s (if !s.inService KEEPER.base then s
    else
      let l := readings.filter (fun r => decide (r.1 < 8))
      (l.foldl (fun s r => s.withPins (fun p => { p with
        readings := tset 0 (tset 0 (tset 0 p.readings (3 * r.1) r.2.1) (3 * r.1 + 1) r.2.2.1) (3 * r.1 + 2) r.2.2.2 })) s).emit
        (.regulators l))

/-! Thermal. -/

/-- The hottest sensor's reading in 1/16 °C (R467). (DEDUCED, unsafe: assumption 56) -/
def State.thermal (s : State) (tj : Int) : State :=
  let s := (s.p PIN.THERM.TJ (wrapInt 16 tj)).withPins (fun p => { p with thermClk := s.edryn.clk })
  let s := if (16 * s.g PIN.THERM.WARN : Int) ≤ tj then (s.pb PIN.THERM.HOT true).evt PIN.base 9 else s
  if 2000 ≤ tj then
    let s := ((s.pb PIN.THERM.TRIP true).evt PIN.base 10).withPins (fun p => { p with thermTripN := false })
    s.scarabAlarm 4
  else s

def execThermSample (tj : Int) (s : State) : Host.Outcome State Fault Refusal := done s (s.thermal tj)

end Sys2Proof.Machine
end

