-- ==== Sys2Proof/Machine/Host.lean ====
section
/-! DEFINITION. The host links: conventional resets (R108–R110), seals (R116–R118), Bus Master Enable (R112),
requests and their completions (R113–R115), configuration requests (R106–R108), peer windows (R120, R121),
translation (R151–R153) and the order probe (R133, R134). -/

namespace Sys2Proof.Machine

/-- The physical function of a link, as an actor. -/
def pfActor (l : Nat) : Nat := l + 1
def linkDom (l : Nat) : Nat := if l < 2 then 3 else 4

/-- A command of a fitted link. -/
def onLink (s : State) (l : Nat) (t : State) : Host.Outcome State Fault Refusal :=
  done s (if l < 4 ∧ s.fitted l then t else s)

/-! AER (R107). -/

/-- An uncorrectable error's status bit; an unmasked one that is the first sets the First Error Pointer and the
header and prefix logs, whose content the model does not have. (PRESUMED, unsafe: assumption 37) -/
def State.aerUnc (s : State) (l b : Nat) : State :=
  let k := s.link l
  let first := k.cfgGet cfgAerUnc == 0 && !bit (k.cfgGet cfgAerUncMask) b
  let s := s.modLink l (fun k => k.cfgSet cfgAerUnc (setBits (k.cfgGet cfgAerUnc) b b 1))
  if !first then s
  else
    let (v, s) := s.fresh
    let (w, s) := s.fresh
    let (x, s) := s.fresh
    s.modLink l (fun k => ((k.cfgSet cfgAerLog (v.toNat + 2 ^ 64 * w.toNat)).cfgSet cfgAerPrefix x.toNat).cfgSet cfgFep b)
/-- (PRESUMED, unsafe: assumption 37) -/
def State.aerCor (s : State) (l b : Nat) : State :=
  s.modLink l (fun k => k.cfgSet cfgAerCor (setBits (k.cfgGet cfgAerCor) b b 1))

/-! Rings and Bus Master Enable (R112, R179). -/

def State.stallWq (s : State) (w : Nat) : State :=
  let st := s.wqg w WQ.state
  if st = rStalled then s else (s.wqp w WQ.rem st).wqp w WQ.state rStalled
def State.stallCr (s : State) (c : Nat) : State :=
  let st := s.crg c CR.state
  if st = rStalled then s else (s.crp c CR.rem st).crp c CR.state rStalled
def State.unstallWq (s : State) (w : Nat) : State :=
  if s.wqg w WQ.state = rStalled then (s.wqp w WQ.state (s.wqg w WQ.rem)).wqp w WQ.rem 0 else s
def State.unstallCr (s : State) (c : Nat) : State :=
  if s.crg c CR.state = rStalled then (s.crp c CR.state (s.crg c CR.rem)).crp c CR.rem 0 else s

/-- BME of a link goes to 0: no new request, the rings of its instances stall. -/
def State.bmeOff (s : State) (l : Nat) : State :=
  if !s.bme l then s
  else
    let s := (s.pb (HOSTLINK.LINK_STAT.BME l) false).evt (HOSTLINK.base l) 13
    (s.instsOn l).foldl (fun s i =>
      (s.instCrs i).foldl (fun s c => s.stallCr c) ((s.instWqs i).foldl (fun s w => s.stallWq w) s)) s

/-- BME returns: held writes, then pending messages, then the rings. -/
def State.bmeOn (s : State) (l : Nat) : State :=
  if s.bme l then s
  else
    let s := (s.pb (HOSTLINK.LINK_STAT.BME l) true).evt (HOSTLINK.base l) 13
    let s := (s.flushHeld l).sendPending l
    ((s.instsOn l).foldl (fun s i =>
      (s.instCrs i).foldl (fun s c => s.unstallCr c) ((s.instWqs i).foldl (fun s w => s.unstallWq w) s)) s).pumpReads l

def execBmeClear (l : Nat) (s : State) : Host.Outcome State Fault Refusal := onLink s l (s.bmeOff l)
def execBmeSet (l : Nat) (s : State) : Host.Outcome State Fault Refusal :=
  onLink s l (if s.dlUp l then s.bmeOn l else s)

/-! Reads and completions (R113–R115). -/

/-- A piece of a read job ends; the engine goes on when it was the last. -/
def State.pieceDone (s : State) (j pos status : Nat) (d : Bytes) : State :=
  match s.endPiece j pos status d with
  | (some job, s) => s.jobDone job
  | (none, s) => s

/-- An outstanding read ends with a status, and its tag is free, or in quarantine until a rate clock. -/
def State.endRead (s : State) (l tag status : Nat) (quar : Option Nat) : State :=
  match (s.link l).reads.find? (fun e => e.1 == tag) with
  | none => s
  | some (_, r) =>
    let s := s.modLink l (fun k => { k with
      reads := tdel k.reads tag,
      quar := match quar with
        | some t => tins tag t k.quar
        | none => k.quar })
    let st := if r.dead then stSealed else status
    (((s.syncTags l).pieceDone r.job r.pos st (if st = stOk then r.got else [])).pumpReads l)

/-! Seals (R116–R118). -/

/-- Reads of a link's instances that have not been issued end SEALED. -/
def State.sealWaiting (s : State) (l : Nat) : State :=
  let ws := (s.link l).waitRd
  let s := s.modLink l (fun k => { k with waitRd := ws.filter (fun w => decide (2048 ≤ w.inst)) })
  (ws.filter (fun w => decide (w.inst < 2048))).foldl (fun s w => s.pieceDone w.job w.pos stSealed []) s

/-- Posted writes held for a link's instances go; the interrupt entry of a message among them sets PEND
(R117, R125). (DEDUCED, unsafe: assumption 42) -/
def State.sealHeld (s : State) (l : Nat) : State :=
  let h := (s.link l).held
  let s := s.modLink l (fun k => { k with held := h.filter (fun p => decide (2048 ≤ p.inst)) })
  h.foldl (fun s p =>
    if p.inst < 2048 ∧ p.entry ≠ 0 then s.setInt (p.entry - 1) (rput (s.intEntry (p.entry - 1)) IE.pend 1) else s) s

/-- Packets in the Comb for a link's instances are released (R117). -/
def State.sealPackets (s : State) (l : Nat) : State :=
  let is := s.instsOn l
  let mine := (s.descs.filter (fun e => e.2.dk == 1 && is.contains e.2.dest && (match e.2.place with
    | .queue _ => true
    | .adm _ => true
    | .beeline => true
    | _ => false))).map Prod.fst
  mine.foldl (fun s d => s.sealDiscard d (s.desc d).dest) s

/-- What a seal does to the rings of a link's instances: no reset since, and no slot is needed any more. -/
def State.sealRings (s : State) (l : Nat) : State :=
  (s.instsOn l).foldl (fun s i =>
    let s := (s.instCrs i).foldl (fun s c => s.setCra c { s.cra c with resetSince := false }) s
    (s.instWqs i).foldl (fun s w => (s.setWqa w { s.wqa w with resetSince := false }).stopProgress w) s) s

/-- A cause of R116 on a link. (DEDUCED, unsafe: assumption 42) -/
def State.sealLink (s : State) (l cause : Nat) : State :=
  if s.sealed l then s.inc (HOSTLINK.SEAL.EXTRA l)
  else
    let s := ((s.pb (HOSTLINK.SEAL.SEALED l) true).p (HOSTLINK.SEAL.CAUSE l) cause).p (HOSTLINK.SEAL_TIME.NS l) s.ns
    let s := s.evt (HOSTLINK.base l) 8
    let is := s.instsOn l
    let s := s.modLink l (fun k => { k with
      reads := k.reads.map (fun e => (e.1, { e.2 with dead := e.2.dead || decide (e.2.inst < 2048) })),
      xlReqs := k.xlReqs.map (fun e => (e.1, { e.2 with stale := true })) })
    let s : State := { s with xl := s.xl.filter (fun e => !is.contains e.inst),
                              xlDenied := s.xlDenied.filter (fun e => !is.contains e.1) }
    (((s.sealHeld l).sealWaiting l).sealRings l).sealPackets l

/-- Whether a link's rings have all been reset since its seal (R118). -/
def State.ringsReset (s : State) (l : Nat) : Bool :=
  (s.instsOn l).all (fun i => (s.instWqs i).all (fun w => (s.wqa w).resetSince) &&
    (s.instCrs i).all (fun c => (s.cra c).resetSince))

/-- A release of a link's seal is refused (R118). -/
def State.sealRefused (s : State) (l : Nat) : State :=
  (s.p HOSTIF.SEAL_RELEASE.REFUSED (setBits (s.g HOSTIF.SEAL_RELEASE.REFUSED) l l 1)).evtErr (HOSTLINK.base l)

/-- The release of one link's seal. (DESIGN CHOICE, unsafe: assumption 44) -/
def State.sealRelease (s : State) (actor l : Nat) : State :=
  if isPf actor && s.sealed l && s.dlUp l && s.ringsReset l then
    let s := ((s.pb (HOSTLINK.SEAL.SEALED l) false).p (HOSTLINK.SEAL.CAUSE l) 0).p (HOSTLINK.SEAL.EXTRA l) 0
    let s := s.p HOSTIF.SEAL_RELEASE.REFUSED (setBits (s.g HOSTIF.SEAL_RELEASE.REFUSED) l l 0)
    (s.instsOn l).foldl (fun s i => s.clearInts i IE.pend) s
  else s.sealRefused l

/-- The releases that a written value names. -/
def State.eachLink (s : State) (v : Word) (f : State → Nat → State) : State :=
  [0, 1, 2, 3].foldl (fun s l => if getF v l l = 1 then f s l else s) s
def State.sealReleases (s : State) (actor : Nat) (v : Word) : State := s.eachLink v (fun s l => s.sealRelease actor l)

/-- A write of SEAL_RELEASE: where Chitin does not permit the writer, ERROR in HOSTIF as for every such write, and
every release it names is refused (R118, R432). (DESIGN CHOICE, unsafe: assumption 44) -/
def State.sealWrite (s : State) (actor : Nat) (v : Word) : State :=
  if s.permits actor .hostif then s.gated actor HOSTIF.SEAL_RELEASE.reg (fun s => s.sealReleases actor v)
  else (s.evtErr HOSTIF.base).eachLink v State.sealRefused

/-- (DESIGN CHOICE, unsafe: assumption 44) -/
def execSealRelease (actor : Nat) (v : Word) (s : State) : Host.Outcome State Fault Refusal :=
  act s actor (s.sealWrite actor v)

/-! Conventional reset (R108, R109). -/

/-- Every TAP binding that an actor holds is released. -/
def State.releaseTaps (s : State) (actor : Nat) : State :=
  s.regs.foldl (fun s e =>
    match unitAt e.1 with
    | some u => if hasTap u.type && e.1 - u.base == 0x110 && s.g (TAP.STATUS.HOLDER u.base) == actor
        then s.p (TAP.STATUS.HOLDER u.base) 0 else s
    | none => s) s

/-- Every outstanding read of a link ends SEALED; no tag and no quarantine survives, and no probe that it carried. (DEDUCED, unsafe: assumption 38) -/
def State.endReads (s : State) (l : Nat) : State :=
  let rs := (s.link l).reads
  let s := s.modLink l (fun k => { k with reads := [], xlReqs := [], quar := [], inval := [], tx := [] })
  let s := [0, 1, 2, 3].foldl (fun s m => s.modLink m (fun k => { k with probes := k.probes.filter (fun p => p.1 != l) })) s
  rs.foldl (fun s e => s.pieceDone e.2.job e.2.pos stSealed []) (s.syncTags l)

/-- The data link layer of a link goes down. -/
def State.dlFall (s : State) (l : Nat) : State :=
  if s.dlUp l then
    ((s.pb (HOSTLINK.LINK_STAT.DL_UP l) false).inc (HOSTLINK.LINK_STAT.DOWN_COUNT l)).evt (HOSTLINK.base l) 14
  else s

/-- A conventional reset begins, for a reason (1 PERST_N, 2 Hot Reset, 3 Disabled, 4 DL_Down). (DEDUCED, unsafe: assumption 38) -/
def State.convBegin (s : State) (l why : Nat) : State :=
  let s := (s.evt (HOSTLINK.base l) 15).sealLink l (if why = 4 then 4 else 6)
  let s := (s.bmeOff l).endReads l
  let s := s.dlFall l
  let s := [HOSTLINK.LINK_STAT.SPEED l, HOSTLINK.LINK_STAT.WIDTH l, HOSTLINK.LINK_STAT.FLIT l,
    HOSTLINK.LINK_STAT.MSE l, HOSTLINK.LINK_STAT.MSIX_EN l, HOSTLINK.LINK_STAT.TAG10 l].foldl (fun s f => s.p f 0) s
  let s := s.modLink l (fun k => { k with convReset := why, cfg := [], msix := [],
                                          ptm := { k.ptm with valid := false, open_ := false } })
  let s := ((s.releaseClaims (pfActor l)).releaseTaps (pfActor l)).releaseLocks (pfActor l)
  if s.owner = pfActor l then s.chitinDrop 1 else s

/-- The LINK hold of a host domain (R400). -/
def State.linkHold (s : State) (l : Nat) : State :=
  let d := linkDom l
  s.setHold d 2 ([2 * (d - 3), 2 * (d - 3) + 1].any (fun k => s.fitted k && !s.gb (HOSTLINK.LINK_STAT.PERST k)))

def State.perstLow (s : State) (l : Nat) : State :=
  if s.gb (HOSTLINK.LINK_STAT.PERST l) then s
  else
    let s := s.pb (HOSTLINK.LINK_STAT.PERST l) true
    let s := if (s.link l).convReset = 0 then s.convBegin l 1 else s.modLink l (fun k => { k with convReset := 1 })
    s.linkHold l

def execPerstAssert (l : Nat) (s : State) : Host.Outcome State Fault Refusal := onLink s l (s.perstLow l)
def execPerstDeassert (l : Nat) (s : State) : Host.Outcome State Fault Refusal :=
  onLink s l (if s.gb (HOSTLINK.LINK_STAT.PERST l) then (s.pb (HOSTLINK.LINK_STAT.PERST l) false).linkHold l else s)

/-- Whether a link is trained and in no conventional reset. -/
def State.trained (s : State) (l : Nat) : Bool :=
  (s.link l).convReset == 0 && s.g (HOSTLINK.LINK_STAT.SPEED l) != 0

def execHotReset (l : Nat) (s : State) : Host.Outcome State Fault Refusal :=
  onLink s l (if s.trained l then s.convBegin l 2 else s)
def execLinkDisable (l : Nat) (s : State) : Host.Outcome State Fault Refusal :=
  onLink s l (if s.trained l then s.convBegin l 3 else s)
/-- DL_Down of a link in no conventional reset begins one (R116). -/
def execDlDown (l : Nat) (s : State) : Host.Outcome State Fault Refusal :=
  onLink s l (if !s.dlUp l then s else if (s.link l).convReset = 0 then (s.aerUnc l 5).convBegin l 4 else s.dlFall l)

/-- Training ends (R104): the highest common rate code and the widest common width (a mask by log2), FLIT
mode where the partner has it, without which 32 GT/s is the highest rate. -/
def State.train (s : State) (l rates widths : Nat) (flit : Bool) : State :=
  let top := if flit then 6 else 5
  let speed := (List.range (top + 1)).foldl (fun b r => if 1 ≤ r ∧ bit rates r then r else b) 0
  let maxW := if s.trust.strapHost % 2 = 0 then 4 else 3
  let width := (List.range (maxW + 1)).foldl (fun b w => if bit widths w then 2 ^ w else b) 0
  if speed = 0 ∨ width = 0 then s
  else
    let s := (s.p (HOSTLINK.LINK_STAT.SPEED l) speed).p (HOSTLINK.LINK_STAT.WIDTH l) width
    (s.pb (HOSTLINK.LINK_STAT.FLIT l) flit).modLink l (fun k => { k with convReset := 0 })

def execLinkTrained (l rates widths : Nat) (flit : Bool) (s : State) : Host.Outcome State Fault Refusal :=
  onLink s l (if s.gb (HOSTLINK.LINK_STAT.PERST l) || !s.domUp (linkDom l) || s.dlUp l then s
    else s.train l rates widths flit)

/-- DL_Up (R119, R122). -/
def execDlUp (l : Nat) (s : State) : Host.Outcome State Fault Refusal :=
  onLink s l (if s.dlUp l || s.gb (HOSTLINK.LINK_STAT.PERST l) || !s.trained l then s
    else
      let s := (s.pb (HOSTLINK.LINK_STAT.DL_UP l) true).evt (HOSTLINK.base l) 14
      (s.flushHeld l).sendPending l)

/-! Configuration requests (R106–R108). -/

/-- The log2 sizes of BAR0, BAR2 and BAR4 (R39). -/
def barLog2 (k : Nat) : Nat := if k < 2 then 29 else if k < 4 then 27 else 30

/-- Bits of a configuration word that an implementation fixes. -/
def openBits (n mask : Nat) : Nat := (Config.cfgConst n).toNat &&& mask

/-- The IDs of the capabilities of R107, in the order in which the model numbers them: PCI Express, Power Management and
MSI-X, then the extended ones: AER, PASID, ATS, PTM, Data Link Feature, Physical Layer 16.0, 32.0 and 64.0 GT/s, Lane
Margining, L1 PM Substates. (PRESUMED, unsafe: assumption 37) -/
def capIds : List Nat := [0x10, 0x01, 0x11, 0x01, 0x1B, 0x0F, 0x1F, 0x25, 0x26, 0x2A, 0x31, 0x27, 0x1E]

/-- The widest link that the straps allow (R103). -/
def State.maxWidth (s : State) : Nat := if s.trust.strapHost % 2 = 0 then 16 else 8

/-- What a configuration register reads. (PRESUMED, unsafe: assumption 37) -/
def State.cfgRead (s : State) (l : Nat) (r : CfgReg) : Nat :=
  let k := s.link l
  let e := HOSTLINK.LINK_STAT.reg l
  match r with
  | .id => 0x0716_1EF1
  | .command => 2 * getF (s.reg e) 12 12 + 4 * getF (s.reg e) 11 11 + k.cfgGet cfgCmd + 0x0010_0000
  | .classRev => 0x0200_0011
  | .headerType => 0
  | .bar n => if n % 2 = 0 then k.cfgGet (cfgBar n) + 4 else k.cfgGet (cfgBar n)
  | .subsystem => if s.trust.ssid = 0 then 0x0001_1EF1 else s.trust.ssid
  | .rom => 0
  | .intPin => 0
  | .devCap => 0x23 + openBits 0 0x0FFF_8FC0
  | .devCtl => 16 * k.cfgGet cfgRoEn + 32 * k.cfgGet cfgMps + 4096 * k.cfgGet cfgMrrs + k.cfgGet cfgDevCtl
  | .devCap2 => 0x0023_0000 + openBits 1 0xFFDC_FFE0
  | .devCtl2 => 256 * k.cfgGet cfgIdoEn + 4096 * getF (s.reg e) 15 15
  | .linkCap => 6 + 16 * s.maxWidth + openBits 2 0xFFFF_F800
  | .linkCtl => k.cfgGet cfgLinkCtl + 2 ^ 16 * getF (s.reg e) 3 0 + 2 ^ 20 * getF (s.reg e) 8 4 + openBits 3 0x1000_0000
  | .msixCtl => 2047 + 16384 * k.cfgGet cfgFuncMask + 32768 * getF (s.reg e) 13 13
  | .msixTable => 0x0000_0004
  | .msixPba => 0x0000_8004
  | .atsCap => openBits 4 0x0000_FFE0
  | .ats => 32768 * k.cfgGet cfgAts
  | .ptmCap => 1 + openBits 5 0x0000_FF00
  | .ptm => k.cfgGet cfgPtm
  | .pasidCap => 0x1400
  | .pasid => k.cfgGet cfgPasid
  | .pmc => 3
  | .pmcsr => 8 + k.cfgGet cfgPower
  | .aerUnc => k.cfgGet cfgAerUnc
  | .aerUncMask => k.cfgGet cfgAerUncMask
  | .aerSev => k.cfgGet cfgAerSev
  | .aerCor => k.cfgGet cfgAerCor
  | .aerCorMask => k.cfgGet cfgAerCorMask
  | .aerCtl => k.cfgGet cfgFep + openBits 6 0x0000_1EA0
  | .aerLog n => if n < 4 then bits (k.cfgGet cfgAerLog) (32 * n + 31) (32 * n) else 0
  | .aerPrefix n => if n < 4 then bits (k.cfgGet cfgAerPrefix) (32 * n + 31) (32 * n) else 0
  | .dataLink => 0x8000_0001 + openBits 7 0x007F_FFFE
  | .phy16 => openBits 8 0xFFFF_FFFF
  | .phy32 => openBits 9 0xFFFF_FFFF
  | .phy64 => openBits 10 0xFFFF_FFFF
  | .margin => openBits 11 0xFFFF_FFFF
  | .l1Cap => 0x1F + openBits 12 0x00FB_FF00
  | .l1Ctl => k.cfgGet cfgL1
  | .capPtr => openBits 13 0xFC
  | .capHdr n =>
    if n < 3 then capIds.getD n 0 + openBits (16 + n) 0xFC00
    else if n < capIds.length then capIds.getD n 0 + openBits (16 + n) 0xFFCF_0000 else 0

/-- A write of a configuration register. (PRESUMED, unsafe: assumption 37) -/
def State.cfgWrite (s : State) (l : Nat) (r : CfgReg) (v : Nat) : State :=
  let set (s : State) (f x : Nat) : State := s.modLink l (fun k => k.cfgSet f x)
  let st (s : State) (f : Fld) (b : Nat) : State := s.p f (bits v b b)
  match r with
  | .command =>
    let s := set (st s (HOSTLINK.LINK_STAT.MSE l) 1) cfgCmd (v &&& 0x0140)
    if bit v 2 then s.bmeOn l else s.bmeOff l
  | .bar n =>
    if 6 ≤ n then s
    else if n % 2 = 0 then set s (cfgBar n) (bits v 31 (barLog2 n) * 2 ^ barLog2 n) else set s (cfgBar n) (bits v 31 0)
  | .devCtl =>
    let s := set (set s cfgRoEn (bits v 4 4)) cfgDevCtl (v &&& 0x090F)
    let s := if bits v 7 5 ≤ 3 then set s cfgMps (bits v 7 5) else s
    if bits v 14 12 ≤ 5 then set s cfgMrrs (bits v 14 12) else s
  | .devCtl2 => st (set s cfgIdoEn (bits v 8 8)) (HOSTLINK.LINK_STAT.TAG10 l) 12
  | .msixCtl => (st (set s cfgFuncMask (bits v 14 14)) (HOSTLINK.LINK_STAT.MSIX_EN l) 15).sendPending l
  | .ats => (set s cfgAts (bits v 15 15)).flushHeld l
  | .ptm => set s cfgPtm (bits v 0 0)
  | .pasid => set s cfgPasid (bits v 0 0)
  | .linkCtl => set s cfgLinkCtl (v &&& 0x03CA)
  | .pmcsr => if bits v 1 0 = 0 ∨ bits v 1 0 = 3 then set s cfgPower (bits v 1 0) else s
  | .aerUncMask => set s cfgAerUncMask (bits v 31 0)
  | .aerSev => set s cfgAerSev (bits v 31 0)
  | .aerCorMask => set s cfgAerCorMask (bits v 31 0)
  | .l1Ctl => set s cfgL1 (bits v 31 0)
  | .aerUnc => set s cfgAerUnc ((s.link l).cfgGet cfgAerUnc - ((s.link l).cfgGet cfgAerUnc &&& v))
  | .aerCor => set s cfgAerCor ((s.link l).cfgGet cfgAerCor - ((s.link l).cfgGet cfgAerCor &&& v))
  | _ => s

/-- Whether configuration requests complete normally: once the boot is over, in recovery from 800 ms (R108,
R424). -/
def State.cfgNormal (s : State) : Bool :=
  s.trust.phase == 2 || (s.trust.phase == 3 && decide (s.trust.startClk + 800 * msClk ≤ s.edryn.clk))

def execConfigRequest (l : Nat) (write : Bool) (r : CfgReg) (v : Nat) (s : State) :
    Host.Outcome State Fault Refusal :=
  onLink s l (if !s.dlUp l then s
    else if !s.cfgNormal then s.send l .cfgRrs
    else if write then (s.cfgWrite l r v).send l (.cfgCpl 0)
    else s.send l (.cfgCpl (s.cfgRead l r)))

/-! Completions. -/

/-- An unexpected completion (R114). -/
def State.unexpected (s : State) (l tag : Nat) : State :=
  let q := (tkeys (s.link l).quar).contains tag
  let s := ((s.inc (HOSTLINK.UNEXP_CPL.COUNT l)).p (HOSTLINK.UNEXP_CPL.LAST_TAG l) tag).pb (HOSTLINK.UNEXP_CPL.LAST_QUAR l) q
  ((s.evt (HOSTLINK.base l) 10).aerUnc l 16).aerCor l 13

/-- Whether a completion's byte count and lower address are those of what an outstanding read still lacks (R114). (PRESUMED, unsafe: assumption 40) -/
def HostRead.fits (r : HostRead) (bc la : Nat) : Bool :=
  bc == r.len - r.got.length && la == (r.addr + r.got.length) % 128

/-- The data of a completion for an outstanding read. -/
def State.cplData (s : State) (l tag : Nat) (r : HostRead) (data : Bytes) : State :=
  let rest := r.len - r.got.length
  if data.isEmpty ∨ rest < data.length then s.unexpected l tag
  else
    let s := s.modLink l (fun k => { k with reads := tins tag { r with got := r.got ++ data } k.reads })
    if data.length = rest then s.endRead l tag stOk none else s

/-- Unsupported Request (R115, R153). -/
def State.cplUr (s : State) (l tag : Nat) (r : HostRead) : State :=
  if r.pasid.isSome then
    (if r.dead then s else s.xlFault r.inst r.addr false).endRead l tag stXlate none
  else s.endRead l tag stHostTimeout none

/-- A completion: its tag, whether its Requester ID is that of the request, its status (0 Successful, 1
Unsupported Request, 2 Completer Abort), byte count and lower address. -/
def State.completion (s : State) (l tag : Nat) (idOk : Bool) (status bc la : Nat) (data : Bytes) : State :=
  match (s.link l).reads.find? (fun e => e.1 == tag) with
  | none => (s.unexpected l tag)
  | some (_, r) =>
    if !idOk || !r.fits bc la then s.unexpected l tag
    else match status with
      | 0 => s.cplData l tag r data
      | 2 => ((s.sealLink l 3).endRead l tag stSealed none)
      | _ => s.cplUr l tag r

def execCompletionRx (l tag : Nat) (idOk : Bool) (status bc la : Nat) (data : Bytes) (s : State) :
    Host.Outcome State Fault Refusal :=
  onLink s l (if s.dlUp l then s.completion l tag idOk status bc la data else s)

/-- A TLP that seals (R116): the tag of the read whose completion it is, if it is one. (DESIGN CHOICE, unsafe: assumption 154) -/
def State.badTlp (s : State) (l cause b : Nat) (cpl : Option Nat) : State :=
  let s := (s.aerUnc l b).sealLink l cause
  match cpl with
  | some t => s.endRead l t stSealed none
  | none => s

def execPoisonedTlp (l : Nat) (cpl : Option Nat) (s : State) : Host.Outcome State Fault Refusal :=
  onLink s l (if s.dlUp l then s.badTlp l 1 12 cpl else s)
def execMalformedTlp (l : Nat) (cpl : Option Nat) (s : State) : Host.Outcome State Fault Refusal :=
  onLink s l (if s.dlUp l then s.badTlp l 2 18 cpl else s)

/-- A Translation Request for a page of an instance has had no answer: reads that wait for the page end, and an engine
that asks again is told; a held write asks again. (PRESUMED, unsafe: assumption 40) -/
def State.xlTimeout (s : State) (l : Nat) (r : XlReq) : State :=
  let st := if s.sealed l then stSealed else stHostTimeout
  let read (x : WaitRead) : Bool := !r.write && x.inst == r.inst && x.addr / 4096 * 4096 == r.va
  let held := r.write && (s.link l).held.any (fun p => p.inst == r.inst && p.vector.isNone &&
    (pagesOf p.addr p.data.length).contains r.va)
  let ws := (s.link l).waitRd.filter read
  if held then s
  else if ws.isEmpty then { s with xlDenied := (r.inst, r.va, r.write, st) :: s.xlDenied }
  else
    let s := s.modLink l (fun k => { k with waitRd := k.waitRd.filter (fun x => !read x) })
    ws.foldl (fun s x => s.pieceDone x.job x.pos st []) s

/-- A request's time is over (R113). (PRESUMED, unsafe: assumption 40) -/
def State.cplTimeout (s : State) (l tag : Nat) : State :=
  let ms := s.g (HOSTLINK.CPL_TO.MS l)
  let end_ := s.edryn.clk + 2 * ms * msClk
  let note (s : State) : State :=
    ((s.inc (HOSTLINK.TAG_STAT.TIMEOUTS l)).evt (HOSTLINK.base l) 9).aerUnc l 14
  let close (s : State) : State := if s.gb (HOSTLINK.CPL_TO.SEAL_ON_TO l) then s.sealLink l 5 else s
  match (s.link l).reads.find? (fun e => e.1 == tag) with
  | some (_, r) =>
    if s.since r.sent < ms * 1_000_000 then s
    else close ((note s).endRead l tag stHostTimeout (some end_))
  | none =>
    match (s.link l).xlReqs.find? (fun e => e.1 == tag) with
    | none => s
    | some (_, r) =>
      if s.since r.sent < ms * 1_000_000 then s
      else
        let s := (note s).modLink l (fun k => { k with xlReqs := tdel k.xlReqs tag, quar := tins tag end_ k.quar })
        let s := (s.syncTags l).xlTimeout l r
        close ((s.flushHeld l).pumpReads l)

def execCplTimeout (l tag : Nat) (s : State) : Host.Outcome State Fault Refusal := onLink s l (s.cplTimeout l tag)

/-- A quarantine ends. -/
def execQuarantineEnd (l tag : Nat) (s : State) : Host.Outcome State Fault Refusal :=
  onLink s l (match (s.link l).quar.find? (fun e => e.1 == tag) with
    | some (_, t) =>
      if t ≤ s.edryn.clk then
        (((s.modLink l (fun k => { k with quar := tdel k.quar tag })).syncTags l).flushHeld l).pumpReads l
      else s
    | none => s)

/-! Peer windows (R120, R121). -/

/-- A shadow window as a record (R121). -/
def State.shadowWin (s : State) (l k : Nat) : BitVec 192 :=
  BitVec.ofNat 192 ((s.reg (HOSTLINK.PW_BASE.reg l k)).toNat + (s.reg (HOSTLINK.PW_TGT.reg l k)).toNat * 2 ^ 64 +
    (s.reg (HOSTLINK.PW_REQ.reg l k)).toNat * 2 ^ 128)

/-- The bytes that a window covers in the aperture. -/
def pwFrom (w : BitVec 192) : Nat := rget w PW.base * 0x1_0000
def pwSize (w : BitVec 192) : Nat := 2 ^ rget w PW.log2

/-- Whether a shadow window has the error of a code (R121); `ws` are the enabled windows with their numbers. -/
def State.pwError (s : State) (actor code : Nat) (ws : List (Nat × BitVec 192)) (e : Nat × BitVec 192) : Bool :=
  let w := e.2
  let g := rget w PW.log2
  match code with
  | 1 => ws.any (fun o => o.1 != e.1 && decide (pwFrom w < pwFrom o.2 + pwSize o.2) && decide (pwFrom o.2 < pwFrom w + pwSize w))
  | 2 => rget w PW.base == 0 || decide (0x4000_0000 < pwFrom w + pwSize w)
  | 3 => decide (g < 16) || decide (28 < g) || rget w PW.base % 2 ^ (g - 16) != 0
  | 4 =>
    let top := rget w PW.off * 0x1_0000 + pwSize w
    match rget w PW.kind with
    | 0 => decide (16 ≤ rget w PW.region) || decide (tget 0 s.rsvSize (rget w PW.region) * 0x1_0000 < top)
    | 1 => decide (12 ≤ rget w PW.hive) || decide (hsSize < top)
    | _ => true
  | _ => rget w PW.kind == 0 && s.g (COMB.RSV_CLAIM.OWNER (rget w PW.region)) != actor

/-- A commit: the first error in code order with the lowest window that has it, or all windows applied. (DEDUCED, unsafe: assumption 39) -/
def State.peerCommit (s : State) (actor l : Nat) : State :=
  let all := (List.range 64).map (fun k => (k, s.shadowWin l k))
  let ws := all.filter (fun e => rget e.2 PW.en == 1)
  let bad := [1, 2, 3, 4, 5].findSome? (fun c => (ws.find? (fun e => s.pwError actor c ws e)).map (fun e => (c, e.1)))
  match bad with
  | some (c, k) => (s.p (HOSTLINK.PEERWIN_COMMIT.ERR l) c).p (HOSTLINK.PEERWIN_COMMIT.ERR_WIN l) k
  | none =>
    let s : State := { s with peerWin := all.foldl (fun t e => tset pwReset t (l * 64 + e.1) e.2) s.peerWin }
    let s := (s.p (HOSTLINK.PEERWIN_COMMIT.ERR l) 0).p (HOSTLINK.PEERWIN_COMMIT.ERR_WIN l) 0
    (s.p (HOSTLINK.PEERWIN_EPOCH.EPOCH l) (s.g (HOSTLINK.PEERWIN_EPOCH.EPOCH l) + 1)).evt (HOSTLINK.base l) 12

def execPeerwinCommit (actor l : Nat) (v : Word) (s : State) : Host.Outcome State Fault Refusal :=
  act s actor (if 4 ≤ l then s
    else s.gated actor (HOSTLINK.PEERWIN_COMMIT.reg l) (fun s => if getF v 0 0 = 1 then s.peerCommit actor l else s))

/-- Where an accepted window puts an access: KIND, Hive or region, and offset; none where it reaches a secure
region (R346). -/
def State.pwTarget (s : State) (w : BitVec 192) (off len : Nat) : Option (Nat × Nat × Nat) :=
  let a := rget w PW.off * 0x1_0000 + (off - pwFrom w)
  if rget w PW.kind = 0 then some (0, rget w PW.region, a)
  else if s.secureFrom (rget w PW.hive) < a + len then none
  else some (1, rget w PW.hive, a)

/-- The window that takes a TLP (R120). -/
def State.pwHit (s : State) (l rid off len : Nat) (pasid write : Bool) : Option (Nat × Nat × Nat) :=
  if pasid || !bit (s.chitin 7) l then none
  else (List.range 64).findSome? (fun k =>
    let w := s.window l k
    if rget w PW.en == 1 && (if write then rget w PW.wr == 1 else rget w PW.rd == 1) && decide (pwFrom w ≤ off) &&
        decide (off + len ≤ pwFrom w + pwSize w) && (rid &&& rget w PW.ridMask) == (rget w PW.rid &&& rget w PW.ridMask)
    then s.pwTarget w off len else none)

/-- A miss (R120). -/
def State.pwMiss (s : State) (l rid off tag : Nat) (write : Bool) : State :=
  let s := ((s.inc (HOSTLINK.PW_MISS.COUNT l)).p (HOSTLINK.PW_MISS.LAST_RID l) rid).pb (HOSTLINK.PW_MISS.LAST_READ l) (!write)
  let s := (s.p (HOSTLINK.PW_MISS_ADDR.OFFSET l) off).evt (HOSTLINK.base l) 11
  if write then s else s.send l (.cplUr rid tag)

/-- A TLP to the aperture: for a read `len` bytes, for a write its data. -/
def State.peerTlp (s : State) (l rid tag off len : Nat) (pasid write : Bool) (data : Bytes) : State :=
  match s.pwHit l rid off (if write then data.length else len) pasid write with
  | none => s.pwMiss l rid off tag write
  | some (0, r, a) =>
    if write then { s with rsvMem := mwrite s.rsvMem (r * 2 ^ 24 + a) data }
    else s.send l (.cplData rid tag (mread s.rsvMem (r * 2 ^ 24 + a) len))
  | some (_, h, a) => if write then s.hsWrite h a data else s.send l (.cplData rid tag (s.hsRead h a len))

/-- Whether a link takes memory requests: it is up and its function is in D0 with Memory Space Enable. (PRESUMED, unsafe: assumption 26) -/
def State.takesMem (s : State) (l : Nat) : Bool :=
  s.dlUp l && s.gb (HOSTLINK.LINK_STAT.MSE l) && (s.link l).cfgGet cfgPower == 0

def execPeerWindowTlp (l rid tag off len : Nat) (pasid write : Bool) (data : Bytes) (s : State) :
    Host.Outcome State Fault Refusal :=
  onLink s l (if !s.dlUp l || decide (off < 0x1_0000) || decide (0x4000_0000 ≤ off) then s
    else if s.takesMem l then s.peerTlp l rid tag off len pasid write data
    else if write then s else s.send l (.cplUr rid tag))

/-! Translation (R151–R153). -/

/-- An ATS Invalidate Request: a PASID or every one, and a range. Translation Requests of its PASID keep the range. (DESIGN CHOICE, unsafe: assumption 41) -/
def State.atsInval (s : State) (l itag : Nat) (pasid : Option Nat) (all : Bool) (va size : Nat) : State :=
  let hit (p a n : Nat) : Bool := (all || pasid == some p) && overlaps va size a n
  let tags := ((s.link l).reads.filter (fun e =>
    s.atsOn e.2.inst && (all || pasid == e.2.pasid) && overlaps va size e.2.addr e.2.len)).map Prod.fst
  let s : State := { s with xl := s.xl.filter (fun e => !(e.link == l && hit e.pasid e.va (2 ^ e.log2))) }
  let stale (r : XlReq) : XlReq :=
    if all || pasid == some (s.ri r.inst IR.pasid) then
      { r with stale := r.stale || overlaps va size r.va 4096, inval := (va, size) :: r.inval } else r
  s.modLink l (fun k => { k with inval := k.inval ++ [⟨itag, tags⟩], xlReqs := k.xlReqs.map (fun e => (e.1, stale e.2)) })

def execAtsInvalidate (l itag : Nat) (pasid : Option Nat) (all : Bool) (va size : Nat) (s : State) :
    Host.Outcome State Fault Refusal :=
  onLink s l (if !s.dlUp l || decide (32 ≤ (s.link l).inval.length) then s else s.atsInval l itag pasid all va size)

/-- The first Invalidate Request whose reads are over is answered (R152). -/
def execAtsInvalidateComplete (l : Nat) (s : State) : Host.Outcome State Fault Refusal :=
  let open_ (v : AtsInv) : Bool := v.tags.any (fun t => (tkeys (s.link l).reads).contains t)
  onLink s l (match (s.link l).inval.find? (fun v => !open_ v) with
    | some v =>
      ((s.modLink l (fun k => { k with inval := k.inval.erase v })).send l (.invalCpl v.itag)).inc INST.ATC_STAT.INVALS
    | none => s)

/-- A translation enters the cache; a full one gives up an entry that the spec does not name. (DESIGN CHOICE, safe: assumption 43) -/
def State.xlInsert (s : State) (e : XlEntry) : State :=
  if s.xl.length < 32768 then { s with xl := e :: s.xl }
  else
    let (v, s) := s.fresh
    { s with xl := e :: s.xl.eraseIdx (v.toNat % s.xl.length) }

/-- A translation that is denied: the fault's record; held writes of the page go and reads that wait for it
end, or an engine that asks again is told (R153). -/
def State.xlDeny (s : State) (l i va : Nat) (w : Bool) : State :=
  let s := s.xlFault i va w
  let wrote (p : Posted) : Bool := w && p.inst == i && p.vector.isNone && (pagesOf p.addr p.data.length).contains va
  let read (x : WaitRead) : Bool := !w && x.inst == i && x.addr / 4096 * 4096 == va
  let ws := (s.link l).waitRd.filter read
  if ws.isEmpty && !(s.link l).held.any wrote then { s with xlDenied := (i, va, w, stXlate) :: s.xlDenied }
  else
    let s := s.modLink l (fun k => { k with held := k.held.filter (fun p => !wrote p), waitRd := k.waitRd.filter (fun x => !read x) })
    ws.foldl (fun s x => s.pieceDone x.job x.pos stXlate []) s

/-- Whether a Translation Completion's answer may not be used: an Invalidate Request since the request overlaps the
page (R152). -/
def XlReq.overtaken (r : XlReq) (log2 : Nat) : Bool :=
  r.stale || r.inval.any (fun v => overlaps v.1 v.2 (r.va / 2 ^ log2 * 2 ^ log2) (2 ^ log2))

/-- A Translation Completion: whether its Requester ID, byte count and lower address are those of the request
(R114), its status (0 Successful, 1 Unsupported Request, 2 Completer Abort), the page and its permissions. (DESIGN CHOICE, unsafe: assumption 154) -/
def State.translated (s : State) (l tag : Nat) (ok : Bool) (status pa log2 : Nat) (rd wr : Bool) : State :=
  match (s.link l).xlReqs.find? (fun e => e.1 == tag) with
  | none => s.unexpected l tag
  | some (_, r) =>
    if !ok then s.unexpected l tag
    else
      let s := (s.modLink l (fun k => { k with xlReqs := tdel k.xlReqs tag })).syncTags l
      let s := if status = 2 then s.sealLink l 3 else s
      let s :=
        if r.stale || (status == 0 && r.overtaken log2) then (if s.instSealed r.inst then s else s.requestXl r.inst r.va r.write)
        else if status = 0 ∧ (if r.write then wr else rd) ∧ 12 ≤ log2 ∧ log2 ≤ 30 then
          s.xlInsert ⟨l, s.ri r.inst IR.pasid, r.inst, r.va / 2 ^ log2 * 2 ^ log2, log2, pa / 2 ^ log2 * 2 ^ log2, rd, wr⟩
        else s.xlDeny l r.inst r.va r.write
      (s.flushHeld l).pumpReads l

/-- `status` 8 and above stands for one that contradicts its request. (PRESUMED, unsafe: assumption 40) -/
def execTranslationCompletion (l tag status pa log2 : Nat) (rd wr : Bool) (s : State) :
    Host.Outcome State Fault Refusal :=
  onLink s l (if s.dlUp l then s.translated l tag (decide (status < 8)) status pa log2 rd wr else s)

/-! The order probe (R133, R134). -/

/-- Whether writes generated before a probe are still held. -/
def State.probeWaits (s : State) (l seq : Nat) : Bool := (s.link l).held.any (fun p => decide (p.seq < seq))

/-- What a probe reads now, where it need not wait. -/
def State.probeValue (s : State) (l seq : Nat) : Option Nat :=
  if s.sealed l then some (2 ^ 64 - 1)
  else if !s.bme l then some 0
  else if s.probeWaits l seq then none
  else some s.ns

/-- A 64-bit read of an instance's ORDER_PROBE through the BAR2 of link `l`: all ones for an instance that does not
exist or is sealed, 0 while BME is 0, else it waits (R45, R117, R133, R134). (DEDUCED, unsafe: assumption 27) -/
def State.probe (s : State) (l i rid tag : Nat) : State :=
  let m := s.linkOf i
  if !s.instLive i || s.sealed m then s.send l (.cplData rid tag (leBytes 8 (2 ^ 64 - 1)))
  else if s.domDown 1 then s.send l (.cplUr rid tag)
  else if !s.bme m then s.send l (.cplData rid tag (leBytes 8 0))
  else s.modLink m (fun k => { k with probes := k.probes ++ [(l, rid, tag, k.seq)] })

/-- The link through which a probe's operand reads its instance's page. (DEDUCED, unsafe: assumption 27) -/
def State.probeLink (s : State) (x : Nat) : Nat := if x < 2048 then s.linkOf x else x / 2048 - 1

/-- (DEDUCED, unsafe: assumption 27) -/
def execOrderProbe (x rid tag : Nat) (s : State) : Host.Outcome State Fault Refusal :=
  let l := s.probeLink x
  onLink s l (if !s.dlUp l then s
    else if s.takesMem l then s.probe l (x % 2048) rid tag else s.send l (.cplUr rid tag))

/-- The first probe of a link whose writes have gone completes, on the link that carried it. -/
def State.probeDone (s : State) (l : Nat) : State :=
  match (s.link l).probes.find? (fun p => (s.probeValue l p.2.2.2).isSome) with
  | some p =>
    (s.modLink l (fun k => { k with probes := k.probes.erase p })).send p.1
      (.cplData p.2.1 p.2.2.1 (leBytes 8 ((s.probeValue l p.2.2.2).getD 0)))
  | none => s

def execOrderProbeComplete (l : Nat) (s : State) : Host.Outcome State Fault Refusal := onLink s l (s.probeDone l)

end Sys2Proof.Machine
end

