-- ==== Sys2Proof/Machine/Access.lean ====
section
/-! DEFINITION. Register reads and writes by address (R34–R38, R46, R10, R432), host TLPs to the three BARs
(R35, R39, R44, R45, R117), and the JTAG port (R437). -/

namespace Sys2Proof.Machine

/-! What an access reaches. -/

/-- The bits of an aligned 64-bit register that an access of an address reaches: all, or one half (R34). -/
def reach (a : Nat) (wide : Bool) : Word :=
  if wide then BitVec.allOnes 64 else if a % 8 = 0 then 0xFFFF_FFFF else 0xFFFF_FFFF_0000_0000
/-- A written value at its place in the register. (DEDUCED, unsafe: assumption 18) -/
def placed (a : Nat) (wide : Bool) (v : Word) : Word :=
  if wide then v else if a % 8 = 0 then v &&& 0xFFFF_FFFF else v <<< 32
/-- What a read returns of a register's value: 32 bits in the low half. -/
def taken (a : Nat) (wide : Bool) (v : Nat) : Nat :=
  if wide then v else if a % 8 = 0 then v % 2 ^ 32 else v / 2 ^ 32

/-- The bits of a register whose fields have one of some access types. -/
def accMask (r : RegDesc) (p : Acc → Bool) : Word :=
  r.fields.foldl (fun w f => if p f.acc then w ||| BitVec.ofNat 64 (2 ^ (f.hi + 1) - 2 ^ f.lo) else w) 0

/-- A register write by the field types of R10: RW sets, W1C clears, W1S sets, the rest ignores. (DEDUCED, unsafe: assumption 18) -/
def plainWrite (r : RegDesc) (old w : Word) : Word :=
  let rw := accMask r (fun a => a == .rw)
  let clr := w &&& accMask r (fun a => a == .w1c)
  let set := w &&& accMask r (fun a => a == .w1s)
  ((((old &&& ~~~rw) ||| (w &&& rw)) &&& ~~~clr) ||| set)
/-- (DEDUCED, unsafe: assumption 18) (DESIGN CHOICE, unsafe: assumption 19) -/
def State.plain (s : State) (b : Nat) (r : RegDesc) (w : Word) : State := s.setReg b (plainWrite r (s.reg b) w)

/-- Whether an offset of a unit lies in its table access port. -/
def inTap (u : UnitInfo) (off : Nat) : Bool := hasTap u.type && decide (0x100 ≤ off) && decide (off < 0x180)
/-- Whether it lies in a channel block of a WAGGLE. -/
def inChan (u : UnitInfo) (off : Nat) : Bool := u.type == .waggle && decide (0x1_0000 ≤ off)
/-- The number that WAGGLE commands give a WAGGLE unit. -/
def wagNo (u : UnitInfo) : Nat := if u.base = WAGGLE.base 0 then 0 else (u.parent - HIVE.base 0) / 0x40_0000 + 1

/-! Values that reads compute. -/

/-- Fields put together: bit position and value. -/
def pack (l : List (Nat × Nat)) : Nat := l.foldl (fun a e => a + e.2 * 2 ^ e.1) 0

/-- A unit's header (R46, R47, R51). -/
def State.viewHeader (s : State) (u : UnitInfo) (off : Nat) : Nat :=
  let x := s.reg (u.base + off)
  let n := (childBases u.base).length
  match off with
  | 0x00 => pack [(0, u.type.code), (16, u.inst), (32, 1), (40, 1)]
  | 0x08 => pack [(0, n), (16, if n = 0 then 0 else 0x800), (48, u.page), (56, b2n (hasTap u.type))]
  | 0x10 => setBits x.toNat 3 0 (s.cur u.base)
  | 0x18 => setBits x.toNat 7 0 (s.evtCommon u.base)
  | 0x30 =>
    if u.dom = 255 then 0xFF
    else
      let votes := ((List.range 32).filter (fun k => (s.vote u.dom k).value != 3)).foldl (fun a k => a + 2 ^ k) 0
      pack [(0, u.dom), (8, s.domState u.dom), (12, if u.dom = 0 then 0 else s.targetOf u.dom), (16, votes)]
  | _ => x.toNat

/-- An entry of a parent's child list (R46). -/
def State.childEntry (u : UnitInfo) (k : Nat) : Nat :=
  match (childBases u.base)[k]? with
  | some c => pack [(0, c - u.base), (32, ((unitAt c).map (fun i => i.type.code)).getD 0)]
  | none => 0

/-- CLASS: versions and rule counts. -/
def State.viewClass (s : State) (off x : Nat) : Nat :=
  match off with
  | 0x40 => pack [(0, s.seq % 256), (8, s.oldest % 256), (16, s.nlive)]
  | 0xA0 => pack [(0, s.ruleCount 3), (32, s.ruleCount 2)]
  | 0xA8 => pack [(0, s.ruleCount 4), (32, 65536 - s.ruleCount 1 - s.ruleCount 2 - s.ruleCount 3 - s.ruleCount 4)]
  | _ =>
    if 0x80 ≤ off ∧ off < 0xA0 then
      let k := (off - 0x80) / 8
      if k < s.nlive then pack [(0, s.holders (s.oldest + k)), (32, (s.oldest + k) % 256)] else 0
    else x

/-- The selected slot of SCARAB. (DEDUCED, unsafe: assumption 23) -/
def State.viewSlot (s : State) (off x : Nat) : Nat :=
  let n := s.g SCARAB.SLOT_SEL.SLOT
  match off with
  | 0x78 => pack [(0, s.slotState n), (3, b2n (s.hasPend n)), (4, s.draining n), (16, s.kg n KS.gen)]
  | 0x80 => pack [(0, s.slotCur n), (32, s.slotOld n)]
  | _ => x

/-- INST: pools and the translation cache. -/
def State.viewInst (s : State) (off x : Nat) : Nat :=
  let pool (used : List (Nat × Nat)) (n : Nat) : Nat := pack [(0, (poolFigures used n).1), (32, (poolFigures used n).2)]
  match off with
  | 0x50 => pool (s.ranges IR.wqBase IR.nwq) wqPool
  | 0x58 => pool (s.ranges IR.crBase IR.ncr) crPool
  | 0x60 => pool (s.ranges IR.intBase IR.nint) intPool
  | 0x68 => pool (s.ranges IR.leafBase IR.nleaf) leafPool
  | 0x70 => setBits x 15 0 s.xl.length
  | _ => x

/-- A thread's state word (R348, R350). -/
def State.viewThread (s : State) (t : Nat) : Nat :=
  let v := s.th t
  pack [(0, v.state), (8, v.lastFault), (16, v.pending), (32, v.mask), (48, b2n (s.secThread t)),
    (49, b2n (!v.staging.isEmpty))]

/-- What a register outside headers, ports and channels shows, without any effect; `i` is the copy's number. -/
def State.viewUnit (s : State) (actor : Nat) (u : UnitInfo) (off i x : Nat) : Nat :=
  match u.type with
  | .root => if off = 0x40 then actor else x
  | .edryn => if off = 0x48 then tget 0 s.edryn.latch actor
      else if off = 0x40 then s.ns
      else if off = 0x58 then setBits x 47 0 (wrapInt 48 s.slewLeft) else x
  | .hostlink => if 0x1000 ≤ off ∧ off < 0x1800 then
      getF (s.window u.inst i) (off % 0x20 / 8 * 64 + 63) (off % 0x20 / 8 * 64) else x
  | .inst => s.viewInst off x
  | .class => s.viewClass off x
  | .flow => if off = 0x50 then pack [(0, s.ctxCount 1), (32, s.ctxCount 2)] else x
  | .comb => if off = 0x40 then pack [(0, s.poolSize), (32, s.poolFree)] else x
  | .beeline => if 0x100 ≤ off then setBits (setBits x 1 1 (s.g (PORT.PREEMPT.ACTIVE i))) 15 8 (holdNs (s.portRate i)) else x
  | .scarab => s.viewSlot off x
  | .hive => if 0x200 ≤ off then s.viewThread (u.inst * 64 + i)
      else if off = 0x68 then setBits x 32 32 (b2n (s.domUp u.dom && s.stallNow u.inst)) else x
  | .pwr => if 0x200 ≤ off ∧ off % 16 = 8 then setBits x 7 4 (s.targetOf i)
      else if 0x200 ≤ off then b2n (s.lockdown i) else x
  | .pin => if 0x100 ≤ off ∧ off % 16 = 0 then setBits x 2 2 (b2n (s.ballNow i)) else x
  | _ => x

/-- What a register shows an actor, without any effect. -/
def State.view (s : State) (actor : Nat) (u : UnitInfo) (i b : Nat) : Nat :=
  let off := b - u.base
  let x := (s.reg b).toNat
  if off < 0x40 then s.viewHeader u off
  else if inTap u off then (if 0x140 ≤ off ∧ s.tapHolder u.base ≠ 0 ∧ s.tapHolder u.base ≠ actor then 0 else x)
  else s.viewUnit actor u off i x

/-- The level on each ball as `GPIO_IN` samples it: what the device drives, and a free level where the board
or a running function drives. (DESIGN CHOICE, safe: assumption 22) -/
def State.gpioIn (s : State) : Nat × State :=
  let (f, s) := s.fresh
  let lvl (g : Nat) : Nat :=
    if s.ballNow g then
      if 12 ≤ g then
        let o := s.ffOut (g - 12)
        if o.cfg.mode = 3 then
          (if s.rclkLive (s.g (EDRYN.FF_CTL.RCLK_SEL (g - 12))) then bits f.toNat g g else o.cfg.pol)
        else b2n (o.level != (o.cfg.pol == 1))
      else if 10 ≤ g ∧ !s.rclkLive (g - 10) then 0
      else bits f.toNat g g
    else if bit (s.g PIN.GPIO_OE.OE) g then bits (s.g PIN.GPIO_OUT.OUT) g g
    else bits f.toNat g g
  (pack ((List.range 16).map (fun g => (g, lvl g))), s)

/-! Reads. -/

/-- A register of a channel block at an offset in it (R380–R386). -/
def State.chanRead (s : State) (actor w c off : Nat) (wide : Bool) : RdRes × State :=
  let o := off / 8 * 8
  if o < 0x20 then s.mbRead actor w c (o / 8) wide
  else if o = 0x20 ∨ o = 0x28 then
    match s.chRead actor w c o with
    | (.val v, s) => (.val (taken off wide v), s)
    | x => x
  else (.val 0, s)

/-- The effect of a read of a register that only 64-bit reads take: its fields of type RC are cleared (R10). -/
def State.rcClear (s : State) (b : Nat) (r : RegDesc) : State :=
  s.setReg b (s.reg b &&& ~~~accMask r (fun a => a == .rc))

/-- A read of a listed register outside channel blocks. -/
def State.readListed (s : State) (actor : Nat) (u : UnitInfo) (r : RegDesc) (i a : Nat) (wide : Bool) : RdRes × State :=
  let b := a / 8 * 8
  let off := b - u.base
  if u.type = .waggle ∧ r.off = 0x1000 then s.lockRead actor (wagNo u) i wide
  else if b = EDRYN.TIME_NS.reg then
    if !wide then (.val 0xFFFF_FFFF, s.evtErr EDRYN.base)
    else (.val s.ns, s.modEdryn (fun e => { e with latch := tset 0 e.latch actor (e.time % nsUnit) }))
  else if b = PIN.GPIO_IN.reg then
    let x := s.gpioIn
    (.val (taken a wide x.1), x.2)
  else if r.fields.any (fun f => f.acc == .rc) then
    if !wide then (.val 0xFFFF_FFFF, s.evtErr u.base)
    else (.val (s.view actor u i b), s.rcClear b r)
  else
    let s := if inTap u off && s.tapHolder u.base == actor then s.tapTouch u.base else s
    (.val (taken a wide (s.view actor u i b)), s)

/-- A read of a BAR0 address (R34, R37, R38). -/
def State.regRead (s : State) (actor a : Nat) (wide : Bool) : RdRes × State :=
  let b := a / 8 * 8
  match unitAt b with
  | none => (.val 0, s)
  | some u =>
    let off := b - u.base
    if 0x800 ≤ off ∧ off < 0x800 + 8 * (childBases u.base).length then
      (.val (taken a wide (State.childEntry u ((off - 0x800) / 8))), s)
    else match regAt b with
    | none => (.val 0, s)
    | some (u, r, i) =>
      if inChan u off then s.chanRead actor (wagNo u) i ((a - u.base) % 0x40) wide
      else if 0x40 ≤ off ∧ s.domDown u.dom then (.err false, s)
      else s.readListed actor u r i a wide

/-! Writes. -/

/-- A header register (R46–R53, R57). -/
def State.writeHeader (s : State) (actor : Nat) (u : UnitInfo) (off : Nat) (w m : Word) : State :=
  match off with
  | 0x10 => if getF m 0 0 = 1 then s.svcRequest actor u (getF w 11 8) else s
  | 0x18 => s.headerWrite actor u (fun s => s.evtClear u.base w)
  | 0x20 => s.headerWrite actor u (fun s => s.withDevEvent (s.setReg (u.base + 0x20) w))
  | 0x28 => s.headerWrite actor u (fun s => if getF w 63 63 = 1 then s.faultClear u.base else s)
  | _ => s.headerWrite actor u id

/-- The table access port (R55, R56). -/
def State.writeTap (s : State) (actor : Nat) (u : UnitInfo) (off : Nat) (w m : Word) : State :=
  if off = 0x100 then s.tapPort actor u true (fun s => s.tapSetAddr u.base w)
  else if off = 0x108 then (if getF m 0 0 = 1 then s.tapCmd actor u (getF w 3 0) else s)
  else if 0x140 ≤ off then s.tapPort actor u true (fun s => s.p (TAP.DATA.DATA u.base ((off - 0x140) / 8)) w.toNat)
  else s.tapPort actor u false id

/-- EDRYN: the registers whose writes do more than set fields. -/
def State.writeEdryn (s : State) (r : RegDesc) (i b : Nat) (w : Word) : State :=
  match r.off with
  | 0x58 => s.adjPhase w
  | 0x60 => s.edrynStep w.toNat
  | 0x78 => s.servoWrite w.toNat
  | 0x88 => if s.g EDRYN.TRACE.STATE = tAcquiring ∨ s.g EDRYN.TRACE.STATE = tLocked then s.plain b r w else s
  | 0xA0 =>
    let v := w.toInt
    (s.plain b r w).modEdryn (fun e => { e with
      evMin := some (match e.evMin with | some x => min x v | none => v),
      evMax := some (match e.evMax with | some x => max x v | none => v) })
  | 0x200 => s.withBalls (s.ffWrite i 0 w)
  | 0x208 => s.ffWrite i 1 w
  | 0x210 => s.ffWrite i 2 w
  | 0x218 => s.ffWrite i 3 w
  | _ => s.withBalls (s.plain b r w)

/-- TRIG (R91, R102): bits of PEND follow the claim word of their comparator. -/
def State.writeTrig (s : State) (actor : Nat) (r : RegDesc) (i b : Nat) (w : Word) : State :=
  if r.off = 0x40 then
    (List.range 64).foldl (fun s k =>
      if getF w k k = 0 then s
      else if s.claimAllows (TRIG.CLAIM.reg (64 * i + k)) actor then s.setReg b (putF (s.reg b) k k 0)
      else s.evtConflict TRIG.base) s
  else if r.off = 0x1000 then s.trigCtl actor i w
  else if s.trigArmed i then s.evtErr TRIG.base
  else s.plain b r w

/-- HOSTLINK (R113, R121, R123). -/
def State.writeLink (s : State) (actor l : Nat) (r : RegDesc) (b : Nat) (w : Word) : State :=
  match r.off with
  | 0x48 => if getF w 6 0 = 0 ∨ 64 < getF w 6 0 then s.evtErr (HOSTLINK.base l) else s.plain b r w
  | 0x78 => s.devEvtWrite l w
  | 0x80 => if getF w 0 0 = 1 then s.peerCommit actor l else s
  | _ => s.plain b r w

/-- COMB (R250): a write that leaves the shared pool too small is ignored. (DEDUCED, unsafe: assumption 20) -/
def State.writeComb (s : State) (r : RegDesc) (b : Nat) (w : Word) : State :=
  let t := s.plain b r w
  match r.off with
  | 0x48 => if t.carveOk then s.poolMoved t else s.evtErr COMB.base
  | 0x50 => if getF w 50 32 < getF w 18 0 then s.evtErr COMB.base else s.poolMoved t
  | _ => t

/-- SCARAB (R289, R290, R305, R309). (DESIGN CHOICE, unsafe: assumption 24) -/
def State.writeScarab (s : State) (actor : Nat) (r : RegDesc) (b : Nat) (w : Word) : State :=
  match r.off with
  | 0x60 =>
    let s := if getF w 0 0 = 1 then s.progVerify else s
    let s := if getF w 1 1 = 1 then s.progRoll else s
    if getF w 2 2 = 1 then s.progDiscard else s
  | 0x78 => s.slotCtl (getF w 15 8)
  | 0x88 =>
    let busy := s.slots.any (fun e => rget e.2 KS.state == 1 && rget e.2 KS.use == 2 && rget e.2 KS.dec == 1 &&
      rget e.2 KS.window != 0)
    if busy then s.evtErr SCARAB.base else s.plain b r w
  | 0x90 => s.tlsSyncWrite actor w
  | _ => s.plain b r w

/-- A consumer index of a Hive's ring: a value beyond PROD is ignored (R356). -/
def State.writeCons (s : State) (h : Nat) (r : RegDesc) (b : Nat) (w : Word) : State :=
  let x := s.reg b
  let p := getF x 31 0
  let c := getF x 63 32
  if sub32 p c < sub32 (getF w 63 32) c then s.evtErr (HIVE.base h) else (s.plain b r w).svcPump

/-- HIVE (R356, R360). -/
def State.writeHive (s : State) (actor h : Nat) (r : RegDesc) (b : Nat) (w : Word) : State :=
  match r.off with
  | 0x48 =>
    let ends (base lg per : Nat) : Bool := lg != 0 && decide (hsSize < base * 128 + 2 ^ lg * per)
    let used (x : Word) : Bool := getF x 31 0 != getF x 63 32
    if used (s.reg (HIVE.INTAKE_IDX.reg h)) || used (s.reg (HIVE.TXTS_IDX.reg h)) ||
        ends (getF w 14 0) (getF w 19 16) 128 || ends (getF w 46 32) (getF w 51 48) 16 then s.evtErr (HIVE.base h)
    else ((s.plain b r w).modHv h (fun v => { v with cfgClk := s.edryn.clk })).svcPump
  | 0x50 => s.writeCons h r b w
  | 0x58 => s.writeCons h r b w
  | 0x88 => s.migrateWrite actor h w
  | _ => s.plain b r w

/-- PWR (R398, R402, R407, R409). -/
def State.writePwr (s : State) (actor : Nat) (r : RegDesc) (i b : Nat) (w : Word) : State :=
  match r.off with
  | 0x40 => s.voteWrite actor w
  | 0x48 => s.offWrite actor w
  | 0x200 =>
    let s := if s.domState i = 11 then s else s.p (PWR.DOM_CTL.LOCKDOWN i) (getF w 0 0)
    if getF w 1 1 = 1 then s.domainRetry i else s
  | _ => s.plain b r w

/-- FWC (R413, R419): source 2's window and threshold are Chitin's. -/
def State.writeFwc (s : State) (r : RegDesc) (i b : Nat) (w : Word) : State :=
  if r.off ≠ 0x40 then s.plain b r w
  else
    let w := if i = 2 then (w &&& 0xFFFF_0000_0000_0000) ||| (s.reg b &&& 0x0000_FFFF_FFFF_FFFF) else w
    if getF w 31 0 = 0 ∨ getF w 47 32 = 0 then s.evtErr FWC.base else s.plain b r w

/-- PORT (R440, R444, R445, R448). (DEDUCED, unsafe: assumption 20) -/
def State.writePort (s : State) (p : Nat) (r : RegDesc) (b : Nat) (w : Word) : State :=
  let c := s.cur (PORT.base p)
  match r.off with
  | 0x40 => s.portMode p w
  | 0x50 =>
    let x := s.reg b
    if (getF w 24 24 = 1 ∧ getF w 23 16 ≠ 0) ∨ (c ≠ svcOut ∧ getF w 24 16 ≠ getF x 24 16) then s.evtErr (PORT.base p)
    else s.plain b r w
  | 0x60 => (s.plain b r w).preemptCfg p
  | 0x70 => if c = svcOut ∨ c = svcUpdating then s.plain b r w else s.evtErr (PORT.base p)
  | _ => s.plain b r w

/-- PIN (R458, R459): bits of GPIO_OUT and GPIO_OE follow the claim word of their GPIO. (DESIGN CHOICE, unsafe: assumption 21) -/
def State.writePin (s : State) (actor : Nat) (r : RegDesc) (i b : Nat) (w : Word) : State :=
  match r.off with
  | 0x100 =>
    if i < 8 then s
    else if getF w 1 0 = 3 then s.evtErr PIN.base
    else s.withBalls (s.plain b r w)
  | 0x58 => s.plain b r w
  | _ =>
    (List.range 16).foldl (fun s g =>
      if getF w g g = getF (s.reg b) g g then s
      else if s.claimAllows (PIN.CLAIM.reg g) actor then s.setReg b (putF (s.reg b) g g (getF w g g))
      else s.evtConflict PIN.base) s

/-- The doorbell configuration of a WAGGLE: threads of a Hive, or a vector and link of the device's (R388). -/
def State.writeWag (s : State) (u : UnitInfo) (r : RegDesc) (b : Nat) (w : Word) : State :=
  if r.off = 0x2000 then
    if wagNo u = 0 then s.setReg b (w &&& 0x77FF)
    else (s.setReg b w).modHv (wagNo u - 1) (fun v => { v with cfgClk := s.edryn.clk })
  else s.plain b r w

/-- A register that a unit's claim and Chitin govern, past those checks. (DESIGN CHOICE, unsafe: assumption 19) (DEDUCED, unsafe: assumption 20) -/
def State.writeUnit (s : State) (actor : Nat) (u : UnitInfo) (r : RegDesc) (i b : Nat) (w m : Word) : State :=
  let low := getF m 0 0 == 1
  match u.type with
  | .edryn => s.writeEdryn r i b w
  | .trig => s.writeTrig actor r i b w
  | .hostlink => s.writeLink actor u.inst r b w
  | .inst => if r.off = 0x40 then (if low then s.instWrite actor (getF w 3 0) (getF w 5 4) (getF w 26 16) (getF w 63 32) else s)
      else s.plain b r w
  | .ring => if low then s.ringCommand actor (getF w 3 0) (getF w 4 4 == 1) (getF w 24 8) else s
  | .flow =>
    if r.off = 0x40 ∧ s.ctxCount 1 ≠ 0 then s.evtErr FLOW.base
    else if r.off = 0x70 ∧ (getF w 15 0 < 100 ∨ 60000 < getF w 15 0) then s.evtErr FLOW.base
    else s.plain b r w
  | .comb => s.writeComb r b w
  | .scarab => s.writeScarab actor r b w
  | .stor => if getF w 0 0 = 1 then s.mapFence else s
  | .hive => if r.off = 0x88 ∧ !low then s else s.writeHive actor u.inst r b w
  | .waggle => s.writeWag u r b w
  | .pwr => if (r.off = 0x40 ∨ r.off = 0x48) ∧ !low then s else s.writePwr actor r i b w
  | .fwc => s.writeFwc r i b w
  | .keeper => if getF w 0 0 = 1 then s.recover else s
  | .chitin => if getF w 0 0 = 0 then s else if actor ≠ s.owner then s.evtErr CHITIN.base else s.chitinSubmit 1 s.stagedRecord
  | .port => s.writePort u.inst r b w
  | .pin => s.writePin actor r i b w
  | _ => s.plain b r w

/-- A channel block's register: the error response of the write, if any. -/
def State.chanWrite (s : State) (actor w c off : Nat) (v : Word) : Option Bool × State :=
  if off < 0x20 then s.mbWrite actor w c (off / 8) v
  else if off = 0x20 then s.chStatWrite actor w c v
  else if off = 0x28 then s.chCfgWrite actor w c v
  else (none, s)

/-- A write of a listed register outside channel blocks. -/
def State.writeListed (s : State) (actor : Nat) (u : UnitInfo) (r : RegDesc) (i b : Nat) (w m : Word) : State :=
  let off := b - u.base
  let open_ := m &&& accMask r (fun a => a == .rw || a == .w1c || a == .w1s || a == .wo)
  match claimUnit b with
  | some c => s.claimGate b c (s.claimWrite actor b c w)
  | none =>
    if off < 0x40 then s.writeHeader actor u off w m
    else if s.domDown u.dom then s.inc ROOT.DROPPED_WRITES.COUNT
    else if inTap u off then s.writeTap actor u off w m
    else if u.type = .class ∧ off = 0x50 then (if getF m 0 0 = 1 then s.commitWrite actor (getF w 7 0) else s)
    else if u.type = .hive ∧ off = 0xA0 then s.threadCtl actor u.inst (getF w 5 0) (getF w 11 8) (getF w 34 16)
    else if u.type = .waggle ∧ r.off = 0x1000 then s.lockWrite actor (wagNo u) i w
    else if u.type = .waggle ∧ r.off = 0x2008 then s.dbWrite actor (wagNo u) i w
    else if u.type = .hostif ∧ off = 0x40 then s.sealWrite actor w
    else if u.type = .forager ∧ 0x1000 ≤ off ∧ !foragerActor actor then s.evtErr FORAGER.base
    else if u.type = .forager ∧ r.off = 0x1008 then (if getF m 0 0 = 1 then s.chCommand actor i (getF w 3 0) else s)
    else s.gated actor b (fun s =>
      if open_ = 0 then s
      else if u.type = .forager ∧ r.off = 0x1000 then s.chDoorbell i (getF w 31 0)
      else s.writeUnit actor u r i b w m)

/-- A write to a BAR0 address: the error response, for a channel block, and the state (R34, R37). The half of
the register that a 32-bit write leaves out keeps its fields of type RW; elsewhere it writes nothing. -/
def State.regWrite (s : State) (actor a : Nat) (wide : Bool) (v : Word) : Option Bool × State :=
  let b := a / 8 * 8
  match regAt b with
  | none => (none, s)
  | some (u, r, i) =>
    let m := reach a wide
    let keep := accMask r (fun x => x == .rw) &&& ~~~m
    let old := if inChan u (b - u.base) then s.reg b else BitVec.ofNat 64 (s.view actor u i b)
    let w := (placed a wide v &&& m) ||| (old &&& keep)
    if inChan u (b - u.base) then s.chanWrite actor (wagNo u) i ((b - u.base) % 0x40) w
    else (none, s.writeListed actor u r i b w m)

/-! Instance pages (R44, R45, R117, R184). -/

/-- The ring that an instance's ISEL selects: its context's fields, or zeros where the instance has no such ring. (DEDUCED, unsafe: assumption 23) -/
def State.iselRing (s : State) (n : Nat) : Nat × Nat × Nat × Nat × Nat × Nat × Nat :=
  let k := s.g (IPAGE.ISEL.LOCAL n)
  if s.gb (IPAGE.ISEL.CR n) then
    if s.ri n IR.ncr ≤ k then (0, 0, 0, 0, 0, 0, 0)
    else
      let c := s.ri n IR.crBase + k
      (s.crg c CR.state + 16 * s.crg c CR.rem, 0, 0, s.crg c CR.prod, s.crg c CR.cons, s.crg c CR.reserved, s.crg c CR.shadowed)
  else if s.ri n IR.nwq ≤ k then (0, 0, 0, 0, 0, 0, 0)
  else
    let w := s.ri n IR.wqBase + k
    (s.wqg w WQ.state + 16 * s.wqg w WQ.rem, s.wqg w WQ.reason, s.wqg w WQ.errIndex, s.wqg w WQ.prod, s.wqg w WQ.retire,
      s.wqg w WQ.fetch, s.wqg w WQ.errProd)

/-- The instance status registers. -/
def State.pageStatus (s : State) (n off : Nat) : Nat :=
  let (st, reason, index, prod, tail, mid, extra) := s.iselRing n
  match off with
  | 0xE010 => (s.reg (IPAGE.base n + 0xE010)).toNat
  | 0xE018 => pack [(0, st), (8, reason), (16, tget 0 s.icmd n), (32, index)]
  | 0xE020 => pack [(0, prod), (32, tail)]
  | 0xE028 => pack [(0, mid), (32, extra)]
  | _ => 0

/-- A read through an instance page; a 64-bit read of `ORDER_PROBE` is the host's and is not here. (DESIGN CHOICE, unsafe: assumption 124) -/
def State.pageGet (s : State) (n off : Nat) (wide : Bool) : RdRes × State :=
  let b := off / 8 * 8
  if !s.instLive n ∨ s.instSealed n then (.val (if wide then 2 ^ 64 - 1 else 2 ^ 32 - 1), s)
  else if b < 0xC000 then (.val 0, s)
  else if b < 0xC040 then s.chanRead (0x100 + n) 0 n (off - 0xC000) wide
  else if b < 0xD000 then (.val 0, s)
  else if b = 0xD008 then
    if !wide then (.val 0xFFFF_FFFF, s.evtErr EDRYN.base)
    else (.val s.ns, s.modEdryn (fun e => { e with latch := tset 0 e.latch (0x1_0000 + n) (e.time % nsUnit) }))
  else if b < 0xE000 then (.val (taken off wide (s.pageRead n (b - 0xD000))), s)
  else if 0xE030 ≤ b then (.val 0, s)
  else if s.domDown 1 then (.err false, s)
  else if b = 0xE000 then (if wide then (.val 0, s) else (.val 0xFFFF_FFFF, s.evtErr RING.base))
  else (.val (taken off wide (s.pageStatus n b)), s)

/-- A write through an instance page. (DESIGN CHOICE, unsafe: assumption 124) -/
def State.pagePut (s : State) (n off : Nat) (wide : Bool) (v : Word) : State :=
  let b := off / 8 * 8
  if !s.instLive n ∨ s.instSealed n then s
  else if b < 0xC000 ∨ b = 0xE008 then s.pageWrite n off wide v
  else if b < 0xC040 then
    let c := WAGGLE.base 0 + 0x1_0000 + 0x40 * n + (b - 0xC000)
    (s.regWrite (0x100 + n) (c + off % 8) wide v).2
  else if b = 0xE010 then
    if s.domDown 1 then s.inc ROOT.DROPPED_WRITES.COUNT
    else
      let m := reach off wide &&& 0x0FFF_0001
      let a := IPAGE.base n + 0xE010
      s.setReg a ((s.reg a &&& ~~~m) ||| (placed off wide v &&& m))
  else s

/-! The commands. -/

/-- A write by an actor: a BAR0 address, or for an instance an offset in its page. -/
def State.actorWrite (s : State) (actor addr : Nat) (wide : Bool) (v : Word) : State :=
  if isInst actor then s.pagePut (actor - 0x100) (addr % 0x1_0000) wide v
  else
    let x := s.regWrite actor addr wide v
    match x.1 with
    | some _ => if isThread actor || actor == 0x2001 then x.2.emit (.regError actor addr) else x.2
    | none => x.2
/-- A read by an actor. -/
def State.actorRead (s : State) (actor addr : Nat) (wide : Bool) : State :=
  let x := if isInst actor then s.pageGet (actor - 0x100) (addr % 0x1_0000) wide else s.regRead actor addr wide
  x.2.answer actor addr x.1

/-- Whether an access is naturally aligned. -/
def aligned (addr : Nat) (wide : Bool) : Bool := addr % (if wide then 8 else 4) == 0

def execRegisterWrite (actor addr : Nat) (wide : Bool) (v : Word) (s : State) : Host.Outcome State Fault Refusal :=
  act s actor (if aligned addr wide then s.actorWrite actor addr wide v else s)

def execRcRead (actor addr : Nat) (wide : Bool) (s : State) : Host.Outcome State Fault Refusal :=
  act s actor (if aligned addr wide then s.actorRead actor addr wide else s)

/-- The accesses of a write TLP from an offset: aligned 8-byte units where all their bytes are enabled, else
4-byte ones; `none` where an enable covers part of a 4-byte unit (R35). (DEDUCED, unsafe: assumption 25) -/
def tlpParts : Nat → Nat → List Bool → Bytes → Option (List (Nat × Bool × Word))
  | 0, _, _, d => if d.isEmpty then some [] else none
  | n + 1, off, be, d =>
    if d.isEmpty then some []
    else if d.length < 4 ∨ off % 4 ≠ 0 then none
    else
      let q := be.take 4
      if q.all (fun x => !x) then tlpParts n (off + 4) (be.drop 4) (d.drop 4)
      else if !(q.all id) then none
      else if off % 8 = 0 ∧ 8 ≤ d.length ∧ ((be.drop 4).take 4).all id then
        (tlpParts n (off + 8) (be.drop 8) (d.drop 8)).map (fun l => (off, true, BitVec.ofNat 64 (leNat (d.take 8))) :: l)
      else (tlpParts n (off + 4) (be.drop 4) (d.drop 4)).map
        (fun l => (off, false, BitVec.ofNat 64 (leNat (d.take 4))) :: l)

/-- A write into BAR4 below the aperture: the MSI-X table (R39, R122). -/
def State.msixWrite (s : State) (l off : Nat) (wide : Bool) (v : Word) : State :=
  if 0x8000 ≤ off then s
  else
    let e := tget msixReset (s.link l).msix (off / 16)
    let lo := 8 * (off % 16)
    let e := if wide then putF e (lo + 63) lo v.toNat else putF e (lo + 31) lo (v.toNat % 2 ^ 32)
    let e := e &&& 0x0000_0001_FFFF_FFFF_FFFF_FFFF_FFFF_FFFC
    (s.modLink l (fun k => { k with msix := tset msixReset k.msix (off / 16) e })).sendPending l
/-- A read of the MSI-X table or the PBA. -/
def State.msixRead (s : State) (l off : Nat) (wide : Bool) : Nat :=
  let n := if wide then 64 else 32
  if off < 0x8000 then getF (tget msixReset (s.link l).msix (off / 16)) (8 * (off % 16) + n - 1) (8 * (off % 16))
  else if off < 0x8100 then getF (s.link l).pba (8 * (off - 0x8000) + n - 1) (8 * (off - 0x8000))
  else 0

/-- One access of a host write TLP (R39). -/
def State.barWrite (s : State) (l bar requester : Nat) (p : Nat × Bool × Word) : State :=
  match bar with
  | 0 => (s.regWrite (l + 1) (p.1 % 2 ^ 29) p.2.1 p.2.2).2
  | 2 => s.pagePut (p.1 % 2 ^ 27 / 0x1_0000) (p.1 % 0x1_0000) p.2.1 p.2.2
  | 4 =>
    if p.1 % 2 ^ 30 < 0x1_0000 then s.msixWrite l (p.1 % 2 ^ 30) p.2.1 p.2.2
    else s.peerTlp l requester 0 (p.1 % 2 ^ 30) 0 false true (leBytes (if p.2.1 then 8 else 4) p.2.2.toNat)
  | _ => s

/-- A write TLP to a BAR (R35); one to the aperture with all its bytes enabled is one access (R120). (DEDUCED, unsafe: assumption 25) -/
def State.hostWrite (s : State) (l bar off requester : Nat) (be : List Bool) (data : Bytes) : State :=
  match tlpParts data.length off be data with
  | none => s.evtErr ROOT.base
  | some ps =>
    if bar = 4 ∧ 0x1_0000 ≤ off % 2 ^ 30 ∧ be.all id then s.peerTlp l requester 0 (off % 2 ^ 30) 0 false true data
    else ps.foldl (fun s p => s.barWrite l bar requester p) s

/-- (DEDUCED, unsafe: assumption 25) -/
def execHostWriteTlp (l bar off requester : Nat) (be : List Bool) (data : Bytes) (s : State) :
    Host.Outcome State Fault Refusal :=
  onLink s l (if s.takesMem l then s.hostWrite l bar off requester be data else s)

/-- The answer to a host read. -/
def State.hostAnswer (s : State) (l requester tag len : Nat) (r : RdRes) : State :=
  match r with
  | .val v => s.send l (.cplData requester tag (leBytes len v))
  | .err _ => s.send l (.cplUr requester tag)

/-- A read TLP to a BAR (R35, R39, R45). -/
def State.hostRead (s : State) (l bar off len requester tag : Nat) : State :=
  let wide := len == 8
  let a4 := off % 2 ^ 30
  if bar = 4 ∧ 0x1_0000 ≤ a4 then s.peerTlp l requester tag a4 len false false []
  else if (len ≠ 4 ∧ len ≠ 8) ∨ off % len ≠ 0 then s.send l (.cplUr requester tag)
  else match bar with
  | 0 =>
    let x := s.regRead (l + 1) (off % 2 ^ 29) wide
    x.2.hostAnswer l requester tag len x.1
  | 2 =>
    let n := off % 2 ^ 27 / 0x1_0000
    let o := off % 0x1_0000
    if o = 0xE000 ∧ wide then s.probe l n requester tag
    else
      let x := s.pageGet n o wide
      x.2.hostAnswer l requester tag len x.1
  | 4 => s.send l (.cplData requester tag (leBytes len (s.msixRead l a4 wide)))
  | _ => s.send l (.cplUr requester tag)

/-- (PRESUMED, unsafe: assumption 26) -/
def execHostReadTlp (l bar off len requester tag : Nat) (s : State) : Host.Outcome State Fault Refusal :=
  onLink s l (if !s.dlUp l then s
    else if !s.takesMem l then s.send l (.cplUr requester tag)
    else s.hostRead l bar off len requester tag)

/-! JTAG (R437). -/

/-- A JTAG instruction: 0 BYPASS, 1 IDCODE, 2 EXTEST, SAMPLE, PRELOAD and those of 1149.6, 3 a register read, 4
a register write. -/
def State.jtag (s : State) (op addr : Nat) (wide : Bool) (v : Word) : State :=
  let debug := bit (s.chitin 5) 0
  match op with
  | 0 => s.emit (.jtag 0)
  | 1 => s.emit (.jtag 0x1071_63D3)
  | 2 => if !s.pins.sysRstN || bit (s.chitin 5) 3 then s else s.jtagDenied
  | 3 =>
    if !debug then s.jtagDenied
    else
      let x := s.regRead 0x2002 addr wide
      x.2.emit (.jtag (match x.1 with
        | .val v => v
        | .err _ => 0))
  | 4 => if debug then (s.regWrite 0x2002 addr wide v).2 else s.jtagDenied
  | _ => s.jtagDenied

def execJtagAccess (op addr : Nat) (wide : Bool) (v : Word) (s : State) : Host.Outcome State Fault Refusal :=
  done s (if op < 3 ∨ aligned addr wide then s.jtag op addr wide v else s.jtagDenied)

end Sys2Proof.Machine
end

