-- ==== Sys2Proof/Machine/Operands.lean ====
section
/-! DEFINITION. The operand forms and the arithmetic of Queron instructions (R364, R372, R373, and the ALU, CSUM
and bit-field tables of the instruction set). -/

namespace Sys2Proof.Machine

/-- sext of an n-bit field (R364). -/
def sextW (n v : Nat) : Word := (BitVec.ofNat n v).signExtend 64
/-- zext of an n-bit field (R364). -/
def zextW (n v : Nat) : Word := (BitVec.ofNat n v).setWidth 64

/-- 1 or 0 as SLT and its kin write it. -/
def flagW (b : Bool) : Word := if b then 1 else 0

/-- Leading zero bits: from bit k − 1 downward. -/
def clzFrom (x : Nat) : Nat → Nat
  | 0 => 0
  | k + 1 => if bit x k then 0 else clzFrom x k + 1
/-- Trailing zero bits: k bits are left to look at. -/
def ctzFrom (x : Nat) : Nat → Nat
  | 0 => 0
  | k + 1 => if bit x 0 then 0 else ctzFrom (x / 2) k + 1
/-- Set bits among the low k. -/
def popcount (x : Nat) : Nat → Nat
  | 0 => 0
  | k + 1 => x % 2 + popcount (x / 2) k

/-- The n low bytes reversed, zero-extended. -/
def bswapW (n : Nat) (x : Word) : Word := BitVec.ofNat 64 (leNat (beBytes n (x.toNat % 2 ^ (8 * n))))

/-- The shift count in the low 6 bits of a register. -/
def shCount (x : Word) : Nat := x.toNat % 64

/-- High 64 bits of the unsigned product. -/
def mulhuW (a b : Word) : Word := BitVec.ofNat 64 (a.toNat * b.toNat / 2 ^ 64)

/-- APPI: shifted left by 21, a 21-bit constant below. -/
def appW (x : Word) (k : Nat) : Word := (x <<< 21) ||| zextW 21 k

/-- BFX: LEN bits from POS, extended. -/
def bfxW (x : Word) (pos len : Nat) (s : Bool) : Word :=
  let v := bits x.toNat (pos + len - 1) pos
  if s then BitVec.ofNat 64 (wrapInt 64 (sgn len v)) else BitVec.ofNat 64 v
/-- BFI: the low LEN bits of `x` put into `d` at POS. -/
def bfiW (d x : Word) (pos len : Nat) : Word := putF d (pos + len - 1) pos x.toNat

/-- Carries folded back in; three folds end below 65,536 for every sum that CSUM forms. -/
def foldSum (n : Nat) : Nat :=
  let f (v : Nat) : Nat := v % 65536 + v / 65536
  f (f (f n))

/-- CSUM.ADD (R373). -/
def csumAddW (a b : Word) : Word :=
  let x := b.toNat
  BitVec.ofNat 64 (foldSum (a.toNat % 65536 + x % 65536 + bits x 31 16 + bits x 47 32 + bits x 63 48))

/-- Sum of the 16-bit words of bytes in wire order, an odd last byte padded with zero. -/
def sumWords : Bytes → Nat
  | [] => 0
  | [a] => a.toNat * 256
  | a :: b :: r => a.toNat * 256 + b.toNat + sumWords r

/-- The operations of AMO by FN [3:0] (R372): what the memory receives, of w bytes; `none` where CAS keeps it. -/
def amoNew (fn : Nat) (w : Nat) (old rd rs2 : Nat) : Option Nat :=
  let m := 2 ^ (8 * w)
  let x := rs2 % m
  match fn with
  | 0 => some x
  | 1 => some ((old + x) % m)
  | 2 => some (old &&& x)
  | 3 => some (old ||| x)
  | 4 => some (old ^^^ x)
  | 5 => some (min old x)
  | 6 => some (max old x)
  | _ => if old = rd % m then some x else none

end Sys2Proof.Machine
end

