-- ==== Sys2Proof/Machine/Queron.lean ====
section
/-! DEFINITION. A Hive thread issues an instruction (R348, R362–R368): registers, arithmetic, branches, control
registers, channels and fences. Each command is one instruction that a thread in RUN fetches at its PC, with its
fields; `th` is the thread. -/

namespace Sys2Proof.Machine

/-! Issue and completion. -/

/-- Whether a Hive's cores issue: its domain is RUN or IDLE, or drains with its accepted work going on (R403). -/
def State.hiveIssues (s : State) (h : Nat) : Bool :=
  s.domUp (14 + h) || (s.domState (14 + h) == 8 && s.g (PWR.DOM_STAT.STEP (14 + h)) == 1)

/-- Whether a thread issues an instruction now (R348). (DESIGN CHOICE, unsafe: assumption 4) -/
def State.issues (s : State) (t : Nat) : Bool := thOk t && (s.th t).state == thRun && s.hiveIssues (t / 64)

/-- A thread in RUN fetches at its PC and the instruction acts; a PC at or beyond the end of the loaded image, or
one that a JALR left unaligned, faults (R367). (DESIGN CHOICE, unsafe: assumption 4) -/
def State.issue (s : State) (t : Nat) (f : State → State) : State :=
  if !s.issues t then s
  else
    let d := 14 + t / 64
    let s := if s.domState d = 1 then s.setDomState d 0 0 else s
    let pc := (s.th t).pc
    if (s.hv (t / 64)).imgLen ≤ pc ∨ pc % 4 ≠ 0 then s.thFault t fltImem pc 0 else f s

/-- A fault at the instruction being executed, with its data address. -/
def State.qFault (s : State) (t code addr : Nat) : State := s.thFault t code (s.th t).pc addr

/-- An instruction whose fields keep the format acts; any other raises ILLEGAL (R365). (DESIGN CHOICE, unsafe: assumption 4) (DEDUCED, unsafe: assumption 101) (DEDUCED, unsafe: assumption 102) -/
def State.qIns (s : State) (t : Nat) (legal : Bool) (f : State → State) : State :=
  s.issue t (fun s => if legal then f s else s.qFault t fltIllegal 0)

/-- The instruction completes and the thread goes on at an address. -/
def State.qNext (s : State) (t pc : Nat) : State :=
  s.modTh t (fun v => { v with pc := pc, retired := v.retired + 1 })
/-- It completes without a result, or with one for RD. -/
def State.qStep (s : State) (t : Nat) : State := s.qNext t ((s.th t).pc + 4)
def State.qDone (s : State) (t rd : Nat) (v : Word) : State := (s.qw t rd v).qStep t

/-- The thread enters WAIT until its access or call is over; register 32 takes no result (R348). -/
def State.qWait (s : State) (t rd : Nat) (v : Word) : State :=
  (s.modTh t (fun x => { x with wait := some ⟨rd, v, true, 0, none⟩, later := 0 })).setThState t thWait
/-- What the access returns. -/
def State.qValue (s : State) (t : Nat) (v : Word) : State :=
  s.modTh t (fun x => { x with wait := x.wait.map (fun w => { w with value := v }) })
/-- The access ends in a fault. -/
def State.qWaitFault (s : State) (t code addr : Nat) : State :=
  (s.modTh t (fun x => { x with wait := none, later := 0 })).qFault t code addr

/-! Arithmetic (the ALU table and the I, W, F formats). -/

/-- An R-format instruction of two sources. -/
def State.alu2 (s : State) (t rd rs1 rs2 : Nat) (f : Word → Word → Word) : State :=
  s.qIns t true (fun s => s.qDone t rd (f (s.qr t rs1) (s.qr t rs2)))
/-- One of one source, whose RS2 field must be zero. -/
def State.alu1 (s : State) (t rd rs1 rs2 : Nat) (f : Word → Word) : State :=
  s.qIns t (rs2 == 0) (fun s => s.qDone t rd (f (s.qr t rs1)))
/-- An I-format instruction. -/
def State.aluI (s : State) (t rd rs1 : Nat) (f : Word → Word) : State :=
  s.qIns t true (fun s => s.qDone t rd (f (s.qr t rs1)))

def execAdd (th rd rs1 rs2 : Nat) (s : State) : Host.Outcome State Fault Refusal :=
  done s (s.alu2 th rd rs1 rs2 (fun a b => a + b))
def execSub (th rd rs1 rs2 : Nat) (s : State) : Host.Outcome State Fault Refusal :=
  done s (s.alu2 th rd rs1 rs2 (fun a b => a - b))
def execAnd (th rd rs1 rs2 : Nat) (s : State) : Host.Outcome State Fault Refusal :=
  done s (s.alu2 th rd rs1 rs2 (fun a b => a &&& b))
def execOr (th rd rs1 rs2 : Nat) (s : State) : Host.Outcome State Fault Refusal :=
  done s (s.alu2 th rd rs1 rs2 (fun a b => a ||| b))
def execXor (th rd rs1 rs2 : Nat) (s : State) : Host.Outcome State Fault Refusal :=
  done s (s.alu2 th rd rs1 rs2 (fun a b => a ^^^ b))
def execSll (th rd rs1 rs2 : Nat) (s : State) : Host.Outcome State Fault Refusal :=
  done s (s.alu2 th rd rs1 rs2 (fun a b => a <<< shCount b))
def execSrl (th rd rs1 rs2 : Nat) (s : State) : Host.Outcome State Fault Refusal :=
  done s (s.alu2 th rd rs1 rs2 (fun a b => a >>> shCount b))
def execSra (th rd rs1 rs2 : Nat) (s : State) : Host.Outcome State Fault Refusal :=
  done s (s.alu2 th rd rs1 rs2 (fun a b => a.sshiftRight (shCount b)))
def execSlt (th rd rs1 rs2 : Nat) (s : State) : Host.Outcome State Fault Refusal :=
  done s (s.alu2 th rd rs1 rs2 (fun a b => flagW (a.slt b)))
def execSltu (th rd rs1 rs2 : Nat) (s : State) : Host.Outcome State Fault Refusal :=
  done s (s.alu2 th rd rs1 rs2 (fun a b => flagW (a.ult b)))
def execMul (th rd rs1 rs2 : Nat) (s : State) : Host.Outcome State Fault Refusal :=
  done s (s.alu2 th rd rs1 rs2 (fun a b => a * b))
def execMulhu (th rd rs1 rs2 : Nat) (s : State) : Host.Outcome State Fault Refusal :=
  done s (s.alu2 th rd rs1 rs2 mulhuW)
def execMinu (th rd rs1 rs2 : Nat) (s : State) : Host.Outcome State Fault Refusal :=
  done s (s.alu2 th rd rs1 rs2 (fun a b => if a.ult b then a else b))
def execMaxu (th rd rs1 rs2 : Nat) (s : State) : Host.Outcome State Fault Refusal :=
  done s (s.alu2 th rd rs1 rs2 (fun a b => if a.ult b then b else a))
def execClz (th rd rs1 rs2 : Nat) (s : State) : Host.Outcome State Fault Refusal :=
  done s (s.alu1 th rd rs1 rs2 (fun a => BitVec.ofNat 64 (clzFrom a.toNat 64)))
def execCtz (th rd rs1 rs2 : Nat) (s : State) : Host.Outcome State Fault Refusal :=
  done s (s.alu1 th rd rs1 rs2 (fun a => BitVec.ofNat 64 (ctzFrom a.toNat 64)))
def execPopc (th rd rs1 rs2 : Nat) (s : State) : Host.Outcome State Fault Refusal :=
  done s (s.alu1 th rd rs1 rs2 (fun a => BitVec.ofNat 64 (popcount a.toNat 64)))
def execBswap (th rd rs1 rs2 : Nat) (s : State) : Host.Outcome State Fault Refusal :=
  done s (s.alu1 th rd rs1 rs2 (bswapW 8))
def execBswap32 (th rd rs1 rs2 : Nat) (s : State) : Host.Outcome State Fault Refusal :=
  done s (s.alu1 th rd rs1 rs2 (bswapW 4))
def execBswap16 (th rd rs1 rs2 : Nat) (s : State) : Host.Outcome State Fault Refusal :=
  done s (s.alu1 th rd rs1 rs2 (bswapW 2))

def execAddi (th rd rs1 imm : Nat) (s : State) : Host.Outcome State Fault Refusal :=
  done s (s.aluI th rd rs1 (fun a => a + sextW 16 imm))
def execAndi (th rd rs1 imm : Nat) (s : State) : Host.Outcome State Fault Refusal :=
  done s (s.aluI th rd rs1 (fun a => a &&& zextW 16 imm))
def execOri (th rd rs1 imm : Nat) (s : State) : Host.Outcome State Fault Refusal :=
  done s (s.aluI th rd rs1 (fun a => a ||| zextW 16 imm))
def execXori (th rd rs1 imm : Nat) (s : State) : Host.Outcome State Fault Refusal :=
  done s (s.aluI th rd rs1 (fun a => a ^^^ zextW 16 imm))
/-- A shift by IMM [5:0]; `z` is IMM [15:8], which must be zero. -/
def State.shI (s : State) (t rd rs1 z : Nat) (f : Word → Word) : State :=
  s.qIns t (z == 0) (fun s => s.qDone t rd (f (s.qr t rs1)))
def execSlli (th rd rs1 z sh : Nat) (s : State) : Host.Outcome State Fault Refusal :=
  done s (s.shI th rd rs1 z (fun a => a <<< (sh % 64)))
def execSrli (th rd rs1 z sh : Nat) (s : State) : Host.Outcome State Fault Refusal :=
  done s (s.shI th rd rs1 z (fun a => a >>> (sh % 64)))
def execSrai (th rd rs1 z sh : Nat) (s : State) : Host.Outcome State Fault Refusal :=
  done s (s.shI th rd rs1 z (fun a => a.sshiftRight (sh % 64)))
def execSlti (th rd rs1 imm : Nat) (s : State) : Host.Outcome State Fault Refusal :=
  done s (s.aluI th rd rs1 (fun a => flagW (a.slt (sextW 16 imm))))
def execSltiu (th rd rs1 imm : Nat) (s : State) : Host.Outcome State Fault Refusal :=
  done s (s.aluI th rd rs1 (fun a => flagW (a.ult (sextW 16 imm))))

def execLic (th rd k : Nat) (s : State) : Host.Outcome State Fault Refusal :=
  done s (s.qIns th true (fun s => s.qDone th rd (sextW 21 k)))
def execAppi (th rd k : Nat) (s : State) : Host.Outcome State Fault Refusal :=
  done s (s.qIns th true (fun s => s.qDone th rd (appW (s.qr th rd) k)))

/-- BFX and BFI name `len` bits (LEN itself, 1–64) from `pos`; `z` is the field [15:13], which must be zero. -/
def execBfx (th rd rs1 z : Nat) (sx : Bool) (pos len : Nat) (s : State) : Host.Outcome State Fault Refusal :=
  done s (s.qIns th (z == 0 && decide (pos + len ≤ 64)) (fun s => s.qDone th rd (bfxW (s.qr th rs1) pos len sx)))
def execBfi (th rd rs1 z : Nat) (sx : Bool) (pos len : Nat) (s : State) : Host.Outcome State Fault Refusal :=
  done s (s.qIns th (z == 0 && !sx && decide (pos + len ≤ 64)) (fun s =>
    s.qDone th rd (bfiW (s.qr th rd) (s.qr th rs1) pos len)))

def execCsumAdd (th rd rs1 rs2 : Nat) (s : State) : Host.Outcome State Fault Refusal :=
  done s (s.alu2 th rd rs1 rs2 csumAddW)
/-- CRC-32C update of a state without initial value and final XOR (R373). -/
def crcW (n : Nat) (a b : Word) : Word := BitVec.ofNat 64 (crc32cRun (a.toNat % 2 ^ 32) (leBytes n b.toNat))
def execCrcB (th rd rs1 rs2 : Nat) (s : State) : Host.Outcome State Fault Refusal :=
  done s (s.alu2 th rd rs1 rs2 (crcW 1))
def execCrcD (th rd rs1 rs2 : Nat) (s : State) : Host.Outcome State Fault Refusal :=
  done s (s.alu2 th rd rs1 rs2 (crcW 8))

/-! Branches and jumps: the target is faulted on at its fetch (R367). -/

/-- PC-relative by a signed count of words, in 64-bit arithmetic. (DEDUCED, unsafe: assumption 101) -/
def relPc (pc n off : Nat) : Nat := (BitVec.ofNat 64 pc + (sextW n off) * 4).toNat

/-- A branch of B format. (DEDUCED, unsafe: assumption 101) -/
def State.branch (s : State) (t rs1 rs2 off : Nat) (c : Word → Word → Bool) : State :=
  s.qIns t true (fun s =>
    let pc := (s.th t).pc
    s.qNext t (if c (s.qr t rs1) (s.qr t rs2) then relPc pc 16 off else pc + 4))

def execBeq (th rs1 rs2 off : Nat) (s : State) : Host.Outcome State Fault Refusal :=
  done s (s.branch th rs1 rs2 off (fun a b => a == b))
def execBne (th rs1 rs2 off : Nat) (s : State) : Host.Outcome State Fault Refusal :=
  done s (s.branch th rs1 rs2 off (fun a b => a != b))
def execBlt (th rs1 rs2 off : Nat) (s : State) : Host.Outcome State Fault Refusal :=
  done s (s.branch th rs1 rs2 off (fun a b => a.slt b))
def execBge (th rs1 rs2 off : Nat) (s : State) : Host.Outcome State Fault Refusal :=
  done s (s.branch th rs1 rs2 off (fun a b => !a.slt b))
def execBltu (th rs1 rs2 off : Nat) (s : State) : Host.Outcome State Fault Refusal :=
  done s (s.branch th rs1 rs2 off (fun a b => a.ult b))
def execBgeu (th rs1 rs2 off : Nat) (s : State) : Host.Outcome State Fault Refusal :=
  done s (s.branch th rs1 rs2 off (fun a b => !a.ult b))

def execJal (th rd off : Nat) (s : State) : Host.Outcome State Fault Refusal :=
  done s (s.qIns th true (fun s =>
    let pc := (s.th th).pc
    (s.qw th rd (BitVec.ofNat 64 (pc + 4))).qNext th (relPc pc 21 off)))
def execJalr (th rd rs1 imm : Nat) (s : State) : Host.Outcome State Fault Refusal :=
  done s (s.qIns th true (fun s =>
    let dst := (s.qr th rs1 + sextW 16 imm).toNat
    (s.qw th rd (BitVec.ofNat 64 ((s.th th).pc + 4))).qNext th dst))

/-! Control registers (R368, R369). -/

/-- A control register's value, and the state after reading it; `none` where none has the number. -/
def State.ctlRead (s : State) (t n : Nat) : Option (Nat × State) :=
  let v := s.th t
  match n with
  | 0x00 => some (thActor t, s)
  | 0x01 => some (pack [(0, t % 64), (8, t / 64)], s)
  | 0x02 => some (v.pending, s)
  | 0x03 => some (v.mask, s)
  | 0x04 => some (v.timer, s)
  | 0x05 => some (s.ns, s.modEdryn (fun e => { e with latch := tset 0 e.latch (thActor t) (e.time % nsUnit) }))
  | 0x06 => some (tget 0 s.edryn.latch (thActor t), s)
  | 0x07 => some ((s.edryn.clk - v.startClk) * 4 / 3, s)
  | 0x08 => some (v.retired, s)
  | 0x09 => some (b2n (s.secThread t), s)
  | 0x0A => some (v.staging.length, s)
  | 0x0B => some (v.win0.getD 0, s)
  | 0x0C => some (v.win1.getD 0, s)
  | _ => none

/-- A write of TIMER: a deadline that is not in the future fires at once (R369). -/
def State.timerSet (s : State) (t d : Nat) : State :=
  let s := s.modTh t (fun v => { v with timer := d })
  if d ≠ 0 ∧ d ≤ s.ns then s.timerFire t else s

/-- A control register written with a value; `none` where the register or the way of writing is not allowed. -/
def State.ctlWrite (s : State) (t n : Nat) (bic : Bool) (v : Nat) : Option State :=
  match n with
  | 0x02 => if bic then some (s.modTh t (fun x => { x with pending := v % 65536 })) else none
  | 0x03 => some (s.modTh t (fun x => { x with mask := v % 65536 }))
  | 0x04 => some (s.timerSet t v)
  | _ => none

/-- CTL.PUT, CTL.OR and CTL.BIC: the new value from the old one and RS1; RD receives the old one. -/
def State.ctlOp (s : State) (t rd rs1 rs2 n : Nat) (bic : Bool) (f : Word → Word → Word) : State :=
  s.qIns t (rs2 == 0) (fun s =>
    let s := s.timerFirst t n
    match s.ctlRead t n with
    | none => s.qFault t fltIllegal 0
    | some (old, _) =>
      match s.ctlWrite t n bic (f (BitVec.ofNat 64 old) (s.qr t rs1)).toNat with
      | none => s.qFault t fltIllegal 0
      | some s => s.qDone t rd (BitVec.ofNat 64 old))

def execCtlGet (th rd rs1 rs2 num : Nat) (s : State) : Host.Outcome State Fault Refusal :=
  done s (s.qIns th (rs1 == 0 && rs2 == 0) (fun s =>
    match (s.timerFirst th num).ctlRead th num with
    | none => s.qFault th fltIllegal 0
    | some (v, s) => s.qDone th rd (BitVec.ofNat 64 v)))
def execCtlPut (th rd rs1 rs2 num : Nat) (s : State) : Host.Outcome State Fault Refusal :=
  done s (s.ctlOp th rd rs1 rs2 num false (fun _ b => b))
def execCtlOr (th rd rs1 rs2 num : Nat) (s : State) : Host.Outcome State Fault Refusal :=
  done s (s.ctlOp th rd rs1 rs2 num false (fun a b => a ||| b))
def execCtlBic (th rd rs1 rs2 num : Nat) (s : State) : Host.Outcome State Fault Refusal :=
  done s (s.ctlOp th rd rs1 rs2 num true (fun a b => a &&& ~~~b))

/-! Events and fences. -/

/-- WFE completes at once where an enabled event is pending; else the thread waits, and completes the WFE when
one is (R350). -/
def execWfe (th rd rs1 rs2 : Nat) (s : State) : Host.Outcome State Fault Refusal :=
  done s (s.qIns th (rd == 0 && rs1 == 0 && rs2 == 0) (fun s =>
    if (s.th th).wakes then s.qStep th else s.setThState th thWfe))

/-- (DEDUCED, unsafe: assumption 102) -/
def execSev (th rd rs1 rs2 : Nat) (s : State) : Host.Outcome State Fault Refusal :=
  done s (s.qIns th (rd == 0 && rs2 == 0) (fun s =>
    let k := (s.qr th rs1).toNat
    if 64 ≤ k then s.qFault th fltIllegal 0 else (s.qStep th).thEvent (th / 64 * 64 + k) evSev))

/-- A fence: a thread's earlier accesses are complete when it issues, so nothing is left to wait for (R375). (DEDUCED, unsafe: assumption 112) -/
def State.fence (s : State) (t rd rs1 rs2 : Nat) : State :=
  s.qIns t (rd == 0 && rs1 == 0 && rs2 == 0) (fun s => s.qStep t)
/-- (DEDUCED, unsafe: assumption 112) -/
def execFenceM (th rd rs1 rs2 : Nat) (s : State) : Host.Outcome State Fault Refusal := done s (s.fence th rd rs1 rs2)
def execFenceG (th rd rs1 rs2 : Nat) (s : State) : Host.Outcome State Fault Refusal := done s (s.fence th rd rs1 rs2)
def execFenceMg (th rd rs1 rs2 : Nat) (s : State) : Host.Outcome State Fault Refusal := done s (s.fence th rd rs1 rs2)

/-! Channels (R351, R374). -/

def execChPut (th rd rs1 rs2 : Nat) (s : State) : Host.Outcome State Fault Refusal :=
  done s (s.qIns th (rd == 0 && rs2 == 0) (fun s =>
    if 8 ≤ (s.th th).staging.length then s.qFault th fltChannel 0
    else (s.modTh th (fun v => { v with staging := v.staging ++ [s.qr th rs1] })).qStep th))

/-- Whether a thread may commit to a channel: its FEED admits the writer. (DEDUCED, unsafe: assumption 109) -/
def State.chanFeeds (s : State) (t h c : Nat) : Bool :=
  chValid (s.hch h c) && (chFeed (s.hch h c) == 1 || (chFeed (s.hch h c) == 0 && h == t / 64))

/-- (DEDUCED, unsafe: assumption 109) -/
def execChCommit (th rd rs1 rs2 : Nat) (s : State) : Host.Outcome State Fault Refusal :=
  done s (s.qIns th (rs2 == 0) (fun s =>
    let x := (s.qr th rs1).toNat
    let h := bits x 11 8
    let c := x % 256
    let m := (s.th th).staging
    if 4096 ≤ x || 12 ≤ h || !s.chanFeeds th h c then s.qFault th fltChannel 0
    else if m.isEmpty then s.qDone th rd (BitVec.ofNat 64 stMalformed)
    else
      let k := h * 256 + c
      if 16 ≤ (s.msgs h c).length then
        (s.modTh th (fun v => { v with space := if v.space.contains k then v.space else v.space ++ [k] })).qDone th rd
          (BitVec.ofNat 64 stBusy)
      else
        let s := s.modTh th (fun v => { v with staging := [], space := v.space.filter (fun y => y != k) })
        (s.qDone th rd (BitVec.ofNat 64 stOk)).chanAppend h c m))

/-- Offset in a thread's own Hive store of a data address, through either of its ranges (R345). -/
def ownAt (t a : Nat) : Option Nat :=
  if a < hsSize then some a
  else if 0x1000_0000 + t / 64 * hsSize ≤ a ∧ a < 0x1000_0000 + t / 64 * hsSize + hsSize
    then some (a - 0x1000_0000 - t / 64 * hsSize) else none

/-- Whether a thread may not touch bytes of a Hive's store: its secure region (R346). -/
def State.shut (s : State) (t h a n : Nat) : Bool := !s.secThread t && decide (s.secureFrom h < a + n)

/-- (DEDUCED, unsafe: assumption 109) -/
def execChTake (th rd rs1 rs2 : Nat) (s : State) : Host.Outcome State Fault Refusal :=
  done s (s.qIns th true (fun s =>
    let x := (s.qr th rs1).toNat
    let h := th / 64
    let c := x % 256
    let dst := (s.qr th rs2).toNat
    let m := ((s.msgs h c).head?).getD []
    match ownAt th dst with
    | none => s.qFault th fltChannel dst
    | some a =>
      if 4096 ≤ x || !chValid (s.hch h c) || chReceiver (s.hch h c) != th % 64 || a % 8 != 0 ||
          decide (hsSize < a + 8 * m.length) then s.qFault th fltChannel dst
      else if m.isEmpty then s.qDone th rd 0
      else if s.shut th h a (8 * m.length) then s.qFault th fltSecure dst
      else
        let s := s.hsWrite h a (m.flatMap (fun w => leBytes 8 w.toNat))
        let s := s.setMsgs h c ((s.msgs h c).drop 1)
        (s.qDone th rd (BitVec.ofNat 64 m.length)).chanSpace h c))

def execChDiscard (th rd rs1 rs2 : Nat) (s : State) : Host.Outcome State Fault Refusal :=
  done s (s.qIns th (rd == 0 && rs1 == 0 && rs2 == 0) (fun s =>
    (s.modTh th (fun v => { v with staging := [] })).qStep th))

end Sys2Proof.Machine
end

