-- ==== Sys2Proof/Machine/QueronMem.lean ====
section
/-! DEFINITION. Data accesses of Hive threads (R345–R348, R358, R370–R373): loads, stores, atomics and block
checksums, by region of the data address map. -/

namespace Sys2Proof.Machine

/-! The address map (R345). -/

/-- What a range of data addresses lies in: a Hive's store, a Comb window, register space, HBM, or nothing. -/
inductive QMem where
  | store (h a : Nat)
  | win (k off : Nat)
  | reg (a : Nat)
  | hbm (a : Nat)
  | none
  deriving DecidableEq, Repr

/-- The region that holds n bytes at an address of a thread. (DEDUCED, unsafe: assumption 105) -/
def qMem (t a n : Nat) : QMem :=
  if a + n ≤ hsSize then .store (t / 64) a
  else if 0x1000_0000 ≤ a ∧ a + n ≤ 0x1000_0000 + 12 * hsSize then
    let o := a - 0x1000_0000
    if o % hsSize + n ≤ hsSize then .store (o / hsSize) (o % hsSize) else .none
  else if 0x2000_0000 ≤ a ∧ a + n ≤ 0x2000_8000 then
    let o := a - 0x2000_0000
    if o % 0x4000 + n ≤ 0x4000 then .win (o / 0x4000) (o % 0x4000) else .none
  else if 0x4000_0000 ≤ a ∧ a + n ≤ 0x6000_0000 then .reg (a - 0x4000_0000)
  else if 2 ^ 40 ≤ a ∧ a + n ≤ 2 ^ 40 + hbmEnd then .hbm (a - 2 ^ 40)
  else .none

/-! Comb windows (R347). -/

/-- The descriptor that a window shows. -/
def State.winDesc (s : State) (t k : Nat) : Option Nat :=
  match (if k = 0 then (s.th t).win0 else (s.th t).win1) with
  | some h => s.byHandle h
  | none => none

/-- Number of leading bytes that two byte strings share. -/
def samePrefix : Bytes → Bytes → Nat
  | a :: r, b :: q => if a = b then samePrefix r q + 1 else 0
  | _, _ => 0

/-- Where a stored byte stands in a copy under its edit record: the bytes from the first to the last edit are the
record's own. -/
def copyAt (stored cur : Bytes) (k : Nat) : Option Nat :=
  let p := samePrefix stored cur
  let q := min (samePrefix stored.reverse cur.reverse) (min stored.length cur.length - p)
  if k < p then some k
  else if stored.length - q ≤ k ∧ k < stored.length then some (k + cur.length - stored.length)
  else none

/-- A byte read through a window; past the stored length, what was written there or a free byte. (DEDUCED, unsafe: assumption 108) -/
def State.winByte (s : State) (d k : Nat) : Byte × State :=
  let p := s.pkt (s.desc d).pkt
  if k < p.bytes.length then (BitVec.ofNat 8 (byteAt p.bytes k), s)
  else match tget 0 s.pad ((s.desc d).pkt * 16384 + k) with
  | 0 => (BitVec.ofNat 8 s.fresh.1.toNat, s.fresh.2)
  | n + 1 => (BitVec.ofNat 8 n, s)
/-- (DEDUCED, unsafe: assumption 108) -/
def State.winRead (s : State) (d k : Nat) : Nat → Bytes × State
  | 0 => ([], s)
  | n + 1 =>
    let x := s.winByte d k
    let y := x.2.winRead d (k + 1) n
    (x.1 :: y.1, y.2)

/-- Bytes written through a window. (DEDUCED, unsafe: assumption 108) -/
def State.winWrite (s : State) (d k : Nat) : Bytes → State
  | [] => s
  | b :: r =>
    let v := s.desc d
    let p := s.pkt v.pkt
    let s := if k < p.bytes.length then
        let s := match copyAt p.bytes v.bytes k with
          | some j => s.setDesc d { v with bytes := overlay v.bytes j [b] }
          | none => s
        s.setPkt v.pkt { p with bytes := overlay p.bytes k [b] }
      else { s with pad := tset 0 s.pad (v.pkt * 16384 + k) (b.toNat + 1) }
    s.winWrite d (k + 1) r

/-! Checks. -/

/-- The fault of an access to n bytes outside register space, 0 for none; R346 and R347. (DEDUCED, unsafe: assumption 103) (DESIGN CHOICE, unsafe: assumption 107) -/
def State.memFault (s : State) (t : Nat) (m : QMem) (n : Nat) (write : Bool) : Nat :=
  match m with
  | .store h a => if s.shut t h a n then fltSecure else 0
  | .win k off =>
    match s.winDesc t k with
    | none => fltBus
    | some d =>
      let p := s.pkt (s.desc d).pkt
      if p.cells * 256 < off + n ∨ (write ∧ 1 < p.refs) then fltBus else 0
  | .hbm a => if s.hbmOk a n then 0 else fltBus
  | .reg _ => fltBus
  | .none => fltBus

/-- Bytes of memory outside register space. -/
def State.memRead (s : State) (t : Nat) (m : QMem) (n : Nat) : Bytes × State :=
  match m with
  | .store h a => (s.hsRead h a n, s)
  | .win k off =>
    match s.winDesc t k with
    | some d => s.winRead d off n
    | none => ([], s)
  | .hbm a => (mread s.hbm a n, s)
  | _ => ([], s)
def State.memWrite (s : State) (t : Nat) (m : QMem) (bs : Bytes) : State :=
  match m with
  | .store h a => s.hsWrite h a bs
  | .win k off =>
    match s.winDesc t k with
    | some d => s.winWrite d off bs
    | none => s
  | .hbm a => { s with hbm := mwrite s.hbm a bs }
  | _ => s

/-- Whether an access leaves the thread's Hive for longer than one issue: not in its own store, and in HBM only
where the cache misses, which the spec leaves open (R348). (DEDUCED, unsafe: assumption 104) -/
def State.memLong (s : State) (t : Nat) (m : QMem) : Bool × State :=
  match m with
  | .store h _ => (h != t / 64, s)
  | .hbm _ => (bit s.fresh.1.toNat 0, s.fresh.2)
  | _ => (true, s)

/-- An access is over: at once, or after WAIT. (DEDUCED, unsafe: assumption 104) -/
def State.memDone (s : State) (t rd : Nat) (v : Word) (long : Bool) : State :=
  if long then s.qWait t rd v else s.qDone t rd v

/-! Loads and stores (R370, R371). -/

/-- The register that no result goes to. -/
def noReg : Nat := 32

/-- The address of an I-format access. (DEDUCED, unsafe: assumption 103) -/
def State.dataAddr (s : State) (t rs1 imm : Nat) : Nat := (s.qr t rs1 + sextW 16 imm).toNat

/-- The fault of the size and alignment of an access: in register space by R35, elsewhere by R370. (DEDUCED, unsafe: assumption 103) -/
def sizeFault (m : QMem) (a n : Nat) : Nat :=
  match m with
  | .reg _ => if (n = 4 ∨ n = 8) ∧ a % n = 0 then 0 else fltBus
  | _ => if a % n = 0 then 0 else fltMisaligned

/-- A read of register space: performed at issue, its value delivered at the end of WAIT. (DEDUCED, unsafe: assumption 106) -/
def State.regLoad (s : State) (t rd addr a n : Nat) (f : Nat → Word) : State :=
  let x := (s.qWait t rd 0).regRead (thActor t) a (n == 8)
  match x.1 with
  | .val v => x.2.qValue t (f v)
  | .err sec => x.2.qWaitFault t (if sec then fltSecure else fltBus) addr

/-- A write of register space. (DEDUCED, unsafe: assumption 106) -/
def State.regStore (s : State) (t addr a n : Nat) (v : Word) : State :=
  let x := (s.qWait t noReg 0).regWrite (thActor t) a (n == 8) (if n = 8 then v else v &&& 0xFFFF_FFFF)
  match x.1 with
  | none => x.2
  | some sec => x.2.qWaitFault t (if sec then fltSecure else fltBus) addr

/-- The value of n loaded bytes in a register. -/
def loadW (n : Nat) (sx : Bool) (v : Nat) : Word := if sx then sextW (8 * n) v else zextW (8 * n) v

/-- A load of n bytes; data with an uncorrectable error raise BUS_ERROR (R418). -/
def State.load (s : State) (t rd rs1 imm n : Nat) (sx : Bool) : State :=
  s.qIns t true (fun s =>
    let addr := s.dataAddr t rs1 imm
    let m := qMem t addr n
    if sizeFault m addr n ≠ 0 then s.qFault t (sizeFault m addr n) addr
    else match m with
    | .reg a => s.regLoad t rd addr a n (loadW n sx)
    | _ =>
      if s.memFault t m n false ≠ 0 then s.qFault t (s.memFault t m n false) addr
      else if s.poison.contains (2, t) then
        State.qFault { s with poison := s.poison.filter (fun e => e != (2, t)) } t fltBus addr
      else
        let x := s.memRead t m n
        let y := x.2.memLong t m
        y.2.memDone t rd (loadW n sx (leNat x.1)) y.1)

/-- A store of the low n bytes of the register in the RD field. -/
def State.storeOp (s : State) (t rd rs1 imm n : Nat) : State :=
  s.qIns t true (fun s =>
    let addr := s.dataAddr t rs1 imm
    let m := qMem t addr n
    let v := s.qr t rd
    if sizeFault m addr n ≠ 0 then s.qFault t (sizeFault m addr n) addr
    else match m with
    | .reg a => s.regStore t addr a n v
    | _ =>
      if s.memFault t m n true ≠ 0 then s.qFault t (s.memFault t m n true) addr
      else
        let y := (s.memWrite t m (leBytes n v.toNat)).memLong t m
        y.2.memDone t noReg 0 y.1)

def execLb (th rd rs1 imm : Nat) (s : State) : Host.Outcome State Fault Refusal := done s (s.load th rd rs1 imm 1 true)
def execLbu (th rd rs1 imm : Nat) (s : State) : Host.Outcome State Fault Refusal := done s (s.load th rd rs1 imm 1 false)
def execLh (th rd rs1 imm : Nat) (s : State) : Host.Outcome State Fault Refusal := done s (s.load th rd rs1 imm 2 true)
def execLhu (th rd rs1 imm : Nat) (s : State) : Host.Outcome State Fault Refusal := done s (s.load th rd rs1 imm 2 false)
def execLw (th rd rs1 imm : Nat) (s : State) : Host.Outcome State Fault Refusal := done s (s.load th rd rs1 imm 4 true)
def execLwu (th rd rs1 imm : Nat) (s : State) : Host.Outcome State Fault Refusal := done s (s.load th rd rs1 imm 4 false)
def execLd (th rd rs1 imm : Nat) (s : State) : Host.Outcome State Fault Refusal := done s (s.load th rd rs1 imm 8 false)
def execSb (th rd rs1 imm : Nat) (s : State) : Host.Outcome State Fault Refusal := done s (s.storeOp th rd rs1 imm 1)
def execSh (th rd rs1 imm : Nat) (s : State) : Host.Outcome State Fault Refusal := done s (s.storeOp th rd rs1 imm 2)
def execSw (th rd rs1 imm : Nat) (s : State) : Host.Outcome State Fault Refusal := done s (s.storeOp th rd rs1 imm 4)
def execSd (th rd rs1 imm : Nat) (s : State) : Host.Outcome State Fault Refusal := done s (s.storeOp th rd rs1 imm 8)

/-! Atomics (R372). -/

/-- Whether AMO works in a region: Hive store and HBM only. -/
def QMem.atomic : QMem → Bool
  | .store _ _ => true
  | .hbm _ => true
  | _ => false

/-- An AMO of operation `fn`, on 8 bytes where D is set, else on 4; `z` is FN [10:7], which must be zero. ACQ and
REL ask for orders that accesses performed at their issue already keep. (DEDUCED, unsafe: assumption 104) -/
def State.amo (s : State) (fn t rd rs1 rs2 z : Nat) (d : Bool) : State :=
  s.qIns t (z == 0) (fun s =>
    let n := if d then 8 else 4
    let addr := (s.qr t rs1).toNat
    let m := qMem t addr n
    if sizeFault m addr n ≠ 0 then s.qFault t (sizeFault m addr n) addr
    else if !m.atomic then s.qFault t fltBus addr
    else if s.memFault t m n true ≠ 0 then s.qFault t (s.memFault t m n true) addr
    else
      let old := leNat (s.memRead t m n).1
      let s := match amoNew fn n old (s.qr t rd).toNat (s.qr t rs2).toNat with
        | some v => s.memWrite t m (leBytes n v)
        | none => s
      s.memDone t rd (BitVec.ofNat 64 old) (match m with
        | .store h _ => h != t / 64
        | _ => true))

def execAmoSwap (th rd rs1 rs2 z : Nat) (d _acq _rel : Bool) (s : State) : Host.Outcome State Fault Refusal :=
  done s (s.amo 0 th rd rs1 rs2 z d)
def execAmoAdd (th rd rs1 rs2 z : Nat) (d _acq _rel : Bool) (s : State) : Host.Outcome State Fault Refusal :=
  done s (s.amo 1 th rd rs1 rs2 z d)
def execAmoAnd (th rd rs1 rs2 z : Nat) (d _acq _rel : Bool) (s : State) : Host.Outcome State Fault Refusal :=
  done s (s.amo 2 th rd rs1 rs2 z d)
def execAmoOr (th rd rs1 rs2 z : Nat) (d _acq _rel : Bool) (s : State) : Host.Outcome State Fault Refusal :=
  done s (s.amo 3 th rd rs1 rs2 z d)
def execAmoXor (th rd rs1 rs2 z : Nat) (d _acq _rel : Bool) (s : State) : Host.Outcome State Fault Refusal :=
  done s (s.amo 4 th rd rs1 rs2 z d)
def execAmoMinu (th rd rs1 rs2 z : Nat) (d _acq _rel : Bool) (s : State) : Host.Outcome State Fault Refusal :=
  done s (s.amo 5 th rd rs1 rs2 z d)
def execAmoMaxu (th rd rs1 rs2 z : Nat) (d _acq _rel : Bool) (s : State) : Host.Outcome State Fault Refusal :=
  done s (s.amo 6 th rd rs1 rs2 z d)
def execAmoCas (th rd rs1 rs2 z : Nat) (d _acq _rel : Bool) (s : State) : Host.Outcome State Fault Refusal :=
  done s (s.amo 7 th rd rs1 rs2 z d)

/-! Block checksum (R373). -/

/-- (DEDUCED, unsafe: assumption 105) -/
def execCsumBlk (th rd rs1 rs2 : Nat) (s : State) : Host.Outcome State Fault Refusal :=
  done s (s.qIns th true (fun s =>
    let addr := (s.qr th rs1).toNat
    let n := (s.qr th rs2).toNat
    let m := qMem th addr n
    let acc := (s.qr th rd).toNat % 65536
    if n = 0 then s.qDone th rd (BitVec.ofNat 64 acc)
    else if 16384 < n then s.qFault th fltBus addr
    else if s.memFault th m n false ≠ 0 then s.qFault th (s.memFault th m n false) addr
    else
      let x := s.memRead th m n
      let long := match m with
        | .store h _ => h != th / 64
        | _ => true
      x.2.memDone th rd (BitVec.ofNat 64 (foldSum (acc + sumWords x.1))) long))

end Sys2Proof.Machine
end

