-- ==== Sys2Proof/Machine/QueronCall.lean ====
section
/-! DEFINITION. Packet operations and accelerator calls of Hive threads (R356, R357, R376, R377), the end of a long
access (R348, R378), and the end of a Scarab operation (R288). -/

namespace Sys2Proof.Machine

/-! Packet operations. -/

/-- The packet that a Hive holds under a handle. -/
def State.heldAt (s : State) (h x : Nat) : Option Nat :=
  match s.byHandle x with
  | some d => if (s.desc d).place = .held h then some d else none
  | none => none

/-- A status in RD. -/
def State.qStatus (s : State) (t rd st : Nat) : State := s.qDone t rd (BitVec.ofNat 64 st)

def State.setWin (s : State) (t k : Nat) (w : Option Nat) : State :=
  s.modTh t (fun v => if k = 0 then { v with win0 := w } else { v with win1 := w })

/-- (DEDUCED, unsafe: assumption 102) -/
def execPktMap (th rd rs1 rs2 : Nat) (s : State) : Host.Outcome State Fault Refusal :=
  done s (s.qIns th true (fun s =>
    let k := (s.qr th rs2).toNat
    let x := (s.qr th rs1).toNat % 2 ^ 32
    if 2 ≤ k then s.qFault th fltIllegal 0
    else match s.heldAt (th / 64) x with
      | some d => (s.setWin th k (some x)).qDone th rd (BitVec.ofNat 64 (s.pkt (s.desc d).pkt).bytes.length)
      | none => (s.setWin th k none).qDone th rd 0))

def execPktUnmap (th rd rs1 rs2 : Nat) (s : State) : Host.Outcome State Fault Refusal :=
  done s (s.qIns th (rd == 0 && rs1 == 0) (fun s =>
    let k := (s.qr th rs2).toNat
    if 2 ≤ k then s.qFault th fltIllegal 0 else (s.setWin th k none).qStep th))

def execPktRelease (th rd rs1 rs2 : Nat) (s : State) : Host.Outcome State Fault Refusal :=
  done s (s.qIns th (rs2 == 0) (fun s =>
    match s.heldAt (th / 64) (s.qr th rs1).toNat with
    | some d => ((s.qStatus th rd stOk).inc (HIVE.RELEASED.COUNT (th / 64))).discard d
    | none => s.qStatus th rd stMalformed))

/-- (DEDUCED, unsafe: assumption 102) -/
def execPktReinject (th rd rs1 rs2 : Nat) (s : State) : Host.Outcome State Fault Refusal :=
  done s (s.qIns th true (fun s =>
    let i := (s.qr th rs2).toNat
    if 2 ^ 32 ≤ i then s.qFault th fltIllegal 0
    else match s.heldAt (th / 64) (s.qr th rs1).toNat with
      | some d => ((s.qStatus th rd stOk).endHold d).reinject d i
      | none => s.qStatus th rd stMalformed))

/-! SEND (R357). -/

namespace SR
def addr : RF := byF 0 3
def len : RF := byF 4 5
def fromHandle : RF := biF 6 0 0
def direct : RF := biF 6 1 1
def txts : RF := biF 6 2 2
def tc : RF := byF 7 7
def destKind : RF := byF 8 8
def dest : RF := byF 10 11
def sub : RF := byF 12 13
def tag : RF := byF 16 19
end SR

/-- Whether a send record keeps R357, its handle and its destination aside. -/
def sendRestOk (r : BitVec 256) : Bool :=
  let len := rget r SR.len
  decide (14 ≤ len) && decide (len ≤ 16380) && decide (rget r SR.tc < 8) &&
  decide (1 ≤ rget r SR.destKind) && decide (rget r SR.destKind ≤ 4) &&
  (rget r SR.fromHandle == 1 || decide (rget r SR.addr + len ≤ hsSize))

/-- Whether a send record keeps R357, its handle aside; reserved bits are ignored (R9). (DEDUCED, unsafe: assumption 110) -/
def State.sendOk (s : State) (r : BitVec 256) : Bool :=
  sendRestOk r && s.destOk (rget r SR.destKind) (rget r SR.dest) (rget r SR.sub)

/-- The status of a record that breaks R357: SQUASHED where nothing but the end of its instance stands against it (R154). (DEDUCED, unsafe: assumption 147) -/
def State.sendBad (s : State) (r : BitVec 256) : Nat :=
  if sendRestOk r && s.destEnding (rget r SR.destKind) (rget r SR.dest) (rget r SR.sub) then stSquashed else stMalformed

/-- What a send record gives the packet: class, destination with DIRECT, timestamp request. -/
def sendDesc (t : Nat) (r : BitVec 256) (v : Desc) : Desc :=
  let dir := rget r SR.direct == 1
  { v with tc := rget r SR.tc, viaHive := true,
           dk := if dir then rget r SR.destKind else 0, dest := if dir then rget r SR.dest else 0,
           sub := if dir then rget r SR.sub else 0,
           txts := if rget r SR.txts = 1 then some (rget r SR.tag, t / 64) else none }

/-- A frame from the Hive's store: stored in shared cells, charged to the Hive until admission (R259). (DEDUCED, unsafe: assumption 110) -/
def State.sendNew (s : State) (t rd : Nat) (r : BitVec 256) : State :=
  let h := t / 64
  let f := s.hsRead h (rget r SR.addr) (rget r SR.len)
  let n := cellsOf f.length
  if s.g COMB.HIVE_LIMIT.CELLS < s.hiveCharge h + n ∨ s.poolFree < n ∨ s.descFree = 0 then s.qStatus t rd stBusy
  else
    let s := ((s.qStatus t rd stOk).takePool n).setHiveCharge h (s.hiveCharge h + n)
    let x := s.addPkt { Pkt.none with bytes := f, cells := n, refs := 1, hive := some h }
    let y := x.2.addDesc (sendDesc t r { Desc.empty with pkt := x.1, bytes := f, src := 9, inst := 2048 + h })
    y.2.enterPipe y.1 .pipe

/-- TRANSMIT: a held packet ends its hold and goes through the pipeline as source 9 with its version and time. (DEDUCED, unsafe: assumption 110) -/
def State.sendHeld (s : State) (t rd d : Nat) (r : BitVec 256) : State :=
  let s := (s.qStatus t rd stOk).endHold d
  let s := s.modDesc d (fun v =>
    sendDesc t r { v with by9 := true, words := [], jump := [], wi := 0, did := [], op := none, reason := 0, word := 0xFF, copy := false,
                          again := false, cr := ClsRes.none, flowIdx := 0xFFFF_FFFF })
  s.enterPipe d .pipe

def execPktSend (th rd rs1 rs2 : Nat) (s : State) : Host.Outcome State Fault Refusal :=
  done s (s.qIns th (rs2 == 0) (fun s =>
    let h := th / 64
    let a := (s.qr th rs1).toNat
    if a % 32 ≠ 0 then s.qFault th fltMisaligned a
    else match ownAt th a with
    | none => s.qFault th fltBus a
    | some o =>
      if s.shut th h o 32 then s.qFault th fltSecure a
      else
        let r : BitVec 256 := packBytes 256 (s.hsRead h o 32)
        if !s.sendOk r then s.qStatus th rd (s.sendBad r)
        else if rget r SR.fromHandle = 1 then
          match s.heldAt h (rget r SR.addr) with
          | some d => s.sendHeld th rd d r
          | none => s.qStatus th rd stMalformed
        else if s.shut th h (rget r SR.addr) (rget r SR.len) then s.qFault th fltSecure (rget r SR.addr)
        else s.sendNew th rd r))

/-! Accelerator calls (R377). -/

/-- The bytes of the own Hive store that a call names: whether RS1 and RS2 are addresses, and of how much. -/
def accRange (fn : Nat) : Nat × Nat :=
  match fn with
  | 0 => (256, 0)
  | 1 => (0, 256)
  | 2 => (0, 256)
  | 4 => (48, 0)
  | 5 => (0, 32)
  | 6 => (64, 64)
  | _ => (0, 0)

/-- The fault of one address operand of a call, 0 for none. (DEDUCED, unsafe: assumption 103) (DEDUCED, unsafe: assumption 109) -/
def State.accFault (s : State) (t a n : Nat) : Nat :=
  if n = 0 then 0
  else if a % 64 ≠ 0 then fltMisaligned
  else match ownAt t a with
  | none => fltBus
  | some o => if hsSize < o + n then fltBus else if s.shut t (t / 64) o n then fltSecure else 0

/-- Bytes of the own store at a checked address. -/
def State.accRead (s : State) (t a n : Nat) : Bytes := s.hsRead (t / 64) ((ownAt t a).getD 0) n
def State.accWrite (s : State) (t a : Nat) (bs : Bytes) : State := s.hsWrite (t / 64) ((ownAt t a).getD 0) bs

/-- An insertion (R228). (DESIGN CHOICE, unsafe: assumption 75) -/
def State.callInsert (s : State) (t a : Nat) : Nat × State :=
  let x := s.insertFlow (packBytes 2048 (s.accRead t a 256)) false
  let s := x.2
  if x.1.status = stOk then
    (stOk, s.accWrite t (a + 4) (leBytes 4 x.1.index ++ leBytes 4 (rget (s.ctx x.1.index) FC.hash)))
  else (x.1.status, s)

/-- All four chunks of a context in one cycle: nothing changes where a check fails (R227). -/
def State.callUpdate (s : State) (actor i : Nat) (bs : Bytes) : Nat × State :=
  let r : BitVec 2048 := packBytes 2048 bs
  let x := [0, 1, 2, 3].foldl (fun (x : Nat × State) c =>
    if x.1 = stOk then
      let y := x.2.writeCtx actor i c (chunkOf r c)
      (y.status, y.st)
    else x) (stOk, s)
  if x.1 = stOk then x else (x.1, s)

/-- The result of CLASS.MATCH. -/
def State.matchBytes (s : State) (d : Nat) : Bytes :=
  let v := s.desc d
  let c := (s.classify v).1
  let fl := match s.winner v with
    | some (_, r) => rget r RU.flags
    | none => 0
  padTo 32 (leBytes 4 (if c.rule = 0xFFFF then 0xFFFF_FFFF else c.rule) ++ leBytes 1 c.dk ++ leBytes 1 fl ++
    leBytes 2 c.dest ++ leBytes 2 c.sub ++ leBytes 1 c.kp ++ leBytes 1 (v.ver % 256) ++ leBytes 4 c.mark ++
    leBytes 4 c.alist ++ leBytes 4 (s.flowHash (s.flowKey v c.kp)))

/-! The Hive call of Scarab. -/

/-- Ranges of thread data addresses that a request reads, and those it writes. -/
def callReads (r : BitVec 512) : List (Nat × Nat) := cryptoRanges r
def callWrites (r : BitVec 512) : List (Nat × Nat) :=
  let op := rget r EN.opcode
  ([(rget r CE.dst, if op = 1 ∨ op = 2 ∨ op = 5 then rget r CE.len else 0),
    (rget r CE.tag, if op = 1 ∨ op = 3 then rget r CE.tagLen else 0)]).filter (fun e => e.2 != 0)

/-- Whether a range lies in Hive store or HBM, where the thread may access it. (DEDUCED, unsafe: assumption 93) -/
def State.callMem (s : State) (t : Nat) (e : Nat × Nat) : Bool :=
  (qMem t e.1 e.2).atomic && s.memFault t (qMem t e.1 e.2) e.2 true == 0

/-- Whether Scarab takes a request: from a secure thread, for a LOOKASIDE slot of no instance, well formed. (DEDUCED, unsafe: assumption 93) -/
def State.callOk (s : State) (t : Nat) (r : BitVec 512) : Bool :=
  s.secThread t && s.cryptoReason 0xFFFF r == 0 && (callReads r).all (s.callMem t) && (callWrites r).all (s.callMem t)

/-- The operation of a request, its input read; the result goes to `b`. -/
def State.callScarab (s : State) (t : Nat) (a b : Nat) : State :=
  let raw := s.accRead t a 64
  let r : BitVec 512 := packBytes 512 raw
  if !s.callOk t r then s.qValue t (BitVec.ofNat 64 stMalformed)
  else
    let op := rget r EN.opcode
    let data := (callReads r).flatMap (fun e => (s.memRead t (qMem t e.1 e.2) e.2).1)
    let slot := if op = 5 then slotMax else rget r CE.slot
    let x := s.newOp (.call t) slot (if op = 1 ∨ op = 3 then 1 else 0) (ceilDiv data.length 16 + 1) 2048
      (raw ++ leBytes 8 b ++ data)
    x.2.modTh t (fun v => { v with wait := v.wait.map (fun w => { w with ready := false, op := x.1 + 1 }) })

/-- The 64-byte result: an extended CRYPTO completion of no WQ (R174, R304). -/
def callResult (o : SOp) (r : BitVec 512) (x : CryptoRes) (ns : Nat) : Bytes :=
  let sol := rget r EN.solicit == 1 || x.status != 0
  padTo 64 (leBytes 4 (rget r EN.tag) ++ leBytes 2 x.status ++ leBytes 2 (4 + 8 + 16 * b2n sol + 32 * b2n o.retried) ++
    leBytes 4 0xFFFF_FFFF ++ leBytes 4 0xFFFF_FFFF ++ leBytes 8 ns ++ cryptoData o x ++ cryptoExt o x)

/-- The end of a Hive call's operation: output and result are written, and the waiting thread has its status. -/
def State.callDone (s : State) (k : Nat) (o : SOp) (t : Nat) : State :=
  let r : BitVec 512 := packBytes 512 (o.req.take 64)
  let y := s.cryptoRnd r
  let x := cryptoEnd o r (o.req.drop 72) y.1
  let s := y.2.endOp k
  let out (s : State) (a : Nat) (bs : Bytes) : State := if bs.isEmpty then s else s.memWrite t (qMem t a bs.length) bs
  let s := out (out s (rget r CE.dst) x.out) (rget r CE.tag) x.tag
  let s := s.accWrite t (leAt o.req 64 8) (callResult o r x s.ns)
  s.modTh t (fun v => { v with wait := v.wait.map (fun w =>
    if w.op = k + 1 then { w with value := BitVec.ofNat 64 x.status, ready := true } else w) })

/-! The calls as a thread makes them. -/

/-- What FLOW and CLASS do for a call: RD's value. -/
def State.callRun (s : State) (t fn a b : Nat) : Nat × State :=
  match fn with
  | 0 => s.callInsert t a
  | 1 => if flowMax ≤ a then (stMalformed, s) else (stOk, s.accWrite t b (recBytes (s.ctxView a)))
  | 2 => if flowMax ≤ a then (stMalformed, s) else s.callUpdate (thActor t) a (s.accRead t b 256)
  | 3 => if flowMax ≤ a then (stMalformed, s) else s.invalCtx a
  | 4 =>
    let key := s.accRead t a 48
    ((s.findFlow key (s.flowHash key)).getD 0xFFFF_FFFF, s)
  | _ =>
    match s.heldAt (t / 64) a with
    | some d => (stOk, s.accWrite t b (s.matchBytes d))
    | none => (stMalformed, s)

/-- Whether the call changes FLOW's tables, which its claim restricts (R58). (DEDUCED, unsafe: assumption 111) -/
def callWritesFlow (fn : Nat) : Bool := fn == 0 || fn == 2 || fn == 3

/-- A call reaches its unit, which takes it, or it waits for the unit (R402, R49). (DEDUCED, unsafe: assumption 111) -/
def State.callTry (s : State) (t fn : Nat) (a b : Word) : State :=
  let u := if fn = 6 then SCARAB.base else if fn = 5 then CLASS.base else FLOW.base
  let d := if fn = 6 then 9 else 1
  let keep (s : State) : State :=
    s.modTh t (fun v => { v with wait := v.wait.map (fun w => { w with ready := false, call := some (fn, a, b) }) })
  match s.transfer (14 + t / 64) d (xferCall t) with
  | (.denied, s) => s.powerDenied.qValue t (BitVec.ofNat 64 stPowerDenied)
  | (.wait, s) => keep s
  | (.go, s) =>
    if !s.inService u then keep s
    else if fn = 6 then s.callScarab t a.toNat b.toNat
    else if callWritesFlow fn && !s.claimAllows (UNIT.CLAIM.reg FLOW.base) (thActor t) then
      (s.evtConflict FLOW.base).qValue t (BitVec.ofNat 64 stConflict)
    else
      let x := s.callRun t fn a.toNat b.toNat
      x.2.qValue t (BitVec.ofNat 64 x.1)

/-- An ACC instruction: its address operands are checked, then the thread waits for the unit. -/
def State.acc (s : State) (t rd rs1 rs2 fn : Nat) (legal : Bool) : State :=
  s.qIns t legal (fun s =>
    let a := s.qr t rs1
    let b := s.qr t rs2
    let n := accRange fn
    if s.accFault t a.toNat n.1 ≠ 0 then s.qFault t (s.accFault t a.toNat n.1) a.toNat
    else if s.accFault t b.toNat n.2 ≠ 0 then s.qFault t (s.accFault t b.toNat n.2) b.toNat
    else (s.qWait t rd 0).callTry t fn a b)

def execAccFlowInsert (th rd rs1 rs2 : Nat) (s : State) : Host.Outcome State Fault Refusal :=
  done s (s.acc th rd rs1 rs2 0 (rs2 == 0))
def execAccFlowRead (th rd rs1 rs2 : Nat) (s : State) : Host.Outcome State Fault Refusal :=
  done s (s.acc th rd rs1 rs2 1 true)
def execAccFlowUpdate (th rd rs1 rs2 : Nat) (s : State) : Host.Outcome State Fault Refusal :=
  done s (s.acc th rd rs1 rs2 2 true)
def execAccFlowInval (th rd rs1 rs2 : Nat) (s : State) : Host.Outcome State Fault Refusal :=
  done s (s.acc th rd rs1 rs2 3 (rs2 == 0))
def execAccFlowLookup (th rd rs1 rs2 : Nat) (s : State) : Host.Outcome State Fault Refusal :=
  done s (s.acc th rd rs1 rs2 4 (rs2 == 0))
def execAccClassMatch (th rd rs1 rs2 : Nat) (s : State) : Host.Outcome State Fault Refusal :=
  done s (s.acc th rd rs1 rs2 5 true)
def execAccScarab (th rd rs1 rs2 : Nat) (s : State) : Host.Outcome State Fault Refusal :=
  done s (s.acc th rd rs1 rs2 6 true)

/-! The end of a long access (R348, R378). -/

/-- The access is over: a RESET that waits for it discards its result, a halt takes effect after it. -/
def State.accessEnd (s : State) (t : Nat) (w : WaitAcc) : State :=
  let v := s.th t
  if v.later = 1 then s.resetTh t
  else
    let s := (s.modTh t (fun x => { x with wait := none, later := 0 })).qDone t w.rd w.value
    s.setThState t (if v.later = 2 then thHalted else thRun)

/-- A call that its unit has not taken is offered again. -/
def State.accessRetry (s : State) (t : Nat) : State :=
  match (s.th t).wait with
  | some ⟨rd, v, _, op, some (fn, a, b)⟩ =>
    (s.modTh t (fun x => { x with wait := some ⟨rd, v, true, op, none⟩ })).callTry t fn a b
  | _ => s

def execAccessComplete (th : Nat) (s : State) : Host.Outcome State Fault Refusal :=
  done s (if !thOk th || ((s.th th).state != thWait && (s.th th).later != 1) then s
  else
    let s := s.accessRetry th
    match (s.th th).wait with
    | some w => if w.ready then s.accessEnd th w else s
    | none => s)

/-! The end of a Scarab operation (R288). -/

/-- Operation k has run and reports to what it serves; one with blocks to compute waits for a pair that takes them. -/
def State.opDone (s : State) (k : Nat) (o : SOp) : State :=
  match o.use with
  | .inline d => (s.opBlocks o).inlineDone k o d
  | .entry w index => s.cryptoDone k o w index
  | .part p => (((s.opBlocks o).partCiphered p o).endOp k).partGo p
  | .call t => (s.opBlocks o).callDone k o t

def execScarabOpDone (k : Nat) (s : State) : Host.Outcome State Fault Refusal :=
  done s (match s.sops.find? (fun e => e.1 == k) with
    | some (_, o) => if o.seq.isSome && !s.opWaits o then s.opDone k o else s
    | none => s)

end Sys2Proof.Machine
end

