-- ==== Sys2Proof/Machine/Dispatch.lean ====
section
/-! DEFINITION. The arm of every command. -/

namespace Sys2Proof.Machine

/-- The effect of a command on everything but the queue. -/
def exec (i : Instr) (s : State) : Host.Outcome State Fault Refusal :=
  match i with
  | .registerWrite actor addr wide v => Sys2Proof.Machine.execRegisterWrite actor addr wide v s
  | .hostWriteTlp l bar off requester be data => Sys2Proof.Machine.execHostWriteTlp l bar off requester be data s
  | .hostReadTlp l bar off len requester tag => Sys2Proof.Machine.execHostReadTlp l bar off len requester tag s
  | .rcRead actor addr wide => Sys2Proof.Machine.execRcRead actor addr wide s
  | .svcReqWrite actor unit req => Sys2Proof.Machine.execSvcReqWrite actor unit req s
  | .quiesceComplete unit => Sys2Proof.Machine.execQuiesceComplete unit s
  | .returnChecksPass unit => Sys2Proof.Machine.execReturnChecksPass unit s
  | .entryChecksDone unit pass => Sys2Proof.Machine.execEntryChecksDone unit pass s
  | .evtClear actor unit v => Sys2Proof.Machine.execEvtClear actor unit v s
  | .devEvtRearm actor l v => Sys2Proof.Machine.execDevEvtRearm actor l v s
  | .faultClear actor unit => Sys2Proof.Machine.execFaultClear actor unit s
  | .claim actor word => Sys2Proof.Machine.execClaim actor word s
  | .claimRelease actor word => Sys2Proof.Machine.execClaimRelease actor word s
  | .claimForce actor word => Sys2Proof.Machine.execClaimForce actor word s
  | .tapAddrWrite actor unit v => Sys2Proof.Machine.execTapAddrWrite actor unit v s
  | .tapDataWrite actor unit k v => Sys2Proof.Machine.execTapDataWrite actor unit k v s
  | .tapRead actor unit => Sys2Proof.Machine.execTapRead actor unit s
  | .tapWrite actor unit => Sys2Proof.Machine.execTapWrite actor unit s
  | .tapStage actor unit => Sys2Proof.Machine.execTapStage actor unit s
  | .tapInvalidate actor unit => Sys2Proof.Machine.execTapInvalidate actor unit s
  | .tapRelease actor unit => Sys2Proof.Machine.execTapRelease actor unit s
  | .tapHoldExpire unit => Sys2Proof.Machine.execTapHoldExpire unit s
  | .tapCommandComplete unit => Sys2Proof.Machine.execTapCommandComplete unit s
  | .timeRead actor wide => Sys2Proof.Machine.execTimeRead actor wide s
  | .timePageRead inst wide => Sys2Proof.Machine.execTimePageRead inst wide s
  | .adjFreqWrite actor v => Sys2Proof.Machine.execAdjFreqWrite actor v s
  | .adjPhaseWrite actor v => Sys2Proof.Machine.execAdjPhaseWrite actor v s
  | .slewDone => Sys2Proof.Machine.execSlewDone s
  | .edrynStep actor v => Sys2Proof.Machine.execEdrynStep actor v s
  | .servoAcq actor v => Sys2Proof.Machine.execServoAcq actor v s
  | .servoLock actor v => Sys2Proof.Machine.execServoLock actor v s
  | .heartbeat actor v => Sys2Proof.Machine.execHeartbeat actor v s
  | .boundWrite actor v => Sys2Proof.Machine.execBoundWrite actor v s
  | .servoTimeout => Sys2Proof.Machine.execServoTimeout s
  | .holdoverTick => Sys2Proof.Machine.execHoldoverTick s
  | .leapApply => Sys2Proof.Machine.execLeapApply s
  | .trefQualify => Sys2Proof.Machine.execTrefQualify s
  | .trefLoss => Sys2Proof.Machine.execTrefLoss s
  | .synceCdrLoss lane => Sys2Proof.Machine.execSynceCdrLoss lane s
  | .ppsEdge pin => Sys2Proof.Machine.execPpsEdge pin s
  | .todMessageRx msg framingOk durNs => Sys2Proof.Machine.execTodMessageRx msg framingOk durNs s
  | .todMessageTx => Sys2Proof.Machine.execTodMessageTx s
  | .timePageUpdate inst => Sys2Proof.Machine.execTimePageUpdate inst s
  | .ptmDialog l => Sys2Proof.Machine.execPtmDialog l s
  | .ptmResponse l master delay => Sys2Proof.Machine.execPtmResponse l master delay s
  | .ptmAbandon l => Sys2Proof.Machine.execPtmAbandon l s
  | .evidenceRecord => Sys2Proof.Machine.execEvidenceRecord s
  | .ffConfigWrite actor n reg v => Sys2Proof.Machine.execFfConfigWrite actor n reg v s
  | .fireflyPeriodicEdge n => Sys2Proof.Machine.execFireflyPeriodicEdge n s
  | .trigArm actor n v => Sys2Proof.Machine.execTrigArm actor n v s
  | .trigDisarm actor n v => Sys2Proof.Machine.execTrigDisarm actor n v s
  | .trigFire n => Sys2Proof.Machine.execTrigFire n s
  | .perstAssert l => Sys2Proof.Machine.execPerstAssert l s
  | .perstDeassert l => Sys2Proof.Machine.execPerstDeassert l s
  | .hotReset l => Sys2Proof.Machine.execHotReset l s
  | .linkDisable l => Sys2Proof.Machine.execLinkDisable l s
  | .dlDown l => Sys2Proof.Machine.execDlDown l s
  | .dlUp l => Sys2Proof.Machine.execDlUp l s
  | .linkTrained l rates widths flit => Sys2Proof.Machine.execLinkTrained l rates widths flit s
  | .configRequest l write r v => Sys2Proof.Machine.execConfigRequest l write r v s
  | .bmeClear l => Sys2Proof.Machine.execBmeClear l s
  | .bmeSet l => Sys2Proof.Machine.execBmeSet l s
  | .cplTimeout l tag => Sys2Proof.Machine.execCplTimeout l tag s
  | .quarantineEnd l tag => Sys2Proof.Machine.execQuarantineEnd l tag s
  | .completionRx l tag idOk status bc la data => Sys2Proof.Machine.execCompletionRx l tag idOk status bc la data s
  | .poisonedTlp l cpl => Sys2Proof.Machine.execPoisonedTlp l cpl s
  | .malformedTlp l cpl => Sys2Proof.Machine.execMalformedTlp l cpl s
  | .sealRelease actor v => Sys2Proof.Machine.execSealRelease actor v s
  | .peerwinCommit actor l v => Sys2Proof.Machine.execPeerwinCommit actor l v s
  | .peerWindowTlp l rid tag off len pasid write data => Sys2Proof.Machine.execPeerWindowTlp l rid tag off len pasid write data s
  | .atsInvalidate l itag pasid all va size => Sys2Proof.Machine.execAtsInvalidate l itag pasid all va size s
  | .atsInvalidateComplete l => Sys2Proof.Machine.execAtsInvalidateComplete l s
  | .translationCompletion l tag status pa log2 rd wr => Sys2Proof.Machine.execTranslationCompletion l tag status pa log2 rd wr s
  | .orderProbe inst rid tag => Sys2Proof.Machine.execOrderProbe inst rid tag s
  | .orderProbeComplete l => Sys2Proof.Machine.execOrderProbeComplete l s
  | .instCreate actor inst => Sys2Proof.Machine.execInstCreate actor inst s
  | .instReset actor inst mode us => Sys2Proof.Machine.execInstReset actor inst mode us s
  | .instDestroy actor inst mode us => Sys2Proof.Machine.execInstDestroy actor inst mode us s
  | .instSetShares actor inst => Sys2Proof.Machine.execInstSetShares actor inst s
  | .drainConvert inst => Sys2Proof.Machine.execDrainConvert inst s
  | .instCmdDone inst => Sys2Proof.Machine.execInstCmdDone inst s
  | .wqDoorbell inst w p => Sys2Proof.Machine.execWqDoorbell inst w p s
  | .crDoorbell inst c wide hi v => Sys2Proof.Machine.execCrDoorbell inst c wide hi v s
  | .entryFetch w n => Sys2Proof.Machine.execEntryFetch w n s
  | .entryStart w => Sys2Proof.Machine.execEntryStart w s
  | .coalTimer c => Sys2Proof.Machine.execCoalTimer c s
  | .ringStart actor cr n => Sys2Proof.Machine.execRingStart actor cr n s
  | .ringStop actor cr n => Sys2Proof.Machine.execRingStop actor cr n s
  | .ringReset actor cr n => Sys2Proof.Machine.execRingReset actor cr n s
  | .classCommit actor v => Sys2Proof.Machine.execClassCommit actor v s
  | .versionRetire => Sys2Proof.Machine.execVersionRetire s
  | .ageVisit idx => Sys2Proof.Machine.execAgeVisit idx s
  | .admission q => Sys2Proof.Machine.execAdmission q s
  | .cellReserveGrant => Sys2Proof.Machine.execCellReserveGrant s
  | .stuckDetect q => Sys2Proof.Machine.execStuckDetect q s
  | .pauseStorm p t => Sys2Proof.Machine.execPauseStorm p t s
  | .dispatch e => Sys2Proof.Machine.execDispatch e s
  | .shaperRefill kind n => Sys2Proof.Machine.execShaperRefill kind n s
  | .beelineHold p => Sys2Proof.Machine.execBeelineHold p s
  | .beelineLaunch p => Sys2Proof.Machine.execBeelineLaunch p s
  | .progVerify actor => Sys2Proof.Machine.execProgVerify actor s
  | .progVerifyDone => Sys2Proof.Machine.execProgVerifyDone s
  | .progRoll actor => Sys2Proof.Machine.execProgRoll actor s
  | .sequencerReloadDone => Sys2Proof.Machine.execSequencerReloadDone s
  | .progDiscard actor => Sys2Proof.Machine.execProgDiscard actor s
  | .slotErase actor => Sys2Proof.Machine.execSlotErase actor s
  | .slotSwitch actor => Sys2Proof.Machine.execSlotSwitch actor s
  | .scarabOpDone k => Sys2Proof.Machine.execScarabOpDone k s
  | .scarabAlarm cause => Sys2Proof.Machine.execScarabAlarm cause s
  | .maskReseed pair => Sys2Proof.Machine.execMaskReseed pair s
  | .pairFaultClear actor mask => Sys2Proof.Machine.execPairFaultClear actor mask s
  | .tlsSync actor v => Sys2Proof.Machine.execTlsSync actor v s
  | .inlineSessionDone k => Sys2Proof.Machine.execInlineSessionDone k s
  | .partIssue r => Sys2Proof.Machine.execPartIssue r s
  | .remoteResponse c => Sys2Proof.Machine.execRemoteResponse c s
  | .remoteIoTimeout c => Sys2Proof.Machine.execRemoteIoTimeout c s
  | .tcpRto c => Sys2Proof.Machine.execTcpRto c s
  | .mapFence actor v => Sys2Proof.Machine.execMapFence actor v s
  | .foragerChStart actor c => Sys2Proof.Machine.execForagerChStart actor c s
  | .foragerChAbort actor c => Sys2Proof.Machine.execForagerChAbort actor c s
  | .foragerChReset actor c => Sys2Proof.Machine.execForagerChReset actor c s
  | .foragerChDoorbell actor c v => Sys2Proof.Machine.execForagerChDoorbell actor c v s
  | .descriptorStart c => Sys2Proof.Machine.execDescriptorStart c s
  | .timedDescriptorStart c => Sys2Proof.Machine.execTimedDescriptorStart c s
  | .descriptorFinish c => Sys2Proof.Machine.execDescriptorFinish c s
  | .groupModeSwitch g => Sys2Proof.Machine.execGroupModeSwitch g s
  | .threadStart actor th entry => Sys2Proof.Machine.execThreadStart actor th entry s
  | .threadReset actor th => Sys2Proof.Machine.execThreadReset actor th s
  | .accessComplete th => Sys2Proof.Machine.execAccessComplete th s
  | .threadTimer th => Sys2Proof.Machine.execThreadTimer th s
  | .hiveStall h => Sys2Proof.Machine.execHiveStall h s
  | .migrateDone actor h v => Sys2Proof.Machine.execMigrateDone actor h v s
  | .migrateTimeout h => Sys2Proof.Machine.execMigrateTimeout h s
  | .imageVerifyDone unit => Sys2Proof.Machine.execImageVerifyDone unit s
  | .debugHalt threads => Sys2Proof.Machine.execDebugHalt threads s
  | .debugResume threads => Sys2Proof.Machine.execDebugResume threads s
  | .add th rd rs1 rs2 => Sys2Proof.Machine.execAdd th rd rs1 rs2 s
  | .sub th rd rs1 rs2 => Sys2Proof.Machine.execSub th rd rs1 rs2 s
  | .and th rd rs1 rs2 => Sys2Proof.Machine.execAnd th rd rs1 rs2 s
  | .or th rd rs1 rs2 => Sys2Proof.Machine.execOr th rd rs1 rs2 s
  | .xor th rd rs1 rs2 => Sys2Proof.Machine.execXor th rd rs1 rs2 s
  | .sll th rd rs1 rs2 => Sys2Proof.Machine.execSll th rd rs1 rs2 s
  | .srl th rd rs1 rs2 => Sys2Proof.Machine.execSrl th rd rs1 rs2 s
  | .sra th rd rs1 rs2 => Sys2Proof.Machine.execSra th rd rs1 rs2 s
  | .slt th rd rs1 rs2 => Sys2Proof.Machine.execSlt th rd rs1 rs2 s
  | .sltu th rd rs1 rs2 => Sys2Proof.Machine.execSltu th rd rs1 rs2 s
  | .mul th rd rs1 rs2 => Sys2Proof.Machine.execMul th rd rs1 rs2 s
  | .mulhu th rd rs1 rs2 => Sys2Proof.Machine.execMulhu th rd rs1 rs2 s
  | .minu th rd rs1 rs2 => Sys2Proof.Machine.execMinu th rd rs1 rs2 s
  | .maxu th rd rs1 rs2 => Sys2Proof.Machine.execMaxu th rd rs1 rs2 s
  | .clz th rd rs1 rs2 => Sys2Proof.Machine.execClz th rd rs1 rs2 s
  | .ctz th rd rs1 rs2 => Sys2Proof.Machine.execCtz th rd rs1 rs2 s
  | .popc th rd rs1 rs2 => Sys2Proof.Machine.execPopc th rd rs1 rs2 s
  | .bswap th rd rs1 rs2 => Sys2Proof.Machine.execBswap th rd rs1 rs2 s
  | .bswap32 th rd rs1 rs2 => Sys2Proof.Machine.execBswap32 th rd rs1 rs2 s
  | .bswap16 th rd rs1 rs2 => Sys2Proof.Machine.execBswap16 th rd rs1 rs2 s
  | .addi th rd rs1 imm => Sys2Proof.Machine.execAddi th rd rs1 imm s
  | .andi th rd rs1 imm => Sys2Proof.Machine.execAndi th rd rs1 imm s
  | .ori th rd rs1 imm => Sys2Proof.Machine.execOri th rd rs1 imm s
  | .xori th rd rs1 imm => Sys2Proof.Machine.execXori th rd rs1 imm s
  | .slli th rd rs1 z cnt => Sys2Proof.Machine.execSlli th rd rs1 z cnt s
  | .srli th rd rs1 z cnt => Sys2Proof.Machine.execSrli th rd rs1 z cnt s
  | .srai th rd rs1 z cnt => Sys2Proof.Machine.execSrai th rd rs1 z cnt s
  | .slti th rd rs1 imm => Sys2Proof.Machine.execSlti th rd rs1 imm s
  | .sltiu th rd rs1 imm => Sys2Proof.Machine.execSltiu th rd rs1 imm s
  | .lic th rd k => Sys2Proof.Machine.execLic th rd k s
  | .appi th rd k => Sys2Proof.Machine.execAppi th rd k s
  | .bfx th rd rs1 z sx pos len => Sys2Proof.Machine.execBfx th rd rs1 z sx pos len s
  | .bfi th rd rs1 z sx pos len => Sys2Proof.Machine.execBfi th rd rs1 z sx pos len s
  | .csumAdd th rd rs1 rs2 => Sys2Proof.Machine.execCsumAdd th rd rs1 rs2 s
  | .csumBlk th rd rs1 rs2 => Sys2Proof.Machine.execCsumBlk th rd rs1 rs2 s
  | .crcB th rd rs1 rs2 => Sys2Proof.Machine.execCrcB th rd rs1 rs2 s
  | .crcD th rd rs1 rs2 => Sys2Proof.Machine.execCrcD th rd rs1 rs2 s
  | .lb th rd rs1 imm => Sys2Proof.Machine.execLb th rd rs1 imm s
  | .lbu th rd rs1 imm => Sys2Proof.Machine.execLbu th rd rs1 imm s
  | .lh th rd rs1 imm => Sys2Proof.Machine.execLh th rd rs1 imm s
  | .lhu th rd rs1 imm => Sys2Proof.Machine.execLhu th rd rs1 imm s
  | .lw th rd rs1 imm => Sys2Proof.Machine.execLw th rd rs1 imm s
  | .lwu th rd rs1 imm => Sys2Proof.Machine.execLwu th rd rs1 imm s
  | .ld th rd rs1 imm => Sys2Proof.Machine.execLd th rd rs1 imm s
  | .sb th rd rs1 imm => Sys2Proof.Machine.execSb th rd rs1 imm s
  | .sh th rd rs1 imm => Sys2Proof.Machine.execSh th rd rs1 imm s
  | .sw th rd rs1 imm => Sys2Proof.Machine.execSw th rd rs1 imm s
  | .sd th rd rs1 imm => Sys2Proof.Machine.execSd th rd rs1 imm s
  | .amoSwap th rd rs1 rs2 z d acq rel => Sys2Proof.Machine.execAmoSwap th rd rs1 rs2 z d acq rel s
  | .amoAdd th rd rs1 rs2 z d acq rel => Sys2Proof.Machine.execAmoAdd th rd rs1 rs2 z d acq rel s
  | .amoAnd th rd rs1 rs2 z d acq rel => Sys2Proof.Machine.execAmoAnd th rd rs1 rs2 z d acq rel s
  | .amoOr th rd rs1 rs2 z d acq rel => Sys2Proof.Machine.execAmoOr th rd rs1 rs2 z d acq rel s
  | .amoXor th rd rs1 rs2 z d acq rel => Sys2Proof.Machine.execAmoXor th rd rs1 rs2 z d acq rel s
  | .amoMinu th rd rs1 rs2 z d acq rel => Sys2Proof.Machine.execAmoMinu th rd rs1 rs2 z d acq rel s
  | .amoMaxu th rd rs1 rs2 z d acq rel => Sys2Proof.Machine.execAmoMaxu th rd rs1 rs2 z d acq rel s
  | .amoCas th rd rs1 rs2 z d acq rel => Sys2Proof.Machine.execAmoCas th rd rs1 rs2 z d acq rel s
  | .beq th rs1 rs2 off => Sys2Proof.Machine.execBeq th rs1 rs2 off s
  | .bne th rs1 rs2 off => Sys2Proof.Machine.execBne th rs1 rs2 off s
  | .blt th rs1 rs2 off => Sys2Proof.Machine.execBlt th rs1 rs2 off s
  | .bge th rs1 rs2 off => Sys2Proof.Machine.execBge th rs1 rs2 off s
  | .bltu th rs1 rs2 off => Sys2Proof.Machine.execBltu th rs1 rs2 off s
  | .bgeu th rs1 rs2 off => Sys2Proof.Machine.execBgeu th rs1 rs2 off s
  | .jal th rd off => Sys2Proof.Machine.execJal th rd off s
  | .jalr th rd rs1 imm => Sys2Proof.Machine.execJalr th rd rs1 imm s
  | .chPut th rd rs1 rs2 => Sys2Proof.Machine.execChPut th rd rs1 rs2 s
  | .chCommit th rd rs1 rs2 => Sys2Proof.Machine.execChCommit th rd rs1 rs2 s
  | .chTake th rd rs1 rs2 => Sys2Proof.Machine.execChTake th rd rs1 rs2 s
  | .chDiscard th rd rs1 rs2 => Sys2Proof.Machine.execChDiscard th rd rs1 rs2 s
  | .wfe th rd rs1 rs2 => Sys2Proof.Machine.execWfe th rd rs1 rs2 s
  | .sev th rd rs1 rs2 => Sys2Proof.Machine.execSev th rd rs1 rs2 s
  | .ctlGet th rd rs1 rs2 num => Sys2Proof.Machine.execCtlGet th rd rs1 rs2 num s
  | .ctlPut th rd rs1 rs2 num => Sys2Proof.Machine.execCtlPut th rd rs1 rs2 num s
  | .ctlOr th rd rs1 rs2 num => Sys2Proof.Machine.execCtlOr th rd rs1 rs2 num s
  | .ctlBic th rd rs1 rs2 num => Sys2Proof.Machine.execCtlBic th rd rs1 rs2 num s
  | .fenceM th rd rs1 rs2 => Sys2Proof.Machine.execFenceM th rd rs1 rs2 s
  | .fenceG th rd rs1 rs2 => Sys2Proof.Machine.execFenceG th rd rs1 rs2 s
  | .fenceMg th rd rs1 rs2 => Sys2Proof.Machine.execFenceMg th rd rs1 rs2 s
  | .pktMap th rd rs1 rs2 => Sys2Proof.Machine.execPktMap th rd rs1 rs2 s
  | .pktUnmap th rd rs1 rs2 => Sys2Proof.Machine.execPktUnmap th rd rs1 rs2 s
  | .pktRelease th rd rs1 rs2 => Sys2Proof.Machine.execPktRelease th rd rs1 rs2 s
  | .pktReinject th rd rs1 rs2 => Sys2Proof.Machine.execPktReinject th rd rs1 rs2 s
  | .pktSend th rd rs1 rs2 => Sys2Proof.Machine.execPktSend th rd rs1 rs2 s
  | .accFlowInsert th rd rs1 rs2 => Sys2Proof.Machine.execAccFlowInsert th rd rs1 rs2 s
  | .accFlowRead th rd rs1 rs2 => Sys2Proof.Machine.execAccFlowRead th rd rs1 rs2 s
  | .accFlowUpdate th rd rs1 rs2 => Sys2Proof.Machine.execAccFlowUpdate th rd rs1 rs2 s
  | .accFlowInval th rd rs1 rs2 => Sys2Proof.Machine.execAccFlowInval th rd rs1 rs2 s
  | .accFlowLookup th rd rs1 rs2 => Sys2Proof.Machine.execAccFlowLookup th rd rs1 rs2 s
  | .accClassMatch th rd rs1 rs2 => Sys2Proof.Machine.execAccClassMatch th rd rs1 rs2 s
  | .accScarab th rd rs1 rs2 => Sys2Proof.Machine.execAccScarab th rd rs1 rs2 s
  | .mailboxWrite actor w c m v => Sys2Proof.Machine.execMailboxWrite actor w c m v s
  | .mailboxRead actor w c m wide => Sys2Proof.Machine.execMailboxRead actor w c m wide s
  | .crossedDetect w c => Sys2Proof.Machine.execCrossedDetect w c s
  | .dbRing actor w d v => Sys2Proof.Machine.execDbRing actor w d v s
  | .lockRead actor w k wide => Sys2Proof.Machine.execLockRead actor w k wide s
  | .lockRelease actor w k => Sys2Proof.Machine.execLockRelease actor w k s
  | .lockForce actor w k => Sys2Proof.Machine.execLockForce actor w k s
  | .voteWrite actor v => Sys2Proof.Machine.execVoteWrite actor v s
  | .idleEnter d => Sys2Proof.Machine.execIdleEnter d s
  | .powerStepDone d => Sys2Proof.Machine.execPowerStepDone d s
  | .wakeStepDone d => Sys2Proof.Machine.execWakeStepDone d s
  | .wakeStepTimeout d => Sys2Proof.Machine.execWakeStepTimeout d s
  | .wakeRetry d => Sys2Proof.Machine.execWakeRetry d s
  | .domainRetry actor d => Sys2Proof.Machine.execDomainRetry actor d s
  | .offRequest actor v => Sys2Proof.Machine.execOffRequest actor v s
  | .wakeNEvent => Sys2Proof.Machine.execWakeNEvent s
  | .offWakeRelease strapBoot strapHost imgA imgB tests => Sys2Proof.Machine.execOffWakeRelease strapBoot strapHost imgA imgB tests s
  | .regPgLoss k => Sys2Proof.Machine.execRegPgLoss k s
  | .faultEvent src member row owner reader arg => Sys2Proof.Machine.execFaultEvent src member row owner reader arg s
  | .ageingSample g margin life => Sys2Proof.Machine.execAgeingSample g margin life s
  | .sysResetAssert => Sys2Proof.Machine.execSysResetAssert s
  | .sysResetRelease strapBoot strapHost imgA imgB tests => Sys2Proof.Machine.execSysResetRelease strapBoot strapHost imgA imgB tests s
  | .bootComplete => Sys2Proof.Machine.execBootComplete s
  | .recoverGo actor v => Sys2Proof.Machine.execRecoverGo actor v s
  | .chitinSubmitH actor v => Sys2Proof.Machine.execChitinSubmitH actor v s
  | .chitinSubmitP session record => Sys2Proof.Machine.execChitinSubmitP session record s
  | .chitinWindowExpire => Sys2Proof.Machine.execChitinWindowExpire s
  | .spdmRequest code session root authOk body => Sys2Proof.Machine.execSpdmRequest code session root authOk body s
  | .jtagAccess op addr wide v => Sys2Proof.Machine.execJtagAccess op addr wide v s
  | .portModeWrite actor p v => Sys2Proof.Machine.execPortModeWrite actor p v s
  | .frameReceive p bytes cap down fec asm fcs => Sys2Proof.Machine.execFrameReceive p bytes cap down fec asm fcs s
  | .pauseFrameRx p pfc vec quanta => Sys2Proof.Machine.execPauseFrameRx p pfc vec quanta s
  | .pauseExpire p k => Sys2Proof.Machine.execPauseExpire p k s
  | .pfcRefresh p => Sys2Proof.Machine.execPfcRefresh p s
  | .preemptVerify p ok => Sys2Proof.Machine.execPreemptVerify p ok s
  | .linkUp p => Sys2Proof.Machine.execLinkUp p s
  | .linkDown p => Sys2Proof.Machine.execLinkDown p s
  | .calDone p => Sys2Proof.Machine.execCalDone p s
  | .frameTransmitDone p => Sys2Proof.Machine.execFrameTransmitDone p s
  | .thermSample tj => Sys2Proof.Machine.execThermSample tj s
  | .regPoll readings => Sys2Proof.Machine.execRegPoll readings s
  | .synceCdrLock lane => Sys2Proof.Machine.execSynceCdrLock lane s
  | .freqMeasUpdate v => Sys2Proof.Machine.execFreqMeasUpdate v s
  | .regPgRestore k strapBoot strapHost imgA imgB tests => Sys2Proof.Machine.execRegPgRestore k strapBoot strapHost imgA imgB tests s
  | .vddWakeApply => Sys2Proof.Machine.execVddWakeApply s
  | .ncsiFrameRx bytes => Sys2Proof.Machine.execNcsiFrameRx bytes s

end Sys2Proof.Machine
end

