-- ==== Sys2Proof/Machine/Step.lean ====
section
/-! DEFINITION. One step: the command at the front of the queue, or idling. -/

namespace Sys2Proof.Machine

/-- The command that a word spells is put in front of the queue; the table gives no row bits, so no word
spells one. (DESIGN CHOICE, safe: assumption 3) -/
def State.withFetchWord (s : State) (nbits w : Nat) : State :=
  match Sys2Proof.decodeTableWord nbits w with
  | some c => { s with pending := c :: s.pending }
  | none => s

/-- A step takes the command in front of the queue; with an empty queue one FCLK cycle passes. (DESIGN CHOICE, unsafe: assumption 2) (DESIGN CHOICE, unsafe: assumption 5) (DEDUCED, safe: assumption 125) -/
def step (s : State) : Host.Outcome State Fault Refusal :=
  match s.pending with
  | [] => idleTick s
  | c :: r => exec c { s with pending := r }

end Sys2Proof.Machine
end

