-- ==== Sys2Proof/Safety.lean ====
section
/-! DEFINITION. The words in which statements speak of the machine: a command completes, a state is another one
but for what follows from it, a write passes its checks, a thread issues, and the invariant of the pins. -/

namespace Sys2Proof

open Machine

/-- A command completes: exec answers a next state, and P holds of it. -/
def Completes (c : Instr) (s : State) (P : State → Prop) : Prop :=
  ∃ t, exec c s = .next t ∧ P t

/-- `t` is `u` but for the registers of the list. FWC.ALERT and PWR.HOST_WAKE and the pins ALERT_N and HOST_WAKE_N
follow the rest of the state (R411, R419); every other register outside the list, and everything else, is as in
`u`. -/
def SameBut (l : List Nat) (u t : State) : Prop :=
  t = { u with regs := t.regs, pins := { u.pins with alertN := t.pins.alertN, hostWakeN := t.pins.hostWakeN } } ∧
  ∀ a, a ∉ l → a ∉ derivedRegs → t.reg a = u.reg a

/-- `t` is `u`, but for the registers and pins that follow the rest of the state. -/
def Same (u t : State) : Prop := SameBut [] u t

/-- A command completes and gives `u`. -/
def Gives (c : Instr) (s u : State) : Prop := Completes c s (Same u)

/-- A write to a register passes the checks of power, permission and claim (R38, R58, R432). -/
def MayWrite (s : State) (actor a : Nat) : Prop := actorOk actor = true ∧ s.writeGate actor a = none

/-- A link that the straps fit (R103). -/
def OnLink (s : State) (l : Nat) : Prop := l < 4 ∧ s.fitted l = true

/-- A thread in RUN whose Hive is in RUN, at an aligned PC inside the loaded image (R348, R367). -/
def Issues (s : State) (th : Nat) : Prop :=
  th < 768 ∧ (s.th th).state = thRun ∧ s.domState (14 + th / 64) = 0 ∧
  (s.th th).pc < (s.hv (th / 64)).imgLen ∧ (s.th th).pc % 4 = 0

/-- The registers of a thread after a write: q0 discards it (R363). -/
def regsWith (v : Thread) (rd : Nat) (w : Word) : Tbl Word :=
  if rd = 0 ∨ 32 ≤ rd then v.q else tset 0 v.q rd w

/-- A thread has completed an instruction that gives `rd` a value and goes on at `pc`; nothing else changes. -/
def Ran (s : State) (th rd : Nat) (w : Word) (pc : Nat) : State :=
  s.setTh th { s.th th with q := regsWith (s.th th) rd w, pc := pc, retired := (s.th th).retired + 1 }

/-- The next instruction of a thread. -/
def nextPc (s : State) (th : Nat) : Nat := (s.th th).pc + 4

/-- sext of the low n bits of a field (R364). -/
def sx (n v : Nat) : Word := BitVec.ofInt 64 (sgn n v)

/-- A thread is as it was but for `f`, and has completed an instruction. -/
def RanWith (s : State) (th rd : Nat) (w : Word) (f : Thread → Thread) : State :=
  s.setTh th (f { s.th th with q := regsWith (s.th th) rd w, pc := nextPc s th, retired := (s.th th).retired + 1 })

/-- The address of a load or store of I format. -/
def accessAt (s : State) (th rs1 imm : Nat) : Nat := (s.qr th rs1 + sx 16 imm).toNat

/-- n bytes of the thread's own Hive store that the thread may use (R345, R346). -/
def OwnRange (s : State) (th a n : Nat) : Prop :=
  a + n ≤ hsSize ∧ (s.secThread th = true ∨ a + n ≤ s.secureFrom (th / 64))

/-- Such bytes, naturally aligned (R370). -/
def OwnStore (s : State) (th a n : Nat) : Prop := a % n = 0 ∧ OwnRange s th a n

/-- A memory after a store: canonical where it was, the bytes written there, every other byte as before. -/
def Stored (m : Tbl Byte) (a : Nat) (bs : Bytes) (m' : Tbl Byte) : Prop :=
  (tblWf (fun _ => 0) m = true → tblWf (fun _ => 0) m' = true) ∧ mread m' a bs.length = bs ∧
  ∀ k, k < a ∨ a + bs.length ≤ k → tget 0 m' k = tget 0 m k

/-- A thread that is to fault is in PARKED with its supervisor told, or its whole core in STOPPED; the faulting
instruction has changed none of its registers and no memory, and the Hive's fault registers name it unless they hold
an earlier fault (R354, R366). -/
def Faulted (s : State) (th code addr : Nat) (t : State) : Prop :=
  let h := th / 64
  let stop := s.gb (HIVE.CFG.FAULT_MODE h) = false ∨ th = h * 64
  t.th th = { s.th th with state := (t.th th).state, clk := s.edryn.clk, lastFault := code, wait := (t.th th).wait,
                           later := (t.th th).later } ∧
  (stop → ∀ k, k < 8 → (t.th (th / 8 * 8 + k)).state = thStopped) ∧
  (¬ stop → (t.th th).state = thParked ∧ (t.th (h * 64)).pending.testBit 8 = true ∧
    ∀ k, k ≠ th → k ≠ h * 64 → t.th k = s.th k) ∧
  t.store = s.store ∧ t.hbm = s.hbm ∧ t.hmsg = s.hmsg ∧ t.descs = s.descs ∧ t.flows = s.flows ∧
  (s.gb (HIVE.FAULT_LOG.VALID h) = false →
    t.g (HIVE.FAULT_PC.VALUE h) = (s.th th).pc % 2 ^ 64 ∧ t.g (HIVE.FAULT_ADDR.VALUE h) = addr % 2 ^ 64 ∧
    t.g (HIVE.FAULT_LOG.CODE h) = code ∧ t.g (HIVE.FAULT_LOG.THREAD h) = th % 64)

/-- A thread has entered WAIT for an access or call whose result is `w`, if it is there already (R348). -/
def Waits (s : State) (th rd : Nat) (w : Word) (ready : Bool) (op : Nat) : State :=
  s.setTh th { s.th th with state := thWait, clk := s.edryn.clk, later := 0, wait := some ⟨rd, w, ready, op, none⟩ }

/-- A thread holds the packet `d` under a handle. -/
def Holds (s : State) (th x d : Nat) : Prop := s.byHandle x = some d ∧ (s.desc d).place = .held (th / 64)

/-- A work item holds no power domain (R400). -/
def NoHold (s : State) (key : Nat) : Prop := ∀ e ∈ s.xfer, e.2 % 2 ^ 100 ≠ key

/-- A call's unit takes it at once: the unit's domain is in RUN, no call of the thread waits for a domain, and the unit is
IN_SERVICE (R377, R402). -/
def UnitTakes (s : State) (th u d : Nat) : Prop :=
  s.domState d = 0 ∧ NoHold s (xferCall th) ∧ s.inService u = true

/-- Nothing waits for a unit: no scheduler or timed queue, no list of packets held for the pipeline or a Hive, no Scarab operation, storage part or
descriptor holds anything. -/
def NoWork (s : State) : Prop :=
  s.noder = [] ∧ s.noHive = [] ∧ s.pipeWait = [] ∧ s.sops = [] ∧ s.sparts = [] ∧ s.fdescs = [] ∧ s.beeline = []

/-- ALERT_N, HOST_WAKE_N and their registers show the state (R411, R419, R463, R467). -/
def PinsFollow (s : State) : Prop :=
  s.pins.alertN = !s.alertLow ∧ s.g FWC.ALERT.ASSERTED = b2n s.alertLow ∧
  s.g PWR.HOST_WAKE.ASSERTED = b2n (s.gb PWR.HOST_WAKE.EN && s.g PWR.HOST_WAKE.LINKS != 0) ∧
  s.pins.hostWakeN = (s.g PWR.HOST_WAKE.ASSERTED == 0)

end Sys2Proof
end

