-- ==== Sys2Proof/WellFormed.lean ====
section
/-! DEFINITION. The operand ranges of every command: a command outside them stands for nothing that the device's
interface carries. -/

namespace Sys2Proof

/-- A number below a bound. -/
def lt (n v : Nat) : Bool := decide (v < n)

open Machine in
/-- Whether a command's operands keep their ranges: actor IDs of R17, units of R40, claim words of R57, links,
threads, registers and fields of their widths (R364). -/
def Instr.wellFormed (i : Instr) : Bool :=
  match i with
  | .registerWrite actor addr _ _ => actorOk actor && lt (2 ^ 32) addr
  | .hostWriteTlp l bar off requester _ _ => lt 4 l && lt 5 bar && lt (2 ^ 32) off && lt (2 ^ 16) requester
  | .hostReadTlp l bar off len requester tag => lt 4 l && lt 5 bar && lt (2 ^ 32) off && lt 4097 len && lt (2 ^ 16) requester && lt 1024 tag
  | .rcRead actor addr _ => actorOk actor && lt (2 ^ 32) addr
  | .svcReqWrite actor unit req => actorOk actor && isUnit unit && lt 16 req
  | .quiesceComplete unit => isUnit unit
  | .returnChecksPass unit => isUnit unit
  | .entryChecksDone unit _ => isUnit unit
  | .evtClear actor unit _ => actorOk actor && isUnit unit
  | .devEvtRearm actor l _ => actorOk actor && lt 4 l
  | .faultClear actor unit => actorOk actor && isUnit unit
  | .claim actor word => actorOk actor && (claimUnit word).isSome
  | .claimRelease actor word => actorOk actor && (claimUnit word).isSome
  | .claimForce actor word => actorOk actor && (claimUnit word).isSome
  | .tapAddrWrite actor unit _ => actorOk actor && isUnit unit
  | .tapDataWrite actor unit k _ => actorOk actor && isUnit unit && lt 8 k
  | .tapRead actor unit => actorOk actor && isUnit unit
  | .tapWrite actor unit => actorOk actor && isUnit unit
  | .tapStage actor unit => actorOk actor && isUnit unit
  | .tapInvalidate actor unit => actorOk actor && isUnit unit
  | .tapRelease actor unit => actorOk actor && isUnit unit
  | .tapHoldExpire unit => isUnit unit
  | .tapCommandComplete unit => isUnit unit
  | .timeRead actor _ => actorOk actor
  | .timePageRead inst _ => lt 2048 inst
  | .adjFreqWrite actor _ => actorOk actor
  | .adjPhaseWrite actor _ => actorOk actor
  | .slewDone => true
  | .edrynStep actor _ => actorOk actor
  | .servoAcq actor _ => actorOk actor
  | .servoLock actor _ => actorOk actor
  | .heartbeat actor _ => actorOk actor
  | .boundWrite actor _ => actorOk actor
  | .servoTimeout => true
  | .holdoverTick => true
  | .leapApply => true
  | .trefQualify => true
  | .trefLoss => true
  | .synceCdrLoss lane => lt 8 lane
  | .ppsEdge pin => lt 2 pin
  | .todMessageRx _ _ _ => true
  | .todMessageTx => true
  | .timePageUpdate inst => lt 2048 inst
  | .ptmDialog l => lt 4 l
  | .ptmResponse l master delay => lt 4 l && lt (2 ^ 64) master && lt (2 ^ 32) delay
  | .ptmAbandon l => lt 4 l
  | .evidenceRecord => true
  | .ffConfigWrite actor n reg _ => actorOk actor && lt 4 n && lt 4 reg
  | .fireflyPeriodicEdge n => lt 4 n
  | .trigArm actor n _ => actorOk actor && lt 256 n
  | .trigDisarm actor n _ => actorOk actor && lt 256 n
  | .trigFire n => lt 256 n
  | .perstAssert l => lt 4 l
  | .perstDeassert l => lt 4 l
  | .hotReset l => lt 4 l
  | .linkDisable l => lt 4 l
  | .dlDown l => lt 4 l
  | .dlUp l => lt 4 l
  | .linkTrained l rates widths _ => lt 4 l && lt 64 rates && lt 32 widths
  | .configRequest l _ _ v => lt 4 l && lt (2 ^ 32) v
  | .bmeClear l => lt 4 l
  | .bmeSet l => lt 4 l
  | .cplTimeout l tag => lt 4 l && lt 1024 tag
  | .quarantineEnd l tag => lt 4 l && lt 1024 tag
  | .completionRx l tag _ status bc la _ => lt 4 l && lt 1024 tag && lt 8 status && lt 4097 bc && lt 128 la
  | .poisonedTlp l _ => lt 4 l
  | .malformedTlp l _ => lt 4 l
  | .sealRelease actor _ => actorOk actor
  | .peerwinCommit actor l _ => actorOk actor && lt 4 l
  | .peerWindowTlp l rid tag off len _ _ _ => lt 4 l && lt (2 ^ 16) rid && lt 1024 tag && lt (2 ^ 30) off && lt 4097 len
  | .atsInvalidate l itag _ _ va _ => lt 4 l && lt 32 itag && lt (2 ^ 64) va
  | .atsInvalidateComplete l => lt 4 l
  | .translationCompletion l tag status pa log2 _ _ => lt 4 l && lt 1024 tag && lt 16 status && lt (2 ^ 64) pa && lt 65 log2
  | .orderProbe inst rid tag => lt 10240 inst && lt (2 ^ 16) rid && lt 1024 tag
  | .orderProbeComplete l => lt 4 l
  | .instCreate actor inst => actorOk actor && lt 2048 inst
  | .instReset actor inst mode _ => actorOk actor && lt 2048 inst && lt 4 mode
  | .instDestroy actor inst mode _ => actorOk actor && lt 2048 inst && lt 4 mode
  | .instSetShares actor inst => actorOk actor && lt 2048 inst
  | .drainConvert inst => lt 2048 inst
  | .instCmdDone inst => lt 2048 inst
  | .wqDoorbell inst w p => lt 2048 inst && lt 4096 w && lt (2 ^ 32) p
  | .crDoorbell inst c _ _ _ => lt 2048 inst && lt 2048 c
  | .entryFetch w _ => lt 131072 w
  | .entryStart w => lt 131072 w
  | .coalTimer c => lt 65536 c
  | .ringStart actor _ n => actorOk actor && lt 131072 n
  | .ringStop actor _ n => actorOk actor && lt 131072 n
  | .ringReset actor _ n => actorOk actor && lt 131072 n
  | .classCommit actor v => actorOk actor && lt 256 v
  | .versionRetire => true
  | .ageVisit idx => lt 4194304 idx
  | .admission _ => true
  | .cellReserveGrant => true
  | .stuckDetect _ => true
  | .pauseStorm p t => lt 8 p && lt 8 t
  | .dispatch e => lt 24 e
  | .shaperRefill kind _ => lt 4 kind
  | .beelineHold p => lt 8 p
  | .beelineLaunch p => lt 8 p
  | .progVerify actor => actorOk actor
  | .progVerifyDone => true
  | .progRoll actor => actorOk actor
  | .sequencerReloadDone => true
  | .progDiscard actor => actorOk actor
  | .slotErase actor => actorOk actor
  | .slotSwitch actor => actorOk actor
  | .scarabOpDone _ => true
  | .scarabAlarm cause => lt 6 cause
  | .maskReseed pair => lt 20 pair
  | .pairFaultClear actor mask => actorOk actor && lt (2 ^ 20) mask
  | .tlsSync actor _ => actorOk actor
  | .inlineSessionDone _ => true
  | .partIssue _ => true
  | .remoteResponse c => lt 4096 c
  | .remoteIoTimeout c => lt 4096 c
  | .tcpRto c => lt 4096 c
  | .mapFence actor _ => actorOk actor
  | .foragerChStart actor c => actorOk actor && lt 4096 c
  | .foragerChAbort actor c => actorOk actor && lt 4096 c
  | .foragerChReset actor c => actorOk actor && lt 4096 c
  | .foragerChDoorbell actor c _ => actorOk actor && lt 4096 c
  | .descriptorStart c => lt 4096 c
  | .timedDescriptorStart c => lt 4096 c
  | .descriptorFinish c => lt 4096 c
  | .groupModeSwitch g => lt 8 g
  | .threadStart actor th entry => actorOk actor && lt 768 th && lt (2 ^ 19) entry
  | .threadReset actor th => actorOk actor && lt 768 th
  | .accessComplete th => lt 768 th
  | .threadTimer th => lt 768 th
  | .hiveStall h => lt 12 h
  | .migrateDone actor h _ => actorOk actor && lt 12 h
  | .migrateTimeout h => lt 12 h
  | .imageVerifyDone unit => isUnit unit
  | .debugHalt threads => threads.all (lt 768)
  | .debugResume threads => threads.all (lt 768)
  | .add th rd rs1 rs2 => lt 768 th && lt 32 rd && lt 32 rs1 && lt 32 rs2
  | .sub th rd rs1 rs2 => lt 768 th && lt 32 rd && lt 32 rs1 && lt 32 rs2
  | .and th rd rs1 rs2 => lt 768 th && lt 32 rd && lt 32 rs1 && lt 32 rs2
  | .or th rd rs1 rs2 => lt 768 th && lt 32 rd && lt 32 rs1 && lt 32 rs2
  | .xor th rd rs1 rs2 => lt 768 th && lt 32 rd && lt 32 rs1 && lt 32 rs2
  | .sll th rd rs1 rs2 => lt 768 th && lt 32 rd && lt 32 rs1 && lt 32 rs2
  | .srl th rd rs1 rs2 => lt 768 th && lt 32 rd && lt 32 rs1 && lt 32 rs2
  | .sra th rd rs1 rs2 => lt 768 th && lt 32 rd && lt 32 rs1 && lt 32 rs2
  | .slt th rd rs1 rs2 => lt 768 th && lt 32 rd && lt 32 rs1 && lt 32 rs2
  | .sltu th rd rs1 rs2 => lt 768 th && lt 32 rd && lt 32 rs1 && lt 32 rs2
  | .mul th rd rs1 rs2 => lt 768 th && lt 32 rd && lt 32 rs1 && lt 32 rs2
  | .mulhu th rd rs1 rs2 => lt 768 th && lt 32 rd && lt 32 rs1 && lt 32 rs2
  | .minu th rd rs1 rs2 => lt 768 th && lt 32 rd && lt 32 rs1 && lt 32 rs2
  | .maxu th rd rs1 rs2 => lt 768 th && lt 32 rd && lt 32 rs1 && lt 32 rs2
  | .clz th rd rs1 rs2 => lt 768 th && lt 32 rd && lt 32 rs1 && lt 32 rs2
  | .ctz th rd rs1 rs2 => lt 768 th && lt 32 rd && lt 32 rs1 && lt 32 rs2
  | .popc th rd rs1 rs2 => lt 768 th && lt 32 rd && lt 32 rs1 && lt 32 rs2
  | .bswap th rd rs1 rs2 => lt 768 th && lt 32 rd && lt 32 rs1 && lt 32 rs2
  | .bswap32 th rd rs1 rs2 => lt 768 th && lt 32 rd && lt 32 rs1 && lt 32 rs2
  | .bswap16 th rd rs1 rs2 => lt 768 th && lt 32 rd && lt 32 rs1 && lt 32 rs2
  | .addi th rd rs1 imm => lt 768 th && lt 32 rd && lt 32 rs1 && lt (2 ^ 16) imm
  | .andi th rd rs1 imm => lt 768 th && lt 32 rd && lt 32 rs1 && lt (2 ^ 16) imm
  | .ori th rd rs1 imm => lt 768 th && lt 32 rd && lt 32 rs1 && lt (2 ^ 16) imm
  | .xori th rd rs1 imm => lt 768 th && lt 32 rd && lt 32 rs1 && lt (2 ^ 16) imm
  | .slli th rd rs1 z cnt => lt 768 th && lt 32 rd && lt 32 rs1 && lt 256 z && lt 64 cnt
  | .srli th rd rs1 z cnt => lt 768 th && lt 32 rd && lt 32 rs1 && lt 256 z && lt 64 cnt
  | .srai th rd rs1 z cnt => lt 768 th && lt 32 rd && lt 32 rs1 && lt 256 z && lt 64 cnt
  | .slti th rd rs1 imm => lt 768 th && lt 32 rd && lt 32 rs1 && lt (2 ^ 16) imm
  | .sltiu th rd rs1 imm => lt 768 th && lt 32 rd && lt 32 rs1 && lt (2 ^ 16) imm
  | .lic th rd k => lt 768 th && lt 32 rd && lt (2 ^ 21) k
  | .appi th rd k => lt 768 th && lt 32 rd && lt (2 ^ 21) k
  | .bfx th rd rs1 z _ pos len => lt 768 th && lt 32 rd && lt 32 rs1 && lt 8 z && lt 64 pos && lt 65 len && len != 0
  | .bfi th rd rs1 z _ pos len => lt 768 th && lt 32 rd && lt 32 rs1 && lt 8 z && lt 64 pos && lt 65 len && len != 0
  | .csumAdd th rd rs1 rs2 => lt 768 th && lt 32 rd && lt 32 rs1 && lt 32 rs2
  | .csumBlk th rd rs1 rs2 => lt 768 th && lt 32 rd && lt 32 rs1 && lt 32 rs2
  | .crcB th rd rs1 rs2 => lt 768 th && lt 32 rd && lt 32 rs1 && lt 32 rs2
  | .crcD th rd rs1 rs2 => lt 768 th && lt 32 rd && lt 32 rs1 && lt 32 rs2
  | .lb th rd rs1 imm => lt 768 th && lt 32 rd && lt 32 rs1 && lt (2 ^ 16) imm
  | .lbu th rd rs1 imm => lt 768 th && lt 32 rd && lt 32 rs1 && lt (2 ^ 16) imm
  | .lh th rd rs1 imm => lt 768 th && lt 32 rd && lt 32 rs1 && lt (2 ^ 16) imm
  | .lhu th rd rs1 imm => lt 768 th && lt 32 rd && lt 32 rs1 && lt (2 ^ 16) imm
  | .lw th rd rs1 imm => lt 768 th && lt 32 rd && lt 32 rs1 && lt (2 ^ 16) imm
  | .lwu th rd rs1 imm => lt 768 th && lt 32 rd && lt 32 rs1 && lt (2 ^ 16) imm
  | .ld th rd rs1 imm => lt 768 th && lt 32 rd && lt 32 rs1 && lt (2 ^ 16) imm
  | .sb th rd rs1 imm => lt 768 th && lt 32 rd && lt 32 rs1 && lt (2 ^ 16) imm
  | .sh th rd rs1 imm => lt 768 th && lt 32 rd && lt 32 rs1 && lt (2 ^ 16) imm
  | .sw th rd rs1 imm => lt 768 th && lt 32 rd && lt 32 rs1 && lt (2 ^ 16) imm
  | .sd th rd rs1 imm => lt 768 th && lt 32 rd && lt 32 rs1 && lt (2 ^ 16) imm
  | .amoSwap th rd rs1 rs2 z _ _ _ => lt 768 th && lt 32 rd && lt 32 rs1 && lt 32 rs2 && lt 16 z
  | .amoAdd th rd rs1 rs2 z _ _ _ => lt 768 th && lt 32 rd && lt 32 rs1 && lt 32 rs2 && lt 16 z
  | .amoAnd th rd rs1 rs2 z _ _ _ => lt 768 th && lt 32 rd && lt 32 rs1 && lt 32 rs2 && lt 16 z
  | .amoOr th rd rs1 rs2 z _ _ _ => lt 768 th && lt 32 rd && lt 32 rs1 && lt 32 rs2 && lt 16 z
  | .amoXor th rd rs1 rs2 z _ _ _ => lt 768 th && lt 32 rd && lt 32 rs1 && lt 32 rs2 && lt 16 z
  | .amoMinu th rd rs1 rs2 z _ _ _ => lt 768 th && lt 32 rd && lt 32 rs1 && lt 32 rs2 && lt 16 z
  | .amoMaxu th rd rs1 rs2 z _ _ _ => lt 768 th && lt 32 rd && lt 32 rs1 && lt 32 rs2 && lt 16 z
  | .amoCas th rd rs1 rs2 z _ _ _ => lt 768 th && lt 32 rd && lt 32 rs1 && lt 32 rs2 && lt 16 z
  | .beq th rs1 rs2 off => lt 768 th && lt 32 rs1 && lt 32 rs2 && lt (2 ^ 16) off
  | .bne th rs1 rs2 off => lt 768 th && lt 32 rs1 && lt 32 rs2 && lt (2 ^ 16) off
  | .blt th rs1 rs2 off => lt 768 th && lt 32 rs1 && lt 32 rs2 && lt (2 ^ 16) off
  | .bge th rs1 rs2 off => lt 768 th && lt 32 rs1 && lt 32 rs2 && lt (2 ^ 16) off
  | .bltu th rs1 rs2 off => lt 768 th && lt 32 rs1 && lt 32 rs2 && lt (2 ^ 16) off
  | .bgeu th rs1 rs2 off => lt 768 th && lt 32 rs1 && lt 32 rs2 && lt (2 ^ 16) off
  | .jal th rd off => lt 768 th && lt 32 rd && lt (2 ^ 21) off
  | .jalr th rd rs1 imm => lt 768 th && lt 32 rd && lt 32 rs1 && lt (2 ^ 16) imm
  | .chPut th rd rs1 rs2 => lt 768 th && lt 32 rd && lt 32 rs1 && lt 32 rs2
  | .chCommit th rd rs1 rs2 => lt 768 th && lt 32 rd && lt 32 rs1 && lt 32 rs2
  | .chTake th rd rs1 rs2 => lt 768 th && lt 32 rd && lt 32 rs1 && lt 32 rs2
  | .chDiscard th rd rs1 rs2 => lt 768 th && lt 32 rd && lt 32 rs1 && lt 32 rs2
  | .wfe th rd rs1 rs2 => lt 768 th && lt 32 rd && lt 32 rs1 && lt 32 rs2
  | .sev th rd rs1 rs2 => lt 768 th && lt 32 rd && lt 32 rs1 && lt 32 rs2
  | .ctlGet th rd rs1 rs2 num => lt 768 th && lt 32 rd && lt 32 rs1 && lt 32 rs2 && lt 32 num
  | .ctlPut th rd rs1 rs2 num => lt 768 th && lt 32 rd && lt 32 rs1 && lt 32 rs2 && lt 32 num
  | .ctlOr th rd rs1 rs2 num => lt 768 th && lt 32 rd && lt 32 rs1 && lt 32 rs2 && lt 32 num
  | .ctlBic th rd rs1 rs2 num => lt 768 th && lt 32 rd && lt 32 rs1 && lt 32 rs2 && lt 32 num
  | .fenceM th rd rs1 rs2 => lt 768 th && lt 32 rd && lt 32 rs1 && lt 32 rs2
  | .fenceG th rd rs1 rs2 => lt 768 th && lt 32 rd && lt 32 rs1 && lt 32 rs2
  | .fenceMg th rd rs1 rs2 => lt 768 th && lt 32 rd && lt 32 rs1 && lt 32 rs2
  | .pktMap th rd rs1 rs2 => lt 768 th && lt 32 rd && lt 32 rs1 && lt 32 rs2
  | .pktUnmap th rd rs1 rs2 => lt 768 th && lt 32 rd && lt 32 rs1 && lt 32 rs2
  | .pktRelease th rd rs1 rs2 => lt 768 th && lt 32 rd && lt 32 rs1 && lt 32 rs2
  | .pktReinject th rd rs1 rs2 => lt 768 th && lt 32 rd && lt 32 rs1 && lt 32 rs2
  | .pktSend th rd rs1 rs2 => lt 768 th && lt 32 rd && lt 32 rs1 && lt 32 rs2
  | .accFlowInsert th rd rs1 rs2 => lt 768 th && lt 32 rd && lt 32 rs1 && lt 32 rs2
  | .accFlowRead th rd rs1 rs2 => lt 768 th && lt 32 rd && lt 32 rs1 && lt 32 rs2
  | .accFlowUpdate th rd rs1 rs2 => lt 768 th && lt 32 rd && lt 32 rs1 && lt 32 rs2
  | .accFlowInval th rd rs1 rs2 => lt 768 th && lt 32 rd && lt 32 rs1 && lt 32 rs2
  | .accFlowLookup th rd rs1 rs2 => lt 768 th && lt 32 rd && lt 32 rs1 && lt 32 rs2
  | .accClassMatch th rd rs1 rs2 => lt 768 th && lt 32 rd && lt 32 rs1 && lt 32 rs2
  | .accScarab th rd rs1 rs2 => lt 768 th && lt 32 rd && lt 32 rs1 && lt 32 rs2
  | .mailboxWrite actor w c m _ => actorOk actor && lt 13 w && lt 2112 c && lt 4 m
  | .mailboxRead actor w c m _ => actorOk actor && lt 13 w && lt 2112 c && lt 4 m
  | .crossedDetect w c => lt 13 w && lt 2112 c
  | .dbRing actor w d _ => actorOk actor && lt 13 w && lt 1024 d
  | .lockRead actor w k _ => actorOk actor && lt 13 w && lt 256 k
  | .lockRelease actor w k => actorOk actor && lt 13 w && lt 256 k
  | .lockForce actor w k => actorOk actor && lt 13 w && lt 256 k
  | .voteWrite actor _ => actorOk actor
  | .idleEnter d => lt 26 d
  | .powerStepDone d => lt 26 d
  | .wakeStepDone d => lt 26 d
  | .wakeStepTimeout d => lt 26 d
  | .wakeRetry d => lt 26 d
  | .domainRetry actor d => actorOk actor && lt 26 d
  | .offRequest actor _ => actorOk actor
  | .wakeNEvent => true
  | .offWakeRelease strapBoot strapHost _ _ _ => lt 16 strapBoot && lt 4 strapHost
  | .regPgLoss k => lt 8 k
  | .faultEvent src _ _ _ _ _ => lt 8 src
  | .ageingSample g _ _ => lt 8 g
  | .sysResetAssert => true
  | .sysResetRelease strapBoot strapHost _ _ _ => lt 16 strapBoot && lt 4 strapHost
  | .bootComplete => true
  | .recoverGo actor _ => actorOk actor
  | .chitinSubmitH actor _ => actorOk actor
  | .chitinSubmitP _ _ => true
  | .chitinWindowExpire => true
  | .spdmRequest code _ _ _ _ => lt 256 code
  | .jtagAccess op addr _ _ => lt 5 op && lt (2 ^ 32) addr
  | .portModeWrite actor p _ => actorOk actor && lt 8 p
  | .frameReceive p _ _ _ _ _ _ => lt 8 p
  | .pauseFrameRx p _ vec _ => lt 8 p && lt 256 vec
  | .pauseExpire p k => lt 8 p && lt 8 k
  | .pfcRefresh p => lt 8 p
  | .preemptVerify p _ => lt 8 p
  | .linkUp p => lt 8 p
  | .linkDown p => lt 8 p
  | .calDone p => lt 8 p
  | .frameTransmitDone p => lt 8 p
  | .thermSample _ => true
  | .regPoll _ => true
  | .synceCdrLock lane => lt 8 lane
  | .freqMeasUpdate _ => true
  | .regPgRestore k strapBoot strapHost _ _ _ => lt 8 k && lt 16 strapBoot && lt 4 strapHost
  | .vddWakeApply => true
  | .ncsiFrameRx _ => true

end Sys2Proof
end

