-- ==== Sys2Proof/Certificates/Slice0/Obligations.lean ====
section
/-! DEFINITION. The statements for the provers. Each speaks of commands in the words of Safety: a command completes,
and what the state is then. -/

open Sys2Proof Sys2Proof.Machine

/-- A step takes the command at the front of the queue and is exec of it on the rest of the queue. -/
def Obligations.StepRunsFront : Prop :=
  ∀ (c : Instr) (r : List Instr) (s : State),
    step { s with pending := c :: r } = exec c { s with pending := r }

/-- A step that answers a next state has taken the front command from the queue and left the others in their order; with an empty queue the device
idles (the model's choice: assumption 2). Every well-formed command of the table completes in every state: none faults, and a refusal is for operands
that no access carries (R17). -/
def Obligations.QueueTail : Prop :=
  ∀ s : State, (∀ t, step s = .next t → t.pending = s.pending.tail) ∧ (s.pending = [] → ∃ t, step s = .next t) ∧
    ∀ c : Instr, c.wellFormed = true → Completes c s (fun t => t.pending = s.pending)

/-- After every step ALERT_N and HOST_WAKE_N and their registers show the state: ALERT_N is low exactly while an alert is pending, the die is HOT or a
failure holds it; HOST_WAKE_N exactly while it is enabled and a link's work waits for it. -/
def Obligations.PinsFollowKept : Prop :=
  ∀ s t : State, PinsFollow s → step s = .next t → PinsFollow t

/-- The state after reset: the pins follow it, nothing waits, no thread runs, no word is claimed, and registers have the values of their tables. -/
def Obligations.ResetState : Prop :=
  let s := State.reset
  PinsFollow s ∧ NoWork s ∧ s.pending = [] ∧ s.seq = 0 ∧ s.edryn.time = 0 ∧ (∀ th, (s.th th).state = thOff) ∧
  (∀ i, ctxState (s.ctx i) = 0) ∧ (∀ n, s.slotState n = 0) ∧
  ∀ p ∈ ([(EDRYN.ADJ_PHASE.RATE, 100), (EDRYN.SERVO_CTL.TIMEOUT, 2000), (EDRYN.TRACE.STATE, 4), (EDRYN.TRACE.PREV, 4),
    (EDRYN.BOUND.NS, 0xFFFF_FFFF), (EDRYN.HOLD_COEF.LIN, 10000), (EDRYN.HOLD_COEF.QUAD, 1800), (EDRYN.HOLD_LIMIT.NS, 10000),
    (EDRYN.SRC.ON_INTERNAL, 1), (EDRYN.PTM_CTL.INTERVAL, 10), (CLASS.SEQ.SEQ, 0), (KEEPER.BOOT_STAT.ROM_VER, 1),
    (UNIT.CLAIM.OWNER CLASS.base, 0), (UNIT.CLAIM.OWNER SCARAB.base, 0)] : List (Fld × Nat)), s.g p.1 = p.2

/-- The checks before a register write (R38, R58, R432): in a unit whose domain is in SLEEP or DEEP the write is dropped and counted; from an actor
that Chitin does not permit it is ignored with ERROR; where another holds the claim over it, it is ignored with CLAIM_CONFLICT. It rests on the
model's choice of assumption 28. -/
def Obligations.WriteChecks : Prop :=
  ∀ (s : State) (actor n k : Nat) (v : Word) (i : UnitInfo), actorOk actor = true → n < 256 → k < 8 →
    ∀ p ∈ ([(.adjFreqWrite actor v, EDRYN.ADJ_FREQ.reg), (.adjPhaseWrite actor v, EDRYN.ADJ_PHASE.reg),
      (.edrynStep actor v, EDRYN.STEP.reg), (.boundWrite actor v, EDRYN.BOUND.reg), (.servoLock actor v, EDRYN.SERVO_CTL.reg),
      (.trigArm actor n v, TRIG.CTL.reg n), (.trigDisarm actor n v, TRIG.CTL.reg n), (.voteWrite actor v, PWR.VOTE.reg),
      (.offRequest actor v, PWR.OFF.reg), (.portModeWrite actor k v, PORT.MODE.reg k), (.slotErase actor, SCARAB.SLOT_CTL.reg),
      (.progVerify actor, SCARAB.PROG_CTL.reg), (.tlsSync actor v, SCARAB.TLS_SYNC_A.reg),
      (.migrateDone actor k v, HIVE.MIGRATE.reg k), (.mapFence actor (v ||| 1), STOR.MAP_FENCE.reg),
      (.instCreate actor n, INST.CMD.reg)] : List (Instr × Nat)),
      unitAt p.2 = some i →
      (s.domDown i.dom = true → Completes p.1 s (fun t => SameBut [ROOT.DROPPED_WRITES.reg] s t ∧
        t.g ROOT.DROPPED_WRITES.COUNT = min (s.g ROOT.DROPPED_WRITES.COUNT + 1) (2 ^ 32 - 1))) ∧
      (s.domDown i.dom = false → s.permits actor i.type = false → Completes p.1 s (fun t =>
        SameBut [UNIT.EVT.reg i.base] { s with links := t.links } t ∧ (t.reg (UNIT.EVT.reg i.base)).getLsbD 6 = true)) ∧
      (s.domDown i.dom = false → s.permits actor i.type = true → ∀ w e, claimOver p.2 = some (w, e) →
        s.claimAllows w actor = false → Completes p.1 s (fun t =>
        SameBut [UNIT.EVT.reg e] { s with links := t.links } t ∧ (t.reg (UNIT.EVT.reg e)).getLsbD 5 = true))

/-- Accesses by address (R10, R34, R35): a 64-bit write of a register that a unit keeps without rules of its own sets its RW fields, clears and sets
what W1C and W1S fields say and leaves every other bit, and a host write TLP of 8 enabled bytes there completes with the same effect; at every aligned
offset such a TLP is the same write by its physical function; a 64-bit read of a register with RC fields answers its value and clears them; a host
read that is not 4 or 8 aligned bytes is an Unsupported Request, and irregular enables drop the write. It rests on the model's choices of assumptions
25 and 26. -/
def Obligations.RegisterAccess : Prop :=
  ∀ (s : State) (actor a l off requester tag len : Nat) (v : Word) (be : List Bool) (data : Bytes),
    (∀ u r i, regAt a = some (u, r, i) → a % 8 = 0 → (u.type ∈ ([.parse, .sched, .beeline] : List UType) ∨ (u.type = .flow ∧ r.off ≠ 0x40 ∧ r.off ≠ 0x70) ∨
        (u.type = .fwc ∧ r.off ≠ 0x40) ∨ (u.type = .hostlink ∧ r.off ∉ ([0x48, 0x78, 0x80] : List Nat)) ∨
        (u.type = .scarab ∧ r.off ∉ ([0x60, 0x78, 0x88, 0x90] : List Nat))) → a ∉ derivedRegs →
      0x40 ≤ a - u.base → inTap u (a - u.base) = false → MayWrite s actor a → isInst actor = false →
      let Written (t : State) : Prop := SameBut [a] s t ∧ ∀ j, j < 64 →
        let has (x : Acc) : Bool := (accMask r (fun y => y == x)).getLsbD j
        (t.reg a).getLsbD j = (if has .w1s && v.getLsbD j then true
          else if has .w1c && v.getLsbD j then false
          else if has .rw then v.getLsbD j else (s.reg a).getLsbD j)
      Completes (.registerWrite actor a true v) s Written ∧
      (OnLink s l → s.takesMem l = true → actor = l + 1 → a < 2 ^ 29 →
        Completes (.hostWriteTlp l 0 a requester (List.replicate 8 true) (leBytes 8 v.toNat)) s Written)) ∧
    (OnLink s l → s.takesMem l = true → off < 2 ^ 29 → off % 8 = 0 → data.length = 8 → be = List.replicate 8 true →
      exec (.hostWriteTlp l 0 off requester be data) s =
        exec (.registerWrite (l + 1) off true (BitVec.ofNat 64 (leNat data))) s) ∧
    (OnLink s l → s.takesMem l = true → data.length = 4 → be.length = 4 → be.any id = true → be.all id = false →
      off % 4 = 0 → Completes (.hostWriteTlp l 0 off requester be data) s (fun t =>
        SameBut [UNIT.EVT.reg ROOT.base] { s with links := t.links } t ∧
        (t.reg (UNIT.EVT.reg ROOT.base)).getLsbD 6 = true)) ∧
    (∀ u r i, regAt a = some (u, r, i) → a % 8 = 0 → 0x40 ≤ a - u.base → inChan u (a - u.base) = false →
      s.domDown u.dom = false → r.fields.any (fun f => f.acc == .rc) = true → actorOk actor = true → isInst actor = false →
      Gives (.rcRead actor a true) s { s.setReg a (s.reg a &&& ~~~ accMask r (fun y => y == .rc)) with
        out := s.out ++ [.regRead actor a (s.view actor u i a)] }) ∧
    (OnLink s l → s.takesMem l = true →
      ((len ≠ 4 ∧ len ≠ 8) ∨ off % len ≠ 0 → Completes (.hostReadTlp l 0 off len requester tag) s (fun t =>
        (t.link l).tx = (s.link l).tx ++ [.cplUr requester tag] ∧ SameBut [] { s with links := t.links } t)) ∧
      (len = 4 ∨ len = 8 → off % len = 0 → off < 2 ^ 29 → ∀ w, s.regRead (l + 1) off (len == 8) = (.val w, s) →
        Completes (.hostReadTlp l 0 off len requester tag) s (fun t =>
          (t.link l).tx = (s.link l).tx ++ [.cplData requester tag (leBytes len w)] ∧
          SameBut [] { s with links := t.links } t)))

/-- A claim word (R57): a CLAIM takes a free word, a RELEASE by the holder frees it, a FORCE by the owner physical function or the Keeper frees it; a
CLAIM of a word that another holds is denied and changes no owner. It rests on the model's choice of assumption 29. -/
def Obligations.ClaimWords : Prop :=
  ∀ (s : State) (actor a u : Nat) (i : UnitInfo), actorOk actor = true → claimUnit a = some u → unitAt a = some i →
    a - u < 0x40 ∨ s.domDown i.dom = false →
    let own := claimOwner a
    (s.g own = 0 → Gives (.claim actor a) s (s.p own actor)) ∧
    (s.g own = actor → Gives (.claim actor a) s s ∧ Gives (.claimRelease actor a) s (s.p own 0)) ∧
    (s.g own ≠ 0 → s.g own ≠ actor → Completes (.claim actor a) s (fun t =>
      SameBut [a, UNIT.EVT.reg u] { s with links := t.links } t ∧ t.g own = s.g own ∧ t.g (claimDenied a) = actor ∧
      (t.reg (UNIT.EVT.reg u)).getLsbD 5 = true)) ∧
    (s.g own ≠ actor → Completes (.claimRelease actor a) s (fun t =>
      SameBut [UNIT.EVT.reg u] { s with links := t.links } t ∧ (t.reg (UNIT.EVT.reg u)).getLsbD 6 = true)) ∧
    (actor = s.owner ∨ actor = 0x2000 → Gives (.claimForce actor a) s (s.p own 0))

/-- The table access port (R55, R56): address and data writes bind a free port, a command takes the address and the data at its start, and acts on the
entry and reports its status when it ends (the model's reading: assumption 67), RELEASE and 1 ms without an access free the port. It rests on the
model's choices of assumptions 67 and 68. -/
def Obligations.TapPort : Prop :=
  ∀ (s : State) (actor u k : Nat) (v : Word) (i : UnitInfo), actorOk actor = true → unitInfo u = some i →
    hasTap i.type = true → s.domDown i.dom = false → s.permits actor i.type = true →
    let start (op : Nat) : TapBusy := ⟨actor, op, s.g (TAP.ADDR.TABLE u), s.g (TAP.ADDR.INDEX u), s.g (TAP.ADDR.CHUNK u), s.tapData u⟩
    (s.tapHolder u = 0 ∨ s.tapHolder u = actor →
      Completes (.tapAddrWrite actor u v) s (fun t => t.tapHolder u = actor ∧
        t.g (TAP.ADDR.TABLE u) = getF v 7 0 ∧ t.g (TAP.ADDR.CHUNK u) = getF v 11 8 ∧ t.g (TAP.ADDR.INDEX u) = getF v 47 16 ∧
        SameBut [TAP.ADDR.reg u, TAP.STATUS.reg u] { s with tapClk := t.tapClk } t) ∧
      (k < 8 → Completes (.tapDataWrite actor u k v) s (fun t => t.tapHolder u = actor ∧ t.reg (TAP.DATA.reg u k) = v ∧
        SameBut [TAP.DATA.reg u k, TAP.STATUS.reg u] { s with tapClk := t.tapClk } t))) ∧
    (s.tapHolder u ≠ 0 → s.tapHolder u ≠ actor → Completes (.tapAddrWrite actor u v) s (fun t =>
        SameBut [UNIT.EVT.reg u] { s with links := t.links } t ∧ (t.reg (UNIT.EVT.reg u)).getLsbD 5 = true)) ∧
    (s.tapHolder u = actor → s.gb (TAP.STATUS.BUSY u) = false →
      (∀ p ∈ ([(.tapRead actor u, 1), (.tapWrite actor u, 2), (.tapStage actor u, 3), (.tapInvalidate actor u, 4)] :
        List (Instr × Nat)),
        Gives p.1 s { (s.tapTouch u).p (TAP.STATUS.BUSY u) 1 with tapBusy := tins u (start p.2) s.tapBusy }) ∧
      Completes (.tapRelease actor u) s (fun t => t.tapHolder u = 0 ∧ t.g (TAP.STATUS.STATUS u) = 0 ∧
        SameBut [TAP.STATUS.reg u] { s with tapClk := t.tapClk } t)) ∧
    (s.tapHolder u ≠ 0 → s.gb (TAP.STATUS.BUSY u) = false → tget 0 s.tapClk u + 1_000_000 ≤ s.ns + 1 →
      Gives (.tapHoldExpire u) s (s.p (TAP.STATUS.HOLDER u) 0)) ∧
    (∀ b, s.tapBusy.find? (fun e => e.1 == u) = some (u, b) →
      let s' : State := { s with tapBusy := tdel s.tapBusy u }
      let Ends (st : Nat) (r : State) : State := ((r.p (TAP.STATUS.BUSY u) 0).p (TAP.STATUS.STATUS u) st).tapTouch u
      (b.op = 0 ∨ 4 < b.op → Gives (.tapCommandComplete u) s (Ends 2 s')) ∧
      (∀ p ∈ ([(.write, 2), (.stage, 3), (.invalidate, 4)] : List (TapOp × Nat)), b.op = p.2 →
        let x := s'.tapDo b.actor i p.1 b.table b.index b.chunk b.data
        Gives (.tapCommandComplete u) s (Ends x.status x.st)) ∧
      (b.op = 1 →
        let x := s'.tapDo b.actor i .read b.table b.index b.chunk b.data
        (x.status ≠ 0 → Gives (.tapCommandComplete u) s (Ends x.status x.st)) ∧
        (x.status = 0 → Completes (.tapCommandComplete u) s (fun t => t.g (TAP.STATUS.BUSY u) = 0 ∧ t.g (TAP.STATUS.STATUS u) = 0 ∧
          SameBut (TAP.STATUS.reg u :: (List.range 8).map (TAP.DATA.reg u)) { x.st with tapClk := t.tapClk } t ∧
          ∀ j, j < 8 → t.reg (TAP.DATA.reg u j) = BitVec.ofNat 64 (getF x.data (64 * j + 63) (64 * j))))))

/-- Service states of a unit without children (R49–R51), where nothing waits anywhere: a request for OUT_OF_SERVICE or UPDATING starts QUIESCING, one
for IN_SERVICE ends it; accepted work done, the unit is OUT_OF_SERVICE or UPDATING; a refused request is an ERROR. HIVE and PORT do more on these ways
(R360, R449). It rests on the model's choices of assumptions 47 and 48. -/
def Obligations.ServiceStates : Prop :=
  ∀ (s : State) (actor u req : Nat) (i : UnitInfo), NoWork s → unitInfo u = some i → childBases u = [] →
    let Becomes (c : Nat) (more : List Nat) (t : State) : Prop := t.ownCur u = c ∧
      SameBut ([UNIT.SVC.reg u, UNIT.EVT.reg u, UNIT.EVT.reg i.parent, UNIT.EVT.reg 0] ++ more)
        { s with links := t.links, svc := t.svc } t
    (actorOk actor = true → req < 16 →
      (s.svcRefused actor i req = true → Completes (.svcReqWrite actor u req) s (fun t =>
        SameBut [UNIT.EVT.reg u] { s with links := t.links } t ∧ (t.reg (UNIT.EVT.reg u)).getLsbD 6 = true)) ∧
      (s.svcRefused actor i req = false → s.domDown i.dom = false → i.type ≠ .hive → i.type ≠ .port →
        (s.ownCur u = 0 → req = 2 ∨ req = 3 → Completes (.svcReqWrite actor u req) s (fun t => Becomes 1 [] t ∧
          t.unitReq u = req ∧ t.g (UNIT.SVC.REASON u) = 1 ∧ t.g (UNIT.SVC.REQ_ACTOR u) = actor ∧
          (t.reg (UNIT.EVT.reg u)).getLsbD 0 = true)) ∧
        (s.ownCur u = 1 → req = 0 → Completes (.svcReqWrite actor u req) s (fun t => Becomes 0 [] t ∧
          t.unitReq u = 0 ∧ (t.reg (UNIT.EVT.reg u)).getLsbD 0 = true)))) ∧
    (s.ownCur u = 1 → s.unitBusy i = false → i.type ≠ .hive → i.type ≠ .port → i.type ≠ .keeper →
      Completes (.quiesceComplete u) s (fun t => Becomes (if s.unitReq u = 3 then 3 else 2) [] t ∧
        (t.reg (UNIT.EVT.reg u)).getLsbD 0 = true)) ∧
    (s.ownCur u = 2 → s.svcTag u / 4 = 2 → i.type ≠ .port ∨ (s.gb (PORT.STAT.LINK i.inst) = false ∧ s.trains i.inst = false) →
      Completes (.returnChecksPass u) s (fun t => t.ownCur u = 0 ∧ t.svcTag u = 0 ∧
        t.g (UNIT.SVC.REASON u) = s.svcTag u % 4 ∧ (t.reg (UNIT.EVT.reg u)).getLsbD 0 = true)) ∧
    (s.ownCur u = 4 → s.svcTag u / 4 = 1 →
      (s.domUp i.dom = true → s.unitReq u = 3 → i.type ≠ .hive → i.type ≠ .port → i.type ≠ .keeper →
        Completes (.entryChecksDone u true) s (fun t => Becomes 3 [] t ∧ t.svcTag u = 0)) ∧
      Completes (.entryChecksDone u false) s (fun t => t.svcTag u = 0 ∧ Becomes 4 [] t ∧
        (t.reg (UNIT.EVT.reg u)).getLsbD 6 = true))

/-- Events and faults (R46, R47, R123): a write of 1 clears an event in a unit, and a common one in everything below it; CLEAR empties UNIT_FAULT;
REARM signals the device event vector while the condition holds. -/
def Obligations.UnitEvents : Prop :=
  ∀ (s : State) (actor u l : Nat) (v : Word) (i : UnitInfo), unitInfo u = some i →
    let clr (a : Nat) : Word := if a = u then v else v &&& 0xFF
    let w := v ||| 0x2000
    let vec := getF v 10 0
    let dev := HOSTLINK.DEV_EVT.reg l
    (actorOk actor = true → s.permits actor i.type = true →
      Completes (.evtClear actor u v) s (fun t => SameBut ((subtree u).map UNIT.EVT.reg) s t ∧
        ∀ a ∈ subtree u, t.reg (UNIT.EVT.reg a) = s.reg (UNIT.EVT.reg a) &&& ~~~ clr a) ∧
      Completes (.faultClear actor u) s (fun t => SameBut [UNIT.FAULT.reg u] s t ∧ t.g (UNIT.FAULT.CODE u) = 0 ∧
        t.g (UNIT.FAULT.COUNT u) = 0 ∧ t.g (UNIT.FAULT.SRC u) = 0)) ∧
    (actorOk actor = true → s.permits actor i.type = false →
      Completes (.evtClear actor u v) s (fun t => SameBut [UNIT.EVT.reg u] { s with links := t.links } t ∧
        (t.reg (UNIT.EVT.reg u)).getLsbD 6 = true)) ∧
    (l < 4 → MayWrite s actor dev → s.devCond = true → w.getLsbD 12 = true → Completes (.devEvtRearm actor l v) s (fun t =>
      SameBut [dev] { s with links := t.links } t ∧ t.g (HOSTLINK.DEV_EVT.VECTOR l) = vec ∧ t.g (HOSTLINK.DEV_EVT.EN l) = 1 ∧
      (s.msixOpen l vec = true → let e := tget msixReset (s.link l).msix vec
        (t.link l).tx = (s.link l).tx ++ [.msix vec (getF e 63 0) (getF e 95 64)]) ∧
      (s.msixOpen l vec = false → (t.link l).pba = (s.link l).pba ||| BitVec.ofNat 2048 (2 ^ vec)))) ∧
    (l < 4 → MayWrite s actor dev → s.devCond = false → Completes (.devEvtRearm actor l v) s (fun t =>
      SameBut [dev] s t ∧ t.g (HOSTLINK.DEV_EVT.VECTOR l) = vec ∧ t.g (HOSTLINK.DEV_EVT.EN l) = getF v 12 12))

/-- Reads of Edryn time (R63, R82) return its whole nanoseconds and latch the fraction for their actor or page; ADJ_FREQ and ADJ_PHASE set the rate
and the slew (R75); the last part of a slew that is less than one cycle's share is applied whole, in a cycle in which the clock and the time go on at
their rates (R59, R67). -/
def Obligations.EdrynTime : Prop :=
  ∀ (s : State) (actor inst : Nat) (v : Word),
    let e := s.edryn
    let r := getF v 55 48
    (actorOk actor = true → Gives (.timeRead actor true) s { s with
      edryn := { e with latch := tset 0 e.latch actor (e.time % 65536) },
      out := s.out ++ [.regRead actor EDRYN.TIME_NS.reg (e.time / 65536)] }) ∧
    (actorOk (0x100 + inst) = true → s.instLive inst = true → s.instSealed inst = false → Gives (.timePageRead inst true) s { s with
      edryn := { e with latch := tset 0 e.latch (0x1_0000 + inst) (e.time % 65536) },
      out := s.out ++ [.regRead (0x100 + inst) (IPAGE.base inst + 0xD008) (e.time / 65536)] }) ∧
    (MayWrite s actor EDRYN.ADJ_FREQ.reg →
      Gives (.adjFreqWrite actor v) s (s.p EDRYN.ADJ_FREQ.FREQ (getF v 39 0))) ∧
    (MayWrite s actor EDRYN.ADJ_PHASE.reg →
      Gives (.adjPhaseWrite actor v) s { s.p EDRYN.ADJ_PHASE.RATE r with
        edryn := { e with slew := if r = 0 then 0 else sgn 48 (getF v 47 0) * tickDen } }) ∧
    (let n : Int := 2 ^ 17 * 10 ^ 6 * (2 ^ 48 + sgn 40 (s.g EDRYN.ADJ_FREQ.FREQ) + s.dpllRate) + e.slew + e.res
     let locked := s.g EDRYN.SRC.FREQ = 1 ∧ tget false e.cdr (s.g EDRYN.SRC.SYNCE_PORT) = true
     s.aonUp = true → e.slew ≠ 0 → e.slew.natAbs < slewTick (s.g EDRYN.ADJ_PHASE.RATE) → Gives .slewDone s { s with
        edryn := { e with clk := e.clk + 1, time := (e.time + (n / tickDen).toNat) % 2 ^ 80,
                          res := (n % tickDen).toNat, slew := 0, dpll := if locked then e.dpll + 1 else e.dpll } }) ∧
    (e.slew = 0 ∨ slewTick (s.g EDRYN.ADJ_PHASE.RATE) ≤ e.slew.natAbs → Gives .slewDone s s)

/-- A step of Edryn time (R76), where no trigger is armed, no timed packet and no descriptor waits and no thread timer runs: time moves by OFFSET,
STEP_COUNT counts it, and a step without SOURCED leaves the time UNTRACEABLE. -/
def Obligations.EdrynStepMoves : Prop :=
  ∀ (s : State) (actor : Nat) (v : Word), MayWrite s actor EDRYN.STEP.reg →
    (∀ n, n < 256 → s.trigArmed n = false) → s.beeline = [] → s.fdescs = [] → s.thread = [] →
    Completes (.edrynStep actor v) s (fun t =>
      t.edryn.time = wrapInt 80 (s.edryn.time + sgn 63 v.toNat * 65536) ∧
      t.g EDRYN.STEP_COUNT.COUNT = min (s.g EDRYN.STEP_COUNT.COUNT + 1) (2 ^ 32 - 1) ∧
      t.g EDRYN.TRACE.STATE = (if v.getLsbD 63 then s.g EDRYN.TRACE.STATE else 4) ∧
      (v.getLsbD 63 = true → t.g EDRYN.BOUND.NS = s.g EDRYN.BOUND.NS) ∧
      (t.reg (UNIT.EVT.reg EDRYN.base)).getLsbD 9 = true)

/-- The servo (R78, R79): what SERVO_CTL, its timeout and HOLDOVER make of the traceability state (0 FREERUN, 1 ACQUIRING, 2 LOCKED, 3 HOLDOVER, 4
UNTRACEABLE) and of BOUND. It rests on the model's choices of assumptions 76 and 129. -/
def Obligations.EdrynServo : Prop :=
  ∀ (s : State) (actor : Nat) (v : Word),
    let st := s.g EDRYN.TRACE.STATE
    let back := if s.edryn.acqFrom = 2 ∨ s.edryn.acqFrom = 3 then 3 else s.edryn.acqFrom
    let acq := v.getLsbD 0
    let lock := v.getLsbD 1
    let next :=
      if st = 1 then (if lock then 2 else if acq then 1 else back)
      else if st = 2 then (if lock then 2 else if acq then 1 else 3)
      else if acq then 1 else st
    let k := s.edryn.holdK + 1
    let b := holdBound s.edryn.holdB0 (s.g EDRYN.HOLD_COEF.LIN) (s.g EDRYN.HOLD_COEF.QUAD) k
    let lost (x : Nat) : Prop := x = 0 ∨ x = 4
    s.edryn.acqFrom < 8 →
    (MayWrite s actor EDRYN.SERVO_CTL.reg → acq = false ∨ s.g EDRYN.SRC.REF_OK = 1 →
      ∀ i ∈ ([.servoAcq actor v, .servoLock actor v, .heartbeat actor v] : List Instr), Completes i s (fun t =>
        t.g EDRYN.TRACE.STATE = next ∧ (next ≠ st → t.g EDRYN.TRACE.PREV = st) ∧
        t.g EDRYN.BOUND.NS = (if next ≠ st ∧ lost next then 0xFFFF_FFFF else s.g EDRYN.BOUND.NS) ∧
        t.g EDRYN.SERVO_CTL.ACQ = b2n acq ∧ t.g EDRYN.SERVO_CTL.LOCK = b2n lock ∧
        t.edryn.servoClk = (if v.getLsbD 2 then s.edryn.clk else s.edryn.servoClk) ∧
        t.edryn.time = s.edryn.time)) ∧
    (MayWrite s actor EDRYN.SERVO_CTL.reg → acq = true → s.g EDRYN.SRC.REF_OK ≠ 1 →
      Completes (.servoAcq actor v) s (fun t => t.edryn = s.edryn ∧
        SameBut [UNIT.EVT.reg EDRYN.base] { s with links := t.links } t ∧
        (t.reg (UNIT.EVT.reg EDRYN.base)).getLsbD 6 = true)) ∧
    (MayWrite s actor EDRYN.BOUND.reg → Gives (.boundWrite actor v) s
      (if st = 1 ∨ st = 2 then s.p EDRYN.BOUND.NS (getF v 31 0) else s)) ∧
    (s.aonUp = true → s.edryn.servoFired = false →
      s.edryn.servoClk + s.g EDRYN.SERVO_CTL.TIMEOUT * msClk ≤ s.edryn.clk → Completes .servoTimeout s (fun t =>
        t.g EDRYN.TRACE.STATE = (if st = 1 then back else if st = 2 then 3 else st) ∧
        t.g EDRYN.SERVO_CTL.ACQ = 0 ∧ t.g EDRYN.SERVO_CTL.LOCK = 0 ∧ t.edryn.servoFired = true ∧
        (t.reg (UNIT.EVT.reg EDRYN.base)).getLsbD 14 = true)) ∧
    (st = 3 → s.edryn.holdClk + k * msClk ≤ s.edryn.clk → Completes .holdoverTick s (fun t =>
        t.edryn.holdK = k ∧
        t.g EDRYN.TRACE.STATE = (if s.g EDRYN.HOLD_LIMIT.NS ≤ b then 0 else 3) ∧
        t.g EDRYN.BOUND.NS = (if s.g EDRYN.HOLD_LIMIT.NS ≤ b then 0xFFFF_FFFF else b)))

/-- The sources of time: the leap second (R64), TREF_IN (R66), the SyncE lanes and the frequency measurement (R67), PPS edges (R68) and time-of-day
messages (R70, R71), which go to the channels that firmware opened for a device source (the model's choice: assumption 36). It rests on the model's
choices of assumptions 31, 34, 36 and 128. -/
def Obligations.EdrynSources : Prop :=
  ∀ (s : State) (lane pin dur : Nat) (v : Word) (msg : Bytes) (frame : Bool),
    let e := s.edryn
    let u := s.g EDRYN.UTC.OFFSET
    let cap := ppsCapture e.time (if pin = 0 then s.g EDRYN.PPS_DELAY.DELAY0 else s.g EDRYN.PPS_DELAY.DELAY1)
    (s.g EDRYN.UTC.LEAP = 1 ∨ s.g EDRYN.UTC.LEAP = 2 → s.g EDRYN.UTC.LEAP_AT * 10 ^ 9 ≤ e.time / 65536 →
      Completes .leapApply s (fun t => t.edryn = e ∧ SameBut [EDRYN.UTC.reg] s t ∧ t.g EDRYN.UTC.LEAP = 0 ∧
        t.g EDRYN.UTC.LEAP_AT = s.g EDRYN.UTC.LEAP_AT ∧
        t.g EDRYN.UTC.OFFSET = (if s.g EDRYN.UTC.LEAP = 1 then u + 1 else u + 65535) % 65536)) ∧
    (s.aonUp = true → s.g EDRYN.SRC.ON_INTERNAL = 1 → e.trefClk + 1000 * msClk ≤ e.clk →
      Completes .trefQualify s (fun t => t.edryn = e ∧ SameBut [EDRYN.SRC.reg] s t ∧
        t.g EDRYN.SRC.REF_OK = 1 ∧ t.g EDRYN.SRC.ON_INTERNAL = 0)) ∧
    (s.g EDRYN.SRC.REF_OK = 1 → Completes .trefLoss s (fun t => t.edryn.time = e.time ∧
        t.g EDRYN.SRC.REF_OK = 0 ∧ t.g EDRYN.SRC.ON_INTERNAL = 1 ∧ t.g EDRYN.TRACE.STATE = 4 ∧
        (t.reg (UNIT.EVT.reg EDRYN.base)).getLsbD 15 = true)) ∧
    (lane < 8 → Gives (.synceCdrLoss lane) s { s with edryn := { e with cdr := tset false e.cdr lane false } } ∧
      Gives (.synceCdrLock lane) s { s with edryn := { e with cdr := tset false e.cdr lane true } }) ∧
    (e.lastMeasSec < e.time / 65536 / 10 ^ 9 → Gives (.freqMeasUpdate v) s
      { s.p EDRYN.FREQ_MEAS.FREQ (getF v 39 0) with edryn := { e with lastMeasSec := e.time / 65536 / 10 ^ 9 } }) ∧
    (pin < 2 → tget 0 e.ppsClk pin = 0 ∨ tget 0 e.ppsClk pin - 1 + 500 * msClk ≤ e.clk →
      Completes (.ppsEdge pin) s (fun t =>
        t.g (if pin = 0 then EDRYN.PPS_CAP0.NS else EDRYN.PPS_CAP1.NS) = cap / 65536 ∧
        t.g (if pin = 0 then EDRYN.PPS_AUX.FRAC0 else EDRYN.PPS_AUX.FRAC1) = cap % 65536 ∧
        t.g (if pin = 0 then EDRYN.PPS_AUX.NEW0 else EDRYN.PPS_AUX.NEW1) = 1 ∧
        (t.reg (UNIT.EVT.reg EDRYN.base)).getLsbD (10 + pin) = true ∧
        SameBut [EDRYN.PPS_CAP0.reg, EDRYN.PPS_CAP1.reg, EDRYN.PPS_AUX.reg, UNIT.EVT.reg EDRYN.base]
          { s with edryn := { e with ppsClk := tset 0 e.ppsClk pin (e.clk + 1), ppsPast := t.edryn.ppsPast } } t)) ∧
    (pin < 2 → tget 0 e.ppsClk pin ≠ 0 → e.clk < tget 0 e.ppsClk pin - 1 + 500 * msClk →
      Completes (.ppsEdge pin) s (fun t => SameBut [EDRYN.TOD_STAT.reg] s t ∧ t.g EDRYN.TOD_STAT.LAST_ERR = 7 ∧
        t.g EDRYN.TOD_STAT.BAD = min (s.g EDRYN.TOD_STAT.BAD + 1) 65535)) ∧
    (s.g EDRYN.TOD_CTL.RX_EN = 1 → s.todCheck msg frame dur = 0 → tblWf (fun _ => 0) s.hchan = true →
      let feeds (k : Nat) : Bool := chValid (tget 0 s.hchan k) && chFeed (tget 0 s.hchan k) == 2 &&
        decide ((tget [] s.hmsg k).length < 16)
      Completes (.todMessageRx msg frame dur) s (fun t =>
        (∀ k, tget [] t.hmsg k = tget [] s.hmsg k ++ (if feeds k then [todWords msg] else [])) ∧
        SameBut [EDRYN.TOD_STAT.reg] { s with edryn := t.edryn, hmsg := t.hmsg, thread := t.thread } t ∧ t.edryn.time = e.time ∧
        t.edryn.todMsg = msg ∧ t.edryn.todSecs.head? = some (beAt msg 4 6) ∧
        t.g EDRYN.TOD_STAT.GOOD = min (s.g EDRYN.TOD_STAT.GOOD + 1) 65535)) ∧
    (s.g EDRYN.TOD_CTL.RX_EN = 1 → s.todCheck msg frame dur ≠ 0 → Completes (.todMessageRx msg frame dur) s (fun t =>
        SameBut [EDRYN.TOD_STAT.reg, UNIT.EVT.reg EDRYN.base] s t ∧
        t.g EDRYN.TOD_STAT.LAST_ERR = s.todCheck msg frame dur ∧
        (t.reg (UNIT.EVT.reg EDRYN.base)).getLsbD 12 = true)) ∧
    (∀ d r, e.todDue = d :: r → d.1 ≤ e.clk → s.g EDRYN.TOD_CTL.TX_EN = 1 →
      (s.ffOut (s.g EDRYN.TOD_CTL.TX_FF)).cfg.mode = 1 → (s.ffOut (s.g EDRYN.TOD_CTL.TX_FF)).cfg.period = 10 ^ 9 * 65536 →
      Completes .todMessageTx s (fun t => t.edryn = { e with todDue := r } ∧
        Same { s with edryn := t.edryn, out := t.out, free := t.free } t ∧ ∃ m, t.out = s.out ++ [.tod m] ∧ m.length = 24 ∧ beAt m 4 6 = d.2 % 2 ^ 48 ∧
          beAt m 10 2 = s.g EDRYN.UTC.OFFSET ∧ beAt m 14 4 = s.g EDRYN.BOUND.NS ∧ beAt m 22 2 = crc16 (slice m 2 20)))

/-- The time page (R82), PTM dialogs (R83; the pair's correction is the model's reading: assumption 30), time evidence (R84) and the Firefly outputs
(R86, R87): a change of a running output waits for an edge at least 1 µs after its write; one that breaks the limits makes the output inactive with
FF_ERROR. It rests on the model's choices of assumptions 30, 32 and 33. -/
def Obligations.EdrynOutputs : Prop :=
  ∀ (s : State) (inst l n master delay actor : Nat) (v : Word),
    let e := s.edryn
    let p := (s.link l).ptm
    let old := tget TimePage.reset s.page inst
    let f := s.ffOut n
    let iv := if s.g EDRYN.PTM_CTL.INTERVAL = 0 then 10 else s.g EDRYN.PTM_CTL.INTERVAL
    (s.instLive inst = true → { old with seq := 0, snap := 0 } ≠ s.pageNow inst →
      let new : TimePage := { s.pageNow inst with seq := (old.seq + 2) % 2 ^ 32, snap := e.time / 65536 }
      Gives (.timePageUpdate inst) s { s with page := tset TimePage.reset s.page inst new }) ∧
    ((s.link l).cfgGet cfgPtm = 1 → s.dlUp l = true → p.open_ = false → p.lastClk + iv * msClk ≤ e.clk → s.bme l = true →
      Completes (.ptmDialog l) s (fun t => (t.link l).tx = (s.link l).tx ++ [.ptmReq] ∧
        (t.link l).ptm = { p with open_ := true, reqTai := quant125 e.time, reqClk := e.clk, lastClk := e.clk } ∧
        (∀ k, k ≠ l → t.link k = s.link k) ∧ SameBut [] { s with links := t.links } t)) ∧
    (p.open_ = true → e.clk ≤ p.reqClk + msClk → Completes (.ptmResponse l master delay) s (fun t =>
        (t.link l).ptm.valid = true ∧ (t.link l).ptm.open_ = false ∧
        (t.link l).ptm.host = wrapInt 64 ((master : Int) - (((s.ns - p.reqTai / 65536 : Nat) : Int) - delay) / 2) ∧
        (t.link l).ptm.tai = p.reqTai / 65536 ∧ (t.link l).ptm.frac = p.reqTai % 65536 ∧
        SameBut [] { s with links := t.links } t)) ∧
    (p.open_ = true → p.reqClk + msClk ≤ e.clk → Completes (.ptmAbandon l) s (fun t =>
        (t.link l).ptm = { p with open_ := false } ∧ SameBut [] { s with links := t.links } t)) ∧
    (s.aonUp = true → e.evLast < e.time / 65536 / (60 * 10 ^ 9) → Completes .evidenceRecord s (fun t =>
        t.edryn.evSeq = e.evSeq + 1 ∧ t.edryn.evLast = e.time / 65536 / (60 * 10 ^ 9) ∧
        (t.reg (UNIT.EVT.reg EDRYN.base)).getLsbD 13 = true ∧
        (∀ k, k ≠ e.evSeq % 64 → tget 0 t.edryn.ev k = tget 0 e.ev k) ∧
        leNat (slice (recBytes (tget 0 t.edryn.ev (e.evSeq % 64))) 4 4) = e.evSeq % 2 ^ 32 ∧
        leNat (slice (recBytes (tget 0 t.edryn.ev (e.evSeq % 64))) 8 8) = e.time / 65536 % 2 ^ 64)) ∧
    (let c : FfCfg := { s.ffRegs n with period := getF v 47 0 }
     n < 4 → MayWrite s actor (EDRYN.FF_CTL.reg n + 8) →
      (f.cfg.runs = true ∨ f.fallAt.isSome = true → Completes (.ffConfigWrite actor n 1 v) s (fun t =>
        t.g (EDRYN.FF_PERIOD.PERIOD n) = getF v 47 0 ∧ SameBut [EDRYN.FF_PERIOD.PERIOD n |>.reg]
          { s with ff := tset Firefly.reset s.ff n { f with waiting := f.waiting ++ [(e.time, c)] } } t)) ∧
      (f.cfg.runs = false → f.fallAt = none → c.ok = true → Completes (.ffConfigWrite actor n 1 v) s (fun t =>
        t.g (EDRYN.FF_PERIOD.PERIOD n) = getF v 47 0 ∧ t.ffOut n = { f with cfg := c, waiting := [], skip := e.time } ∧
        (∀ k, k ≠ n → t.ffOut k = s.ffOut k) ∧
        SameBut [EDRYN.FF_PERIOD.PERIOD n |>.reg] { s with ff := t.ff } t)) ∧
      (f.cfg.runs = false → f.fallAt = none → c.ok = false → Completes (.ffConfigWrite actor n 1 v) s (fun t =>
        t.ffOut n = { f with cfg := { c with mode := 0 }, waiting := [], skip := e.time } ∧
        (t.reg (UNIT.EVT.reg EDRYN.base)).getLsbD 16 = true))) ∧
    (let Edge (at_ : Nat) (g : Firefly) : Prop := Gives (.fireflyPeriodicEdge n) s { s with
        ff := tset Firefly.reset s.ff n { g with
          lastEdge := at_, level := true, fallAt := some (at_ + ffWidth g.cfg.mode g.cfg.period g.cfg.width) },
        out := s.out ++ [.edge n (true != (g.cfg.pol == 1)) (quant125 at_ / 0x2000)] }
     let due := ffNext f.cfg.period f.cfg.phase (max f.lastEdge f.skip + 1)
     n < 4 → s.aonUp = true → f.fallAt = none → s.g EDRYN.TOD_CTL.TX_EN = 0 →
      (f.waiting = [] → f.cfg.runs = true → due ≤ e.time → Edge due f) ∧
      (∀ w, f.waiting = [w] → w.2.runs = true → w.2.ok = true →
        let at_ := ffNext w.2.period w.2.phase (max (w.1 + 65_536_000) (max f.lastEdge f.skip + 1))
        f.cfg.runs = false ∨ at_ ≤ due → at_ ≤ e.time → Edge at_ { f with cfg := w.2, waiting := [] })) ∧
    (n < 4 → s.aonUp = true → ∀ at_, f.fallAt = some at_ → at_ ≤ e.time → Gives (.fireflyPeriodicEdge n) s { s with
        ff := tset Firefly.reset s.ff n { f with level := false, fallAt := none },
        out := s.out ++ [.edge n (false != (f.cfg.pol == 1)) (quant125 at_ / 0x2000)] })

/-- Writing a comparator (R91): a write that sets ARM is refused for a reserved ACTION, an ARG that breaks the action table or a PERIOD below 1,000,
with ERROR; else it records the writer, clears COUNT and MISSED and arms. While ARM is 1, TIME, PERIOD and ARG keep their values with ERROR, and a CTL
write applies ARM and NOTIFY alone, with ERROR only where its ACTION differs (a comparator that is not due: one that is due fires first). -/
def Obligations.TrigControl : Prop :=
  ∀ (s : State) (actor n : Nat) (v : Word), n < 256 → MayWrite s actor (TRIG.CTL.reg n) →
    let evt := UNIT.EVT.reg TRIG.base
    let p := s.g (TRIG.PERIOD.NS n)
    let ok := trigArgOk (getF v 15 8) (s.g (TRIG.ARG.ARG n)) = true ∧ (p = 0 ∨ 1000 ≤ p)
    let Applied (arm : Nat) (t : State) : Prop := SameBut [TRIG.CTL.reg n, evt] { s with links := t.links } t ∧ t.g (TRIG.CTL.ARM n) = arm ∧
      t.g (TRIG.CTL.NOTIFY n) = getF v 1 1 ∧ t.g (TRIG.CTL.ACTION n) = s.g (TRIG.CTL.ACTION n) ∧
      t.g (TRIG.CTL.ARMED_BY n) = s.g (TRIG.CTL.ARMED_BY n) ∧ t.g (TRIG.CTL.COUNT n) = s.g (TRIG.CTL.COUNT n) ∧
      (if getF v 15 8 = s.g (TRIG.CTL.ACTION n) then t.reg evt = s.reg evt else (t.reg evt).getLsbD 6 = true)
    (s.trigArmed n = false → ¬ ok → Completes (.trigArm actor n v) s (fun t => t.g (TRIG.CTL.ARM n) = 0 ∧
      (t.reg evt).getLsbD 6 = true ∧ SameBut [TRIG.CTL.reg n, evt] { s with links := t.links } t)) ∧
    (s.trigArmed n = false → ok → s.ns < s.g (TRIG.TIME.NS n) → Completes (.trigArm actor n v) s (fun t =>
      t.g (TRIG.CTL.ARM n) = 1 ∧ t.g (TRIG.CTL.ACTION n) = getF v 15 8 ∧ t.g (TRIG.CTL.NOTIFY n) = getF v 1 1 ∧
      t.g (TRIG.CTL.ARMED_BY n) = actor ∧ t.g (TRIG.CTL.COUNT n) = 0 ∧ t.g (TRIG.LAST_INFO.MISSED n) = 0 ∧
      SameBut [TRIG.CTL.reg n, TRIG.LAST_INFO.reg n] s t)) ∧
    (s.trigArmed n = true → s.trigDue n = false → Completes (.trigArm actor n v) s (Applied 1) ∧ Completes (.trigDisarm actor n v) s (Applied 0) ∧
      ∀ a ∈ ([TRIG.TIME.reg n, TRIG.PERIOD.reg n, TRIG.ARG.reg n] : List Nat), Completes (.registerWrite actor a true v) s (fun t =>
        SameBut [evt] { s with links := t.links } t ∧ (t.reg evt).getLsbD 6 = true))

/-- Comparators of TRIG: arming one for a future instant (R91), disarming one (R91), and a firing (R92, R93) of one whose action is NONE, which
records its instant and outcome and, with a PERIOD, moves TIME on; no comparator below it is due (R94), and it did not pass while FABRIC was away
(R88). One that is due fires before a write disarms it (R92). It rests on the model's choice of assumption 35. -/
def Obligations.TrigComparators : Prop :=
  ∀ (s : State) (actor n : Nat) (v : Word), n < 256 →
    let ti := s.g (TRIG.TIME.NS n)
    let p := s.g (TRIG.PERIOD.NS n)
    let k := if p = 0 then 0 else (s.ns - ti) / p
    (MayWrite s actor (TRIG.CTL.reg n) → s.trigArmed n = false → trigArgOk (getF v 15 8) (s.g (TRIG.ARG.ARG n)) = true →
      p = 0 ∨ 1000 ≤ p → s.ns < ti → Completes (.trigArm actor n v) s (fun t =>
        SameBut [TRIG.CTL.reg n, TRIG.LAST_INFO.reg n] s t ∧ t.g (TRIG.CTL.ARM n) = 1 ∧
        t.g (TRIG.CTL.ACTION n) = getF v 15 8 ∧ t.g (TRIG.CTL.NOTIFY n) = getF v 1 1 ∧
        t.g (TRIG.CTL.ARMED_BY n) = actor ∧ t.g (TRIG.CTL.COUNT n) = 0 ∧ t.g (TRIG.LAST_INFO.MISSED n) = 0)) ∧
    (MayWrite s actor (TRIG.CTL.reg n) → s.trigArmed n = true → s.trigDue n = false → getF v 15 8 = s.g (TRIG.CTL.ACTION n) →
      Completes (.trigDisarm actor n v) s (fun t => SameBut [TRIG.CTL.reg n] s t ∧
        t.g (TRIG.CTL.ARM n) = 0 ∧ t.g (TRIG.CTL.ACTION n) = s.g (TRIG.CTL.ACTION n) ∧
        t.g (TRIG.CTL.ARMED_BY n) = s.g (TRIG.CTL.ARMED_BY n))) ∧
    (s.trigArmed n = true → s.trigEvaluates n = true → s.g (TRIG.CTL.ACTION n) = 0 → s.gb (TRIG.CTL.NOTIFY n) = false →
      ti ≤ s.ns → s.ns ≤ ti + 32 → (∀ j, j < n → s.trigDue j = false) → n ∉ s.trigLate →
      (p = 0 → MayWrite s actor (TRIG.CTL.reg n) → Completes (.trigDisarm actor n v) s (fun t => t.g (TRIG.LAST.NS n) = ti ∧
        t.g (TRIG.CTL.ARM n) = 0 ∧ t.g (TRIG.CTL.COUNT n) = min (s.g (TRIG.CTL.COUNT n) + 1) 65535 ∧
        SameBut [TRIG.CTL.reg n, TRIG.LAST.reg n, TRIG.LAST_INFO.reg n] s t)) ∧
      Completes (.trigFire n) s (fun t =>
        SameBut [TRIG.CTL.reg n, TRIG.TIME.reg n, TRIG.LAST.reg n, TRIG.LAST_INFO.reg n] s t ∧
        t.g (TRIG.LAST.NS n) = (ti + k * p) % 2 ^ 64 ∧
        t.g (TRIG.CTL.ARM n) = (if p = 0 then 0 else 1) ∧
        t.g (TRIG.TIME.NS n) = (if p = 0 then ti else (ti + k * p + p) % 2 ^ 64) ∧
        t.g (TRIG.CTL.COUNT n) = min (s.g (TRIG.CTL.COUNT n) + 1) 65535 ∧
        t.g (TRIG.LAST_INFO.MISSED n) = min (s.g (TRIG.LAST_INFO.MISSED n) + k) 65535 ∧
        t.g (TRIG.LAST_INFO.STATUS n) = 0 ∧ t.g (TRIG.LAST_INFO.LATE n) = 0 ∧ t.g (TRIG.LAST_INFO.HELD n) = 0))

/-- Conventional resets, seals and training of a link (R104, R108–R110, R116, R118, R119) that no instance is bound to and that has nothing
outstanding: each way into a reset (1 PERST_N, 2 Hot Reset, 3 Disabled, 4 DL_Down) seals the link and takes DL_UP, BME, MSE and MSI-X away; a poisoned
or malformed TLP seals it alone; SEAL_RELEASE by a physical function ends a seal once DL_UP is back; a writer that Chitin does not permit is refused,
with ERROR in HOSTIF too (the model's choice: assumption 44). It rests on the model's choices of assumptions 38 and 44. -/
def Obligations.LinkResets : Prop :=
  ∀ (s : State) (actor l rates widths speed w : Nat) (flit : Bool) (v : Word), OnLink s l →
    (s.link l).reads = [] → (s.link l).waitRd = [] → (s.link l).held = [] → s.instsOn l = [] →
    let up := s.dlUp l = true
    let perst := s.gb (HOSTLINK.LINK_STAT.PERST l)
    let Sealed (c : Nat) (t : State) : Prop := t.sealed l = true ∧
      (s.sealed l = false → t.g (HOSTLINK.SEAL.CAUSE l) = c ∧ t.g (HOSTLINK.SEAL_TIME.NS l) = s.ns % 2 ^ 64 ∧
        (t.reg (UNIT.EVT.reg (HOSTLINK.base l))).getLsbD 8 = true) ∧
      (s.sealed l = true → t.g (HOSTLINK.SEAL.CAUSE l) = s.g (HOSTLINK.SEAL.CAUSE l) ∧
        t.g (HOSTLINK.SEAL.EXTRA l) = min (s.g (HOSTLINK.SEAL.EXTRA l) + 1) 255)
    let Reset (why cause : Nat) (t : State) : Prop := Sealed cause t ∧ (t.link l).convReset = why ∧
      (t.link l).cfg = [] ∧ (t.link l).msix = [] ∧ t.dlUp l = false ∧ t.bme l = false ∧
      t.g (HOSTLINK.LINK_STAT.MSE l) = 0 ∧ t.g (HOSTLINK.LINK_STAT.MSIX_EN l) = 0 ∧
      t.g (HOSTLINK.LINK_STAT.SPEED l) = 0 ∧ (t.reg (UNIT.EVT.reg (HOSTLINK.base l))).getLsbD 15 = true
    (perst = false → (s.link l).convReset = 0 → Completes (.perstAssert l) s (fun t => Reset 1 6 t ∧
      t.gb (HOSTLINK.LINK_STAT.PERST l) = true)) ∧
    (perst = true → Completes (.perstDeassert l) s (fun t => t.gb (HOSTLINK.LINK_STAT.PERST l) = false ∧
      bit (t.g (PWR.DOM_STAT.HOLDS (linkDom l))) 2 = true ∧ (t.link l).convReset = (s.link l).convReset)) ∧
    (s.trained l = true → Completes (.hotReset l) s (Reset 2 6) ∧ Completes (.linkDisable l) s (Reset 3 6)) ∧
    (up → (s.link l).convReset = 0 → Completes (.dlDown l) s (Reset 4 4)) ∧
    (up → Completes (.poisonedTlp l none) s (fun t => Sealed 1 t ∧ t.dlUp l = true ∧ t.bme l = s.bme l) ∧
      Completes (.malformedTlp l none) s (fun t => Sealed 2 t ∧ t.dlUp l = true ∧ t.bme l = s.bme l)) ∧
    (s.dlUp l = false → perst = false → s.trained l = true → Completes (.dlUp l) s (fun t => t.dlUp l = true ∧
      (t.reg (UNIT.EVT.reg (HOSTLINK.base l))).getLsbD 14 = true ∧
      SameBut [HOSTLINK.LINK_STAT.reg l, UNIT.EVT.reg (HOSTLINK.base l)] { s with links := t.links } t)) ∧
    (perst = false → s.domUp (linkDom l) = true → s.dlUp l = false →
      1 ≤ speed → speed ≤ (if flit then 6 else 5) → bit rates speed = true →
      (∀ r, speed < r → r ≤ (if flit then 6 else 5) → bit rates r = false) →
      w ≤ (if s.trust.strapHost % 2 = 0 then 4 else 3) → bit widths w = true →
      (∀ x, w < x → x ≤ (if s.trust.strapHost % 2 = 0 then 4 else 3) → bit widths x = false) →
      Completes (.linkTrained l rates widths flit) s (fun t => t.g (HOSTLINK.LINK_STAT.SPEED l) = speed ∧
        t.g (HOSTLINK.LINK_STAT.WIDTH l) = 2 ^ w ∧ t.g (HOSTLINK.LINK_STAT.FLIT l) = b2n flit ∧
        (t.link l).convReset = 0 ∧ SameBut [HOSTLINK.LINK_STAT.reg l] { s with links := t.links } t)) ∧
    (MayWrite s actor HOSTIF.SEAL_RELEASE.reg → v = BitVec.ofNat 64 (2 ^ l) →
      (isPf actor = true → s.sealed l = true → up → Completes (.sealRelease actor v) s (fun t =>
        t.sealed l = false ∧ t.g (HOSTLINK.SEAL.CAUSE l) = 0 ∧ t.g (HOSTLINK.SEAL.EXTRA l) = 0 ∧
        bit (t.g HOSTIF.SEAL_RELEASE.REFUSED) l = false ∧
        SameBut [HOSTLINK.SEAL.reg l, HOSTIF.SEAL_RELEASE.reg] s t)) ∧
      (isPf actor = false ∨ s.sealed l = false ∨ s.dlUp l = false → Completes (.sealRelease actor v) s (fun t =>
        bit (t.g HOSTIF.SEAL_RELEASE.REFUSED) l = true ∧ (t.reg (UNIT.EVT.reg (HOSTLINK.base l))).getLsbD 6 = true ∧
        SameBut [HOSTIF.SEAL_RELEASE.reg, UNIT.EVT.reg (HOSTLINK.base l)] { s with links := t.links } t))) ∧
    (actorOk actor = true → s.permits actor .hostif = false → v = BitVec.ofNat 64 (2 ^ l) →
      Completes (.sealRelease actor v) s (fun t => bit (t.g HOSTIF.SEAL_RELEASE.REFUSED) l = true ∧
        (t.reg (UNIT.EVT.reg (HOSTLINK.base l))).getLsbD 6 = true ∧ (t.reg (UNIT.EVT.reg HOSTIF.base)).getLsbD 6 = true ∧
        SameBut [HOSTIF.SEAL_RELEASE.reg, UNIT.EVT.reg (HOSTLINK.base l), UNIT.EVT.reg HOSTIF.base]
          { s with links := t.links } t))

/-- Bus Master Enable and reads (R112–R114, R179): without BME the rings of a link's instances stall, and unstall with it; a completion gives its read
the data it carries; a read's timeout quarantines its tag for twice MS, and an unexpected completion is counted. The read is one piece of a job with
others. -/
def Obligations.LinkReads : Prop :=
  ∀ (s : State) (l tag bc la : Nat) (data : Bytes) (r : HostRead) (job : DmaJob), OnLink s l → (s.link l).waitRd = [] →
    let stat := HOSTLINK.LINK_STAT.reg l
    let evt := UNIT.EVT.reg (HOSTLINK.base l)
    let ms := s.g (HOSTLINK.CPL_TO.MS l)
    (s.bme l = true → Completes (.bmeClear l) s (fun t => t.bme l = false ∧ (t.reg evt).getLsbD 13 = true ∧
      (∀ i ∈ s.instsOn l, (∀ w ∈ s.instWqs i, t.wqg w WQ.state = 3) ∧ (∀ c ∈ s.instCrs i, t.crg c CR.state = 3)) ∧
      SameBut [stat, evt] { s with links := t.links, wq := t.wq, cr := t.cr } t)) ∧
    (s.bme l = false → s.dlUp l = true → (s.link l).held = [] → Completes (.bmeSet l) s (fun t => t.bme l = true ∧
      (t.reg evt).getLsbD 13 = true ∧
      (∀ i ∈ s.instsOn l, ∀ w ∈ s.instWqs i, s.wqg w WQ.state = 3 → s.wqg w WQ.rem ≠ 3 → t.wqg w WQ.state = s.wqg w WQ.rem) ∧
      SameBut [stat, evt] { s with links := t.links, wq := t.wq, cr := t.cr } t)) ∧
    ((s.link l).reads.find? (fun e => e.1 == tag) = some (tag, r) → r.dead = false →
      s.jobs.find? (fun e => e.1 == r.job) = some (r.job, job) → 2 ≤ job.left →
      (s.dlUp l = true → bc = r.len - r.got.length → la = (r.addr + r.got.length) % 128 → data ≠ [] → data.length ≤ bc →
        Completes (.completionRx l tag true 0 bc la data) s (fun t =>
          (data.length < bc → t.jobs = s.jobs ∧
            (t.link l).reads = tins tag { r with got := r.got ++ data } (s.link l).reads) ∧
          (data.length = bc → t.jobs = tins r.job
              { job with left := job.left - 1, buf := overlay job.buf r.pos (r.got ++ data) } s.jobs ∧
            (t.link l).quar = (s.link l).quar))) ∧
      (ms * 1_000_000 ≤ s.since r.sent → s.gb (HOSTLINK.CPL_TO.SEAL_ON_TO l) = false →
        Completes (.cplTimeout l tag) s (fun t => (t.link l).reads = tdel (s.link l).reads tag ∧
          (t.link l).quar = tins tag (s.edryn.clk + 2 * ms * msClk) (s.link l).quar ∧
          t.g (HOSTLINK.TAG_STAT.TIMEOUTS l) = min (s.g (HOSTLINK.TAG_STAT.TIMEOUTS l) + 1) (2 ^ 32 - 1) ∧
          (t.reg evt).getLsbD 9 = true ∧
          t.jobs = tins r.job
            { job with left := job.left - 1, status := if job.status = 0 then 8 else job.status } s.jobs))) ∧
    ((s.link l).reads.find? (fun e => e.1 == tag) = none → s.dlUp l = true → tag < 1024 →
      Completes (.completionRx l tag true 0 bc la data) s (fun t => t.jobs = s.jobs ∧
        t.g (HOSTLINK.UNEXP_CPL.COUNT l) = min (s.g (HOSTLINK.UNEXP_CPL.COUNT l) + 1) (2 ^ 32 - 1) ∧
        t.g (HOSTLINK.UNEXP_CPL.LAST_TAG l) = tag ∧
        t.g (HOSTLINK.UNEXP_CPL.LAST_QUAR l) = b2n ((tkeys (s.link l).quar).contains tag) ∧
        (t.reg evt).getLsbD 10 = true)) ∧
    (∀ e, (s.link l).quar.find? (fun x => x.1 == tag) = some (tag, e) → e ≤ s.edryn.clk → (s.link l).held = [] →
      Completes (.quarantineEnd l tag) s (fun t => (t.link l).quar = tdel (s.link l).quar tag ∧
        SameBut [HOSTLINK.TAG_STAT.reg l] { s with links := t.links } t))

/-- Configuration requests, peer windows, invalidations, translations and the order probe (R45, R106, R108, R114, R120, R121, R133, R134, R151, R152).
A probe's operand names the link that carries it and the instance (the model's encoding: assumption 27), a completion's status 8 one that contradicts
its request (assumption 40). It rests on the model's choices of assumptions 27, 39 and 40. -/
def Obligations.LinkRequests : Prop :=
  ∀ (s : State) (actor l rid tag off len itag va pa log2 i v : Nat) (wr rd wt all : Bool) (pas : Option Nat) (r : CfgReg)
    (data : Bytes) (x : XlReq) (w : Word), OnLink s l → s.dlUp l = true → (s.link l).waitRd = [] →
    (s.link l).held = [] →
    let Sends (p : Tlp) (t : State) : Prop := (t.link l).tx = (s.link l).tx ++ [p]
    let Quiet (t : State) : Prop := SameBut [] { s with links := t.links } t
    let evt := UNIT.EVT.reg (HOSTLINK.base l)
    (s.cfgNormal = false → Completes (.configRequest l wr r v) s (fun t => Sends .cfgRrs t ∧ Quiet t)) ∧
    (s.cfgNormal = true →
      Completes (.configRequest l false .id 0) s (fun t => Sends (.cfgCpl 0x07161EF1) t ∧ Quiet t) ∧
      Completes (.configRequest l true (.bar 0) v) s (fun t => Sends (.cfgCpl 0) t ∧ Quiet t ∧
        (t.link l).cfgGet (cfgBar 0) = bits v 31 29 * 2 ^ 29)) ∧
    (MayWrite s actor (HOSTLINK.PEERWIN_COMMIT.reg l) → w.getLsbD 0 = true →
      (∀ k, k < 64 → rget (s.shadowWin l k) PW.en = 0) → Completes (.peerwinCommit actor l w) s (fun t =>
        (∀ k, k < 64 → t.window l k = s.shadowWin l k) ∧
        t.g (HOSTLINK.PEERWIN_COMMIT.ERR l) = 0 ∧
        t.g (HOSTLINK.PEERWIN_EPOCH.EPOCH l) = (s.g (HOSTLINK.PEERWIN_EPOCH.EPOCH l) + 1) % 2 ^ 32 ∧
        (t.reg evt).getLsbD 12 = true)) ∧
    (0x1_0000 ≤ off → off < 0x4000_0000 → s.takesMem l = false →
      Completes (.peerWindowTlp l rid tag off len false true data) s (fun t => Same s t) ∧
      Completes (.peerWindowTlp l rid tag off len false false []) s (fun t => Sends (.cplUr rid tag) t ∧ Quiet t)) ∧
    (∀ k h a, 0x1_0000 ≤ off → off < 0x4000_0000 → s.takesMem l = true →
      s.pwHit l rid off data.length false true = some (k, h, a) →
      Completes (.peerWindowTlp l rid tag off len false true data) s (fun t =>
        if k = 0 then Stored s.rsvMem (h * 2 ^ 24 + a) data t.rsvMem ∧ Same { s with rsvMem := t.rsvMem } t
        else Stored s.store (h * hsSize + a) data t.store ∧ Same { s with store := t.store } t)) ∧
    (0x1_0000 ≤ off → off < 0x4000_0000 → s.takesMem l = true → s.pwHit l rid off len false false = none → rid < 2 ^ 16 →
      Completes (.peerWindowTlp l rid tag off len false false []) s (fun t =>
        t.g (HOSTLINK.PW_MISS.LAST_RID l) = rid ∧ t.g (HOSTLINK.PW_MISS.LAST_READ l) = 1 ∧
        t.g (HOSTLINK.PW_MISS_ADDR.OFFSET l) = off ∧ (t.reg evt).getLsbD 11 = true ∧
        (t.link l).tx.getLast? = some (.cplUr rid tag) ∧ t.store = s.store ∧ t.rsvMem = s.rsvMem)) ∧
    ((s.link l).inval.length < 32 → Completes (.atsInvalidate l itag pas all va len) s (fun t =>
      (∀ e ∈ t.xl, e ∈ s.xl ∧ ¬ (e.link = l ∧ (all = true ∨ pas = some e.pasid) ∧ overlaps va len e.va (2 ^ e.log2) = true)) ∧
      (∃ tags, (t.link l).inval = (s.link l).inval ++ [⟨itag, tags⟩]) ∧
      Same { s with xl := t.xl, links := t.links } t)) ∧
    (∀ q, (s.link l).inval.find? (fun q => !q.tags.any (fun t => (tkeys (s.link l).reads).contains t)) = some q →
      Completes (.atsInvalidateComplete l) s (fun t => Sends (.invalCpl q.itag) t ∧
        (t.link l).inval = (s.link l).inval.erase q ∧
        t.g INST.ATC_STAT.INVALS = min (s.g INST.ATC_STAT.INVALS + 1) (2 ^ 32 - 1) ∧
        SameBut [INST.ATC_STAT.reg] { s with links := t.links } t)) ∧
    ((s.link l).xlReqs.find? (fun e => e.1 == tag) = some (tag, x) →
      (x.overtaken log2 = false → (if x.write then wt else rd) = true → 12 ≤ log2 → log2 ≤ 30 → s.xl.length < 32768 →
        Completes (.translationCompletion l tag 0 pa log2 rd wt) s (fun t => t.xl =
            ⟨l, s.ri x.inst IR.pasid, x.inst, x.va / 2 ^ log2 * 2 ^ log2, log2, pa / 2 ^ log2 * 2 ^ log2, rd, wt⟩ :: s.xl ∧
          (t.link l).xlReqs = tdel (s.link l).xlReqs tag)) ∧
      (tag < 1024 → Completes (.translationCompletion l tag 8 pa log2 rd wt) s (fun t => t.xl = s.xl ∧
        (t.link l).xlReqs = (s.link l).xlReqs ∧ t.g (HOSTLINK.UNEXP_CPL.LAST_TAG l) = tag ∧
        t.g (HOSTLINK.UNEXP_CPL.COUNT l) = min (s.g (HOSTLINK.UNEXP_CPL.COUNT l) + 1) (2 ^ 32 - 1) ∧
        (t.reg evt).getLsbD 10 = true))) ∧
    (let m := s.linkOf i
     let Answers (y : Nat) : Prop :=
      (s.takesMem l = false → Completes (.orderProbe y rid tag) s (fun t => Sends (.cplUr rid tag) t ∧ Quiet t)) ∧
      (s.takesMem l = true → s.instLive i = false ∨ s.sealed m = true → Completes (.orderProbe y rid tag) s (fun t =>
        Sends (.cplData rid tag (leBytes 8 (2 ^ 64 - 1))) t ∧ Quiet t)) ∧
      (s.takesMem l = true → s.instLive i = true → s.sealed m = false →
        (s.domDown 1 = true → Completes (.orderProbe y rid tag) s (fun t => Sends (.cplUr rid tag) t ∧ Quiet t)) ∧
        (s.domDown 1 = false → s.bme m = false → Completes (.orderProbe y rid tag) s (fun t =>
          Sends (.cplData rid tag (leBytes 8 0)) t ∧ Quiet t)) ∧
        (s.domDown 1 = false → s.bme m = true → Completes (.orderProbe y rid tag) s (fun t =>
          (t.link m).probes = (s.link m).probes ++ [(l, rid, tag, (s.link m).seq)] ∧ t.out = s.out ∧ Quiet t)))
     i < 2048 → Answers (2048 * (l + 1) + i) ∧ (m = l → Answers i)) ∧
    (∀ p ps, (s.link l).probes = p :: ps → Completes (.orderProbeComplete l) s (fun t =>
      (t.link p.1).tx = (s.link p.1).tx ++ [.cplData p.2.1 p.2.2.1 (leBytes 8
        (if s.sealed l = true then 2 ^ 64 - 1 else if s.bme l = true then s.ns else 0))] ∧
      (t.link l).probes = ps ∧ Quiet t))

/-- Commands of INST (R141–R146, R154, R155, R157): CREATE takes the lowest ranges that fit, SET_SHARES the staged shares, RESET and DESTROY by drain
mark the instance, and DONE ends them. It rests on the model's choice of assumption 60. -/
def Obligations.InstanceCommands : Prop :=
  ∀ (s : State) (actor i us : Nat), i < 2048 →
    let r := s.staged i
    let Others (t : State) : Prop := ∀ j, j ≠ i → t.instRec j = s.instRec j
    let Ended (op st : Nat) (t : State) : Prop := t.g (INST.CMD_STATUS.STATE i) = 2 ∧
      t.g (INST.CMD_STATUS.STATUS i) = st ∧ t.g (INST.CMD_STATUS.OP i) = op ∧ t.g (INST.CMD_STATUS.ACTOR i) = actor ∧
      (t.reg (INST.DONE.reg (i / 64))).getLsbD (i % 64) = true ∧ (t.reg (UNIT.EVT.reg INST.base)).getLsbD 8 = true
    (MayWrite s actor INST.CMD.reg →
      (s.instRunning i = true → ∀ c ∈ ([.instCreate actor i, .instSetShares actor i, .instReset actor i 0 us] : List Instr),
        Completes c s (fun t => t.inst = s.inst ∧ t.g INST.CMD_REFUSED.INSTANCE = i ∧
          t.g INST.CMD_REFUSED.STATUS = 0x11 ∧ t.g INST.CMD_REFUSED.ACTOR = actor ∧
          (t.reg (UNIT.EVT.reg INST.base)).getLsbD 6 = true)) ∧
      (s.instRunning i = false →
        (s.instState i ≠ 0 → Completes (.instCreate actor i) s (fun t => Ended 1 0x11 t ∧ t.inst = s.inst)) ∧
        (∀ w c n f, s.instState i = 0 → s.createOk r = true →
          lowestBase (s.ranges IR.wqBase IR.nwq) wqPool (rget r IR.nwq) = some w →
          lowestBase (s.ranges IR.crBase IR.ncr) crPool (rget r IR.ncr) = some c →
          lowestBase (s.ranges IR.intBase IR.nint) intPool (rget r IR.nint) = some n →
          lowestBase (s.ranges IR.leafBase IR.nleaf) leafPool (rget r IR.nleaf) = some f →
          Completes (.instCreate actor i) s (fun t => Ended 1 0 t ∧ Others t ∧ t.instState i = 1 ∧
            t.ri i IR.wqBase = w ∧ t.ri i IR.crBase = c ∧ t.ri i IR.intBase = n ∧ t.ri i IR.leafBase = f ∧
            t.ri i IR.nwq = rget r IR.nwq ∧ t.ri i IR.link = rget r IR.link)) ∧
        (s.instState i = 1 ∨ s.instState i = 2 → quotasOk r = true →
          quotaUse.any (fun q => decide (rget r q.1 < s.ri i q.2)) = false →
          Completes (.instSetShares actor i) s (fun t => Ended 4 0 t ∧ Others t ∧ t.instState i = s.instState i ∧
            ∀ q ∈ quotas, t.ri i q.1 = rget r q.1)) ∧
        (s.instState i ≠ 0 → 0 < us → us < 2 ^ 32 →
          let Taken (st : Nat) (t : State) : Prop := Others t ∧ t.instState i = st ∧
            t.instCmdOf i = ⟨false, s.ns + us * 1000⟩ ∧ t.g (INST.CMD_STATUS.STATE i) = 1 ∧
            t.g (INST.CMD_STATUS.OP i) = st ∧
            SameBut [INST.CMD_STATUS.reg i]
              { s with inst := t.inst, instCmd := t.instCmd, cr := t.cr, wqx := t.wqx, crx := t.crx } t
          Completes (.instReset actor i 0 us) s (Taken 2) ∧
          (s.named i = 0 → Completes (.instDestroy actor i 0 us) s (Taken 3)) ∧
          (s.named i ≠ 0 → Completes (.instDestroy actor i 0 us) s (fun t => Ended 3 0x11 t ∧ t.inst = s.inst))))) ∧
    (2 ≤ s.instState i → (s.instCmdOf i).squash = false → s.refsZero i = false → (s.instCmdOf i).deadline ≤ s.ns →
      NoWork s → s.sreqs = [] → s.wqx = [] → s.descs = [] → s.chRec = [] → Completes (.drainConvert i) s (fun t =>
        t.instCmdOf i = { s.instCmdOf i with squash := true } ∧ t.g (INST.CMD_STATUS.CONVERTED i) = 1 ∧
        (t.reg (UNIT.EVT.reg INST.base)).getLsbD 10 = true ∧ t.instState i = s.instState i)) ∧
    (2 ≤ s.instState i → s.refsZero i = true →
      (s.link (s.linkOf i)).held.any (fun p => p.inst == i) = false → Completes (.instCmdDone i) s (fun t =>
        t.instState i = (if s.instState i = 2 then 1 else 0) ∧ (s.instState i ≠ 2 → t.instRec i = 0) ∧
        t.instCmdOf i = InstCmd.none ∧ t.g (INST.CMD_STATUS.STATE i) = 2 ∧ t.g (INST.CMD_STATUS.STATUS i) = 0 ∧
        (t.reg (INST.DONE.reg (i / 64))).getLsbD (i % 64) = true ∧ (t.reg (UNIT.EVT.reg INST.base)).getLsbD 8 = true))

/-- Doorbells (R165, R166) of an instance on a link without a seal, FABRIC in RUN, no write waiting and no WQ waiting for the CR: a producer index in
range becomes PROD; one out of range puts the WQ in ERROR; one to a WQ that is not running is dropped and counted. A consumer index in range becomes
CONS; another is dropped and counted. -/
def Obligations.RingDoorbells : Prop :=
  ∀ (s : State) (i k p : Nat) (v : Word), i < 2048 → s.instLive i = true → s.instSealed i = false →
    s.domState 1 = 0 → s.dbWait = [] → s.xfer = [] →
    let w := s.ri i IR.wqBase + k
    let c := s.wqCr w
    let r := s.wqg w WQ.retire
    let runs := s.instState i = 1 ∧ (s.wqState w = 1 ∨ s.wqState w = 2)
    let inRange := sub32 (s.wqg w WQ.prod) r ≤ sub32 p r ∧ sub32 p r ≤ 2 ^ s.wqg w WQ.log2
    let d := s.ri i IR.crBase + k
    let cons := s.crg d CR.cons
    let n := getF v 31 0
    (k < s.ri i IR.nwq → k < 4096 → p < 2 ^ 32 →
      (runs → inRange → (s.cra c).waiters = [] → s.crFree c ≠ 0 →
        Gives (.wqDoorbell i k p) s { s.wqp w WQ.prod p with dbN := s.dbN + 1 }) ∧
      (runs → ¬ inRange → s.crg c CR.intMode = 0 → Completes (.wqDoorbell i k p) s (fun t => t.wqState w = 6 ∧
        t.wqg w WQ.reason = 1 ∧ t.wqg w WQ.errIndex = r ∧ t.wqg w WQ.errProd = p ∧ t.wqg w WQ.prod = s.wqg w WQ.prod ∧
        t.g RING.ERR_LOG.WQ = w % 2 ^ 17 ∧ (t.reg (UNIT.EVT.reg RING.base)).getLsbD 8 = true)) ∧
      (¬ runs → Completes (.wqDoorbell i k p) s (fun t => t.wqState w = s.wqState w ∧
        t.wqg w WQ.prod = s.wqg w WQ.prod ∧ t.ri i IR.droppedDb = min (s.ri i IR.droppedDb + 1) (2 ^ 32 - 1) ∧
        SameBut [] { s with wq := t.wq, inst := t.inst, dbN := t.dbN } t))) ∧
    (k < s.ri i IR.ncr → k < 2048 → v.getLsbD 32 = false →
      (sub32 n cons ≤ sub32 (s.crg d CR.prod) cons → (s.cra d).waiters = [] → s.crFree d ≠ 0 →
        (∀ x ∈ s.boundWqs d, s.wqState x ≠ 4) → s.shadowDue d = false →
        Gives (.crDoorbell i k true false v) s { s.crp d CR.cons n with dbN := s.dbN + 1 }) ∧
      (sub32 (s.crg d CR.prod) cons < sub32 n cons → Completes (.crDoorbell i k true false v) s (fun t =>
        t.crg d CR.cons = cons ∧ t.crg d CR.droppedCdb = min (s.crg d CR.droppedCdb + 1) (2 ^ 32 - 1) ∧
        (t.reg (UNIT.EVT.reg RING.base)).getLsbD 9 = true)))

/-- The work of a WQ (R163, R168, R172, R176) without address translation, with free space in its CR and no WQ waiting for it: a fetch reserves a
completion slot for each entry it reads; a NET_RX entry that is well formed waits for its packet; the coalescing timer writes the producer shadow. It
rests on the model's choice of assumption 65. -/
def Obligations.RingWork : Prop :=
  ∀ (s : State) (w n c : Nat) (e : Ent), s.wqInst w < 2048 → s.instSealed (s.wqInst w) = false →
    let i := s.wqInst w
    let q := s.wqCr w
    let f := s.wqg w WQ.fetch
    let k := min (min (max n 1) (sub32 (s.wqg w WQ.prod) f)) (s.crFree q)
    (s.atsOn i = false → s.instActive i = true → s.wqg w WQ.state = 1 → s.ringTakes = true →
      (s.wqa w).granted = 0 → (s.cra q).waiters = [] → s.crFree q ≠ 0 → k ≠ 0 →
      s.jobs.any (fun x => match x.2.use with
        | .fetch y _ _ => y == w
        | _ => false) = false →
      Completes (.entryFetch w n) s (fun t => t.jobN = s.jobN + 1 ∧
        (∃ job, t.jobs.find? (fun x => x.1 == s.jobN) = some (s.jobN, job) ∧ job.use = .fetch w f k ∧ job.inst = i ∧
          job.buf.length = 64 * k) ∧
        t.crg q CR.reserved = (s.crg q CR.reserved + k) % 2 ^ 32 ∧ t.ri i IR.refRing = (s.ri i IR.refRing + k) % 2 ^ 32 ∧
        t.wqg w WQ.fetch = f)) ∧
    (s.wqg w WQ.type = 1 → s.nextEnt w = some e → rxEntReason e.raw = 0 → s.wqg w WQ.state = 1 → s.ringRuns = true →
      (s.cra q).waiters = [] → s.crFree q ≠ 0 → (∀ x ∈ s.boundWqs q, s.wqState x ≠ 4) → s.shadowDue q = false →
      Gives (.entryStart w) s (s.setEnt w { e with phase := 2 })) ∧
    (s.crInst c < 2048 → s.instSealed (s.crInst c) = false → s.crg c CR.coalNs ≠ 0 → (s.cra c).oldest ≠ 0 →
      s.crg c CR.prod ≠ s.crg c CR.shadowed → s.crg c CR.coalNs ≤ s.since ((s.cra c).oldest - 1) →
      s.crg c CR.intMode = 0 → s.bme (s.linkOf (s.crInst c)) = true → s.atsOn (s.crInst c) = false →
      (s.link (s.linkOf (s.crInst c))).held = [] → s.domState 3 = 0 → s.domState 4 = 0 →
      Completes (.coalTimer c) s (fun t => t.crg c CR.shadowed = s.crg c CR.prod ∧ (t.cra c).oldest = 0 ∧
        t.crg c CR.prod = s.crg c CR.prod ∧
        (s.link (s.linkOf (s.crInst c))).tx.length < (t.link (s.linkOf (s.crInst c))).tx.length))

/-- Ring commands (R179–R182): START of an idle, valid ring makes it ACTIVE (a WQ only while its CR is), STOP of an ACTIVE one with nothing left makes
it STOPPED, RESET of an idle or stopped one clears its indices; another state is BUSY. An instance's commands answer in ICMD. -/
def Obligations.RingCommands : Prop :=
  ∀ (s : State) (actor n i k : Nat), n < 2 ^ 17 →
    let Answers (st : Nat) (cr : Bool) (t : State) : Prop := t.g RING.CMD_STATUS.STATUS = st ∧
      t.g RING.CMD_STATUS.CR = b2n cr ∧ t.g RING.CMD_STATUS.NUMBER = n ∧ t.g RING.CMD_STATUS.ACTOR = actor
    let Only (t : State) : Prop := SameBut [RING.CMD_STATUS.reg] { s with wq := t.wq, cr := t.cr, wqx := t.wqx, crx := t.crx } t
    (MayWrite s actor RING.CMD.reg → isInst actor = false →
      (s.wqInst n < 2048 → s.instActive (s.wqInst n) = true →
        (s.wqState n = 0 → s.wqValid n = true → s.crState (s.wqCr n) = 1 → Completes (.ringStart actor false n) s (fun t =>
          Answers 0 false t ∧ t.wqState n = 1 ∧ Only t)) ∧
        (s.wqState n ≠ 0 → Completes (.ringStart actor false n) s (fun t => Answers 0x11 false t ∧ t.wq = s.wq ∧ Only t)) ∧
        (s.wqState n = 1 → (s.wqa n).ents = [] → s.wqg n WQ.retire = s.wqg n WQ.prod → s.wqg n WQ.fetch = s.wqg n WQ.prod →
          s.jobs = [] → Completes (.ringStop actor false n) s (fun t => Answers 0 false t ∧ t.wqState n = 5 ∧ Only t)) ∧
        (s.wqState n = 0 ∨ s.wqState n = 5 → Completes (.ringReset actor false n) s (fun t => Answers 0 false t ∧
          t.wqState n = 0 ∧ t.wqg n WQ.prod = 0 ∧ t.wqg n WQ.fetch = 0 ∧ t.wqg n WQ.retire = 0 ∧ Only t)) ∧
        (s.wqState n = 1 → Completes (.ringReset actor false n) s (fun t => Answers 0x11 false t ∧ t.wq = s.wq ∧ Only t))) ∧
      (s.crInst n < 2048 → s.instActive (s.crInst n) = true →
        (s.crState n = 0 → s.crValid n = true → Completes (.ringStart actor true n) s (fun t =>
          Answers 0 true t ∧ t.crState n = 1 ∧ Only t)) ∧
        (s.crState n = 1 → s.boundWqs n = [] → s.crg n CR.prod = s.crg n CR.shadowed →
          Completes (.ringStop actor true n) s (fun t => Answers 0 true t ∧ t.crState n = 5 ∧ Only t)) ∧
        (s.crState n = 0 ∨ s.crState n = 5 → s.boundWqs n = [] → Completes (.ringReset actor true n) s (fun t =>
          Answers 0 true t ∧ t.crState n = 0 ∧ t.crg n CR.prod = 0 ∧ t.crg n CR.cons = 0 ∧ Only t)))) ∧
    (i < 2048 → k < 4096 → actor = 0x100 + i → s.instLive i = true → s.instSealed i = false → s.domState 1 = 0 →
      s.dbWait = [] → s.xfer = [] → ∀ cr, ∀ x ∈ ([(.ringStart actor cr k, 1), (.ringStop actor cr k, 2),
          (.ringReset actor cr k, 3)] : List (Instr × Nat)),
        Completes x.1 s (fun t => tget 0 t.icmd i =
          if s.ri i (if cr then IR.ncr else IR.nwq) ≤ k then 2
          else ({ s with dbN := s.dbN + 1 }.ringOp x.2 cr (s.ri i (if cr then IR.crBase else IR.wqBase) + k)).1))

/-- Rule versions and ages (R207, R210–R212, R242): a commit of the next version makes it the newest with the staged parser configuration; one that is
not is refused with its reason and changes nothing else; the oldest version goes when no packet holds it and a newer one lives; a visit to a VALID
context, once in SCAN_MS, frees it where it is idle, or keeps it with its LAST, while no Hive takes the notice. -/
def Obligations.RuleVersions : Prop :=
  ∀ (s : State) (actor w i : Nat), actorOk actor = true → s.domDown 1 = false →
    let v := w % 256
    let evt := UNIT.EVT.reg CLASS.base
    let may := s.permits actor .class = true
    let free := s.claimAllows (UNIT.CLAIM.reg CLASS.base) actor = true
    let next := v = (s.seq + 1) % 256
    let full := s.seq - s.oldest = 3 ∨ s.cur CLASS.base = svcFailed
    let Says (st : Nat) (t : State) : Prop := t.g CLASS.COMMIT_STAT.STATUS = st ∧ t.g CLASS.COMMIT_STAT.VERSION = v ∧
      t.g CLASS.COMMIT_STAT.BY_TRIG = 0 ∧ t.g CLASS.COMMIT_STAT.ACTOR = actor
    let Refused (st : Nat) (t : State) : Prop := Says st t ∧ (t.reg evt).getLsbD 9 = true ∧
      SameBut [CLASS.COMMIT_STAT.reg, evt] { s with links := t.links } t
    (may → free → next → s.seq + 1 < 2 ^ 64 → ¬ full → Completes (.classCommit actor w) s (fun t => Says 0x00 t ∧
      t.seq = s.seq + 1 ∧ t.oldest = s.oldest ∧ t.g CLASS.COMMIT_NS.NS = s.ns % 2 ^ 64 ∧
      t.cfgOf (s.seq + 1) = s.pcfgStaged ∧ (∀ n, n ≠ s.seq + 1 → t.cfgOf n = s.cfgOf n) ∧
      t.g PARSE.CFG_STAT.STAGED = 0 ∧ (t.reg evt).getLsbD 8 = true ∧
      SameBut [CLASS.COMMIT_STAT.reg, CLASS.SEQ.reg, CLASS.COMMIT_NS.reg, PARSE.CFG_STAT.reg, evt]
        { s with links := t.links, pcfg := t.pcfg } t)) ∧
    (¬ may → Completes (.classCommit actor w) s (Refused 0x02)) ∧
    (may → ¬ free → Completes (.classCommit actor w) s (Refused 0x12)) ∧
    (may → free → ¬ next → Completes (.classCommit actor w) s (Refused 0x02)) ∧
    (may → free → next → full → Completes (.classCommit actor w) s (Refused 0x11)) ∧
    (s.oldest < s.seq → (∀ e ∈ s.descs, e.2.holds = true → e.2.ver ≠ s.oldest) → Completes .versionRetire s (fun t =>
      t.oldest = s.oldest + 1 ∧ (∀ n, n ≠ s.oldest → t.cfgOf n = s.cfgOf n) ∧ (t.reg evt).getLsbD 10 = true ∧
      SameBut [evt] { s with links := t.links, pcfg := t.pcfg, oldest := s.oldest + 1 } t)) ∧
    (s.seq ≤ s.oldest → Gives .versionRetire s s) ∧
    (let r := s.ctx i
     let fe := UNIT.EVT.reg FLOW.base
     let k := tget 0 s.ageClk i
     let visit := ctxState r = 1 ∧ (s.domUp 1 = true ∨ s.domState 1 = 8) ∧
       (k = 0 ∨ s.g FLOW.AGE.SCAN_MS * 1_000_000 ≤ s.since (k - 1))
     let seen := tset 0 s.ageClk i (s.edryn.clk + 1)
     let idle := rget r FC.idle ≠ 0 ∧ rget r FC.last ≤ s.ns ∧ rget r FC.idle * 1_000_000 ≤ s.ns - rget r FC.last
     (visit → idle → (∀ h, h < 12 → s.hiveIn h = false) →
       (∀ e ∈ s.steer, e.2 % 16 < 12 ∧ e.2 / 16 < 12) →
       (rget r FC.keep = 1 → Completes (.ageVisit i) s (fun t => t.ctx i = rput r FC.last s.ns ∧
         (∀ n, n ≠ i → t.ctx n = s.ctx n) ∧ t.g FLOW.PUNTS.PUNTS = min (s.g FLOW.PUNTS.PUNTS + 1) (2 ^ 32 - 1) ∧
         (t.reg fe).getLsbD 10 = true ∧ SameBut [FLOW.PUNTS.reg, fe] { s with links := t.links, flows := t.flows, ageClk := seen } t)) ∧
       (rget r FC.keep = 0 → Completes (.ageVisit i) s (fun t => ctxState (t.ctx i) = 0 ∧
         (∀ n, n ≠ i → t.ctx n = s.ctx n) ∧ t.g FLOW.AGE.AGED = min (s.g FLOW.AGE.AGED + 1) (2 ^ 32 - 1) ∧
         (rget r FC.owner < 2048 → t.ri (rget r FC.owner) IR.flowUsed = s.ri (rget r FC.owner) IR.flowUsed - 1) ∧
         (t.reg fe).getLsbD 10 = true ∧
         SameBut [FLOW.PUNTS.reg, FLOW.AGE.reg, fe] { s with links := t.links, flows := t.flows, inst := t.inst, ageClk := seen } t))) ∧
     (visit → ¬ idle → Gives (.ageVisit i) s { s with ageClk := seen }) ∧
     (¬ visit → Gives (.ageVisit i) s s))

/-- Admission and cells (R247, R248, R257, R258, R266): a packet of port source at the head of its queue, for one port, is admitted to the class queue
and charged where the limit lets it; a punt at the head goes to the queue of the Hive that R239 chooses, or waits for one; one that has waited 1 ms on
an instance whose whole limit it exceeds is reported; the NET_TX entry that waits for cells gets them and its frame is read. FABRIC and COMB run,
nothing timed is pending, and no frame that has been read waits for a descriptor. It rests on the model's choices of assumptions 80, 137 and 138. -/
def Obligations.AdmissionCells : Prop :=
  ∀ (s : State) (q d : Nat) (rest : List Nat) (c : CellWait) (e : Ent),
    let v := s.desc d
    let n := (s.pkt v.pkt).cells
    (tget [] s.admq q = d :: rest →
      (let a := 8 * v.dest + v.sub
       let k := classKey a
       v.dk = 2 → v.dest < 8 → v.sub < 8 → v.psrc ≠ 8 → v.ipid = false → v.ready = true → v.reason = 0 →
       (s.pkt v.pkt).hive = none → (s.pkt v.pkt).work = none →
       s.inService COMB.base = true → s.inService SCHED.base = true → s.domState 1 = 0 → s.domState 2 = 0 →
       NoHold s (xferPkt d) → s.g BEELINE.PENDING.COUNT = 0 →
       (∀ x ∈ [1, 2, 5, 6, 7, 8], bit (s.g (PWR.DOM_STAT.HOLDS x)) 1 = false) → (∀ x ∈ s.descs, x.2.launch = none) →
       1 ≤ s.descFree → tblWf (fun _ => []) s.admq = true → s.ag a PA.egr + n ≤ s.ag a PA.egrLimit → s.ag a PA.egr + n ≤ s.ag a PA.ecnMin →
       Completes (.admission q) s (fun t =>
         t.desc d = { v with place := .queue k, admNs := s.ns, waitClk := 0, holds := false } ∧
         (t.nr k).q = (s.nr k).q ++ [d] ∧ (∀ x, x ≠ k → (t.nr x).q = (s.nr x).q) ∧
         (∀ x, tget [] t.admq x = (tget [] s.admq x).filter (fun x => x != d)) ∧
         t.ag a PA.egr = s.ag a PA.egr + n ∧ (∀ x, x ≠ a → t.acct x = s.acct x) ∧
         (t.pkt v.pkt).dests = (s.pkt v.pkt).dests ++ [4096 + a] ∧
         Same { s with descs := t.descs, noder := t.noder, admq := t.admq, accts := t.accts, pkts := t.pkts,
                       lfsr := lfsrStep s.lfsr } t)) ∧
      (v.reason ≠ 0 → v.dk = 0 ∨ v.dk = 3 → v.psrc ≠ 8 → v.ready = true → (s.pkt v.pkt).hive = none →
       s.inService COMB.base = true → s.inService SCHED.base = true → s.domState 1 = 0 → s.domState 2 = 0 →
       NoHold s (xferPkt d) → s.g BEELINE.PENDING.COUNT = 0 →
       (∀ x ∈ [1, 2, 5, 6, 7, 8], bit (s.g (PWR.DOM_STAT.HOLDS x)) 1 = false) → (∀ x ∈ s.descs, x.2.launch = none) →
       1 ≤ s.descFree → tblWf (fun _ => []) s.admq = true →
       let chosen := s.puntHive v.hash (if v.dk = 3 then some v.dest else none)
       let Left (t : State) : Prop := (∀ x, tget [] t.admq x = (tget [] s.admq x).filter (fun x => x != d)) ∧
         (∀ x, x ≠ d → t.desc x = s.desc x)
       (∀ h, chosen = some h → Completes (.admission q) s (fun t => Left t ∧
         t.desc d = { v with place := .queue (classKey (8 * (12 + h))), admNs := s.ns } ∧
         (t.nr (classKey (8 * (12 + h)))).q = (s.nr (classKey (8 * (12 + h)))).q ++ [d] ∧
         (∀ x, x ≠ classKey (8 * (12 + h)) → (t.nr x).q = (s.nr x).q) ∧
         Same { s with descs := t.descs, noder := t.noder, admq := t.admq } t)) ∧
       (chosen = none → Completes (.admission q) s (fun t => Left t ∧
         t.desc d = { v with place := .noHive, admNs := s.ns } ∧
         Same { s with descs := t.descs, noHive := s.noHive ++ [d], admq := t.admq } t))) ∧
      (v.dk = 1 → s.instLive v.dest = true → s.instSealed v.dest = false →
       (tget InstCmd.none s.instCmd v.dest).squash = false → v.sub < s.ri v.dest IR.nwq →
       s.wqg (s.ri v.dest IR.wqBase + v.sub) WQ.type = 1 → s.ri v.dest IR.combLimit < n → v.ready = true → v.reason = 0 →
       v.waitClk ≠ 0 → v.stuck = false → v.waitClk + 1_500_000 ≤ s.edryn.clk + 1 →
       Completes (.stuckDetect q) s (fun t => t.g COMB.STUCK.INSTANCE = v.dest ∧ t.g COMB.STUCK.CELLS = n % 128 ∧
         (t.reg (UNIT.EVT.reg COMB.base)).getLsbD 10 = true ∧ t.desc d = { v with stuck := true } ∧
         (∀ x, x ≠ d → t.desc x = s.desc x) ∧
         SameBut [COMB.STUCK.reg, UNIT.EVT.reg COMB.base] { s with links := t.links, descs := t.descs } t))) ∧
    (let i := s.wqInst c.wq
     s.cellWait = [c] → c.timed = false → s.ent c.wq c.index = some e → i < 2048 →
     s.wqg c.wq WQ.state = 1 ∨ s.wqg c.wq WQ.state = 2 → s.instSealed i = false →
     s.ri i IR.refComb + c.cells ≤ s.ri i IR.combLimit → c.cells ≤ s.poolFree →
     (∀ x ∈ s.pkts, x.2.refs = 0 → x.2.bytes = []) →
     Completes .cellReserveGrant s (fun t => t.cellWait = [] ∧ t.poolUsed = s.poolUsed + c.cells ∧
       t.ri i IR.refComb = s.ri i IR.refComb + c.cells ∧
       t.pkt (s.serial + 1) = { Pkt.none with
         cells := c.cells, sender := some i,
         work := some ⟨c.wq, c.index, s.ri i IR.leafBase + rget e.raw TX.leaf, 0, false, rget e.raw TX.csum, false⟩ } ∧
       t.ent c.wq c.index = some { e with phase := 3, data := s.serial + 1 } ∧ t.jobN = s.jobN + 1 ∧
       t.hasJob (.data c.wq c.index) = true ∧ t.descs = s.descs ∧ t.wq = s.wq ∧ t.cr = s.cr)) ∧
    (s.cellWait = [] → (∀ x ∈ s.pkts, x.2.refs = 0 → x.2.bytes = []) → Gives .cellReserveGrant s s)

/-- The scheduler (R262, R266, R268, R270): an egress whose one queued packet stands in a class queue sends it: a port starts the frame at its
reference time, a Hive takes it into its intake and holds it; a refill gives a node the tokens of the rates in effect since the last one, up to its
sizes. No node but the class queues is configured, and no packet is timed. It rests on the model's choice of assumption 83. -/
def Obligations.SchedDispatch : Prop :=
  ∀ (s : State) (d c p kind n h : Nat),
    let v := s.desc d
    let up := s.inService SCHED.base = true ∧ s.domUp 1 = true ∧ s.domUp 2 = true
    let Alone (e : Nat) : Prop := s.nodes = [] ∧ c < 8 ∧ (s.nr (classKey (8 * e + c))).q = [d] ∧
      (∀ x ∈ s.noder, x.1 ≠ classKey (8 * e + c) → x.2.q = []) ∧ tblWf (fun _ => Node.reset) s.noder = true
    (up → p < 8 → Alone p → (∀ x ∈ s.portDoms p, s.domState x = 0) → NoHold s (xferPkt d) → s.portUp p = true →
      s.onWire p = [] → s.g (PORT.LOOPBACK.MODE p) = 0 → s.isPaused p v.sub = false →
      s.beeline = [] → v.launch = none → v.ipid = false → v.src < 8 → v.by9 = false →
      Completes (.dispatch p) s (fun t =>
        t.desc d = { v with place := .wire p, egress := s.egressTime p, onAt := s.edryn.time } ∧ (∀ x, x ≠ d → t.desc x = s.desc x) ∧
        (∀ x, (t.nr x).q = []) ∧
        t.out = s.out ++ [.frame p (padFrame v.bytes) (s.egressTime p / 65536) (s.poison.contains (3, v.pkt))] ∧
        Same { s with noder := t.noder, groupV := t.groupV, descs := t.descs, out := t.out } t)) ∧
    (up → h < 12 → Alone (12 + h) → s.domState (14 + h) = 0 → NoHold s (xferPkt d) → s.hiveIn h = true →
      s.intakeRoom h = true → v.launch = none → Completes (.dispatch (12 + h)) s (fun t =>
        t.desc d = { v with place := .held h } ∧ (∀ x, x ≠ d → t.desc x = s.desc x) ∧ (∀ x, (t.nr x).q = []) ∧
        t.g (HIVE.INTAKE_IDX.PROD h) = (s.g (HIVE.INTAKE_IDX.PROD h) + 1) % 2 ^ 32 ∧
        (t.hv h).held = (s.hv h).held ++ [v.handle] ∧
        (v.inst < 2048 → t.ri v.inst IR.refHive = (s.ri v.inst IR.refHive + 1) % 2 ^ 32) ∧ t.hbm = s.hbm)) ∧
    (let k := kind * 0x1_0000 + n
     let dt := s.edryn.clk - (s.nr k).clk
     let Filled (tok : Int) (rate size : Nat) : Int :=
       min (size * 65536 : Nat) (tok + (rate * dt * 2 * 65536 / 24_000_000 : Nat))
     1 ≤ kind → kind ≤ 3 → n < nodeLimit kind → s.nodeOn k = true → Completes (.shaperRefill kind n) s (fun t =>
       (t.nr k).ctok = Filled (s.nr k).ctok (s.nr k).cir (s.nd k NR.cbs) ∧
       ((s.nr k).pir ≠ 0 → (t.nr k).ptok = Filled (s.nr k).ptok (s.nr k).pir (s.nd k NR.pbs)) ∧
       ((s.nr k).pir = 0 → (t.nr k).ptok = (s.nr k).ptok) ∧ (t.nr k).clk = s.edryn.clk ∧
       (∀ x, (t.nr x).q = (s.nr x).q) ∧
       ((∀ x ∈ s.noder, x.2.q = []) → ∀ x, x ≠ k → (t.nr x).ctok = (s.nr x).ctok ∧ (t.nr x).ptok = (s.nr x).ptok) ∧
       Same { s with noder := t.noder } t))

/-- Beeline (R275–R281): preemptible traffic is held from HOLD_NS before a launch; the one packet that is due on a free port starts at its slot with
nothing late; a due copy for a Hive goes on to it. The slot of a launch time is (LAUNCH_NS + 4) div 8. -/
def Obligations.BeelineLaunches : Prop :=
  ∀ (s : State) (p d l h : Nat),
    let v := s.desc d
    let at_ := 8 * ((l + 4) / 8)
    v.launch = some l →
    (p < 8 → d ∈ s.beeline → v.dk = 2 → v.dest = p → s.gb (PORT.PREEMPT.ACTIVE p) = true →
      s.blockedOn d p = false → at_ ≤ s.ns + holdNs (s.portRate p) →
      Gives (.beelineHold p) s { s with blHold := tset false s.blHold p true }) ∧
    (s.beeline = [d] → p < 8 → v.dk = 2 → v.dest = p → v.late = 0 → at_ ≤ s.ns → s.edryn.time ≤ (l + 4) * 65536 → s.portUp p = true →
      s.g (PORT.LOOPBACK.MODE p) = 0 → bit (s.g (PORT.STAT.PAUSED p)) (v.sub % 8) = false → s.onWire p = [] →
      v.ipid = false → (v.src < 8 ∧ v.by9 = false) →
      Completes (.beelineLaunch p) s (fun t => t.beeline = [] ∧ tget false t.blHold p = false ∧
        t.desc d = { v with place := .wire p, egress := s.egressTime p, onAt := s.edryn.time, late := 0 } ∧ (∀ x, x ≠ d → t.desc x = s.desc x) ∧
        t.out = s.out ++ [.frame p (padFrame v.bytes) (s.egressTime p / 65536) (s.poison.contains (3, v.pkt))])) ∧
    (s.beeline = [d] → v.dk = 3 → v.dest = h → h < 12 → at_ ≤ s.ns → s.hiveIn h = true →
      Completes (.beelineLaunch 8) s (fun t => t.beeline = [] ∧
        t.desc d = { v with launch := none, place := .queue (classKey (8 * (12 + h))) } ∧
        (t.nr (classKey (8 * (12 + h)))).q = (s.nr (classKey (8 * (12 + h)))).q ++ [d])) ∧
    (s.beeline = [] → Gives (.beelineLaunch p) s s)

/-- Mode programs (R289, R290): VERIFY hands a staged image to the Keeper, whose result is written when its check is over (nothing staged is no
image); ROLL after OK reloads the sequencers in ascending order while none has operations of its own left, and ends with the image's version; DISCARD
drops the image; VERIFY and ROLL are ignored with ERROR in the cases of R290. It rests on the model's choice of assumption 89. -/
def Obligations.ScarabPrograms : Prop :=
  ∀ (s : State) (actor : Nat),
    let evt := UNIT.EVT.reg SCARAB.base
    let q := s.g SCARAB.PROG_STAT.SEQ
    let rolling := s.gb SCARAB.PROG_STAT.ROLLING
    let Ignored (t : State) : Prop := (t.reg evt).getLsbD 6 = true ∧ SameBut [evt] { s with links := t.links } t
    (MayWrite s actor SCARAB.PROG_CTL.reg →
      (bit (s.chitin 6) 1 = true → rolling = false → Gives (.progVerify actor) s { s with progBusy := true }) ∧
      (bit (s.chitin 6) 1 = false ∨ rolling = true → Completes (.progVerify actor) s Ignored) ∧
      (bit (s.chitin 6) 1 = true → rolling = false → s.g SCARAB.PROG_STAT.RESULT = 1 →
        Completes (.progRoll actor) s (fun t => t.gb SCARAB.PROG_STAT.ROLLING = true ∧ t.g SCARAB.PROG_STAT.SEQ = 0 ∧
          t.g SCARAB.PROG_STAT.RESULT = 1 ∧ SameBut [SCARAB.PROG_STAT.reg] s t)) ∧
      (bit (s.chitin 6) 1 = false ∨ rolling = true ∨ s.g SCARAB.PROG_STAT.RESULT ≠ 1 →
        Completes (.progRoll actor) s Ignored) ∧
      Completes (.progDiscard actor) s (fun t => t.g SCARAB.PROG_STAT.RESULT = 0 ∧ t.gb SCARAB.PROG_STAT.ROLLING = rolling ∧
        SameBut [SCARAB.PROG_STAT.reg] { s with progStage := [], progBusy := false } t)) ∧
    (s.progBusy = true → Completes .progVerifyDone s (fun t => t.progBusy = false ∧
      (s.progStage = [] → t.g SCARAB.PROG_STAT.RESULT = 5) ∧
      (t.g SCARAB.PROG_STAT.RESULT = 1 → ∀ e ∈ s.slots, rget e.2 KS.state ≠ 0 → rget e.2 KS.mode < 16 →
        bit t.modesStaged (rget e.2 KS.mode) = true) ∧
      1 ≤ t.g SCARAB.PROG_STAT.RESULT ∧ t.g SCARAB.PROG_STAT.RESULT ≤ 5 ∧
      SameBut [SCARAB.PROG_STAT.reg] { s with progBusy := false, modesStaged := t.modesStaged, free := s.free + 1 } t)) ∧
    (s.progBusy = false → Gives .progVerifyDone s s) ∧
    (rolling = true → s.sops = [] → q < 19 → Gives .sequencerReloadDone s (s.p SCARAB.PROG_STAT.SEQ (q + 1))) ∧
    (rolling = true → s.sops = [] → q = 19 → Completes .sequencerReloadDone s (fun t =>
      t.gb SCARAB.PROG_STAT.ROLLING = false ∧ t.g SCARAB.PROG_STAT.ACTIVE_VER = s.g SCARAB.PROG_STAT.STAGED_VER ∧
      t.modes = s.modesStaged ∧ (t.reg evt).getLsbD 13 = true ∧
      SameBut [SCARAB.PROG_STAT.reg, evt, UNIT.EVT.reg KEEPER.base]
        { s with links := t.links, modes := t.modes, trust := t.trust } t)) ∧
    (rolling = true → (∃ e ∈ s.sops, e.2.seq = some q) → Gives .sequencerReloadDone s s)

/-- Key slots, masks, pairs and the alarm (R287, R294, R295, R301, R302, R309): an erase takes a slot's material and its pending generation and ends
its operations; a switch makes the pending generation current; a mask generator takes a new seed 1 ms after its last; a FAULTED pair returns; a tamper
condition destroys every key; a TLS_SYNC writes the flow's TLS state and its record number, which may exhaust a slot of ENC and DEC use, or completes
MALFORMED and changes neither. It rests on the model's choice of assumption 91. -/
def Obligations.ScarabSlots : Prop :=
  ∀ (s : State) (actor n pair mask cause i : Nat) (v : Word) (r : BitVec 1024),
    let evt := UNIT.EVT.reg SCARAB.base
    let Others (t : State) : Prop := ∀ k, k ≠ n → t.slotRec k = s.slotRec k
    (MayWrite s actor SCARAB.SLOT_CTL.reg → n = s.g SCARAB.SLOT_SEL.SLOT →
      (s.slotState n = 1 ∨ s.slotState n = 2 → Completes (.slotErase actor) s (fun t =>
        t.slotState n = 3 ∧ t.kg n KS.key1 = 0 ∧ t.kg n KS.key2 = 0 ∧ t.kg n KS.gen = s.kg n KS.gen ∧ Others t ∧
        t.hasPend n = false ∧
        t.sops = s.sops.map (fun e => if e.2.slot = n ∧ e.2.fail = 0 then (e.1, { e.2 with fail := 0x06 }) else e) ∧
        Same { s with slots := t.slots, slotPend := t.slotPend, sops := t.sops } t)) ∧
      (s.slotState n = 0 ∨ s.slotState n = 3 → Gives (.slotErase actor) s s) ∧
      (s.slotPend.find? (fun e => e.1 == n) = some (n, r) → s.drainFull n = false → s.slotState n ≠ 0 →
        Completes (.slotSwitch actor) s (fun t => t.kg n KS.gen = (s.kg n KS.gen + 1) % 2 ^ 32 ∧ t.slotState n = 1 ∧
          t.kg n KS.key1 = rget r KS.key1 ∧ t.kg n KS.key2 = rget r KS.key2 ∧ t.kg n KS.count = rget r KS.count ∧
          t.hasPend n = false ∧ Others t ∧ (t.reg evt).getLsbD 15 = true ∧
          SameBut [evt] { s with links := t.links, slots := t.slots, slotPend := t.slotPend } t)) ∧
      (s.hasPend n = false ∨ s.drainFull n = true → Gives (.slotSwitch actor) s s)) ∧
    (let at_ := tget 0 s.maskClk pair
     pair < 20 → s.alarmed = false → s.domUp 9 = true →
      (at_ = 0 ∨ 1_000_000 ≤ s.since (at_ - 1) → Completes (.maskReseed pair) s (fun t =>
        tget 0 t.maskClk pair = s.edryn.clk + 1 ∧ tget 0 t.maskBlk pair = 0 ∧
        (∀ k, k ≠ pair → tget 0 t.maskSeed k = tget 0 s.maskSeed k ∧ tget 0 t.maskClk k = tget 0 s.maskClk k ∧
          tget 0 t.maskBlk k = tget 0 s.maskBlk k) ∧
        Same { s with maskSeed := t.maskSeed, maskClk := t.maskClk, maskBlk := t.maskBlk, free := s.free + 1 } t)) ∧
      (at_ ≠ 0 → s.since (at_ - 1) < 1_000_000 → Gives (.maskReseed pair) s s)) ∧
    (MayWrite s actor SCARAB.PAIR_FAULT.reg → Completes (.pairFaultClear actor mask) s (fun t =>
      (∀ k, k < 20 → (t.reg SCARAB.PAIR_FAULT.reg).getLsbD k =
        ((s.reg SCARAB.PAIR_FAULT.reg).getLsbD k && !mask.testBit k)) ∧ SameBut [SCARAB.PAIR_FAULT.reg] s t)) ∧
    (2 ≤ cause → cause ≤ 5 → Completes (.scarabAlarm cause) s (fun t => t.alarmed = true ∧ t.kek = [] ∧
      t.slotPend = [] ∧ t.maskSeed = [] ∧ t.slots.map Prod.fst = s.slots.map Prod.fst ∧
      (∀ e ∈ t.slots, rget e.2 KS.state = 3 ∧ rget e.2 KS.key1 = 0 ∧ rget e.2 KS.key2 = 0) ∧
      t.sops.map Prod.fst = s.sops.map Prod.fst ∧ (∀ e ∈ t.sops, e.2.fail = 0x06) ∧
      t.g SCARAB.STATE.CAUSE = cause ∧ t.g SCARAB.ALARM_NS.NS = s.ns % 2 ^ 64 ∧
      t.g SCARAB.STATE.ALARMS = min (s.g SCARAB.STATE.ALARMS + 1) 65535 ∧
      (t.reg evt).getLsbD 8 = true ∧ t.pins.alertN = false ∧ t.cur SCARAB.base = s.cur SCARAB.base)) ∧
    (MayWrite s actor SCARAB.TLS_SYNC_A.reg → i = getF v 21 0 → n = getF v 43 24 →
      let tx := v.getLsbD 44
      let l := getF v 48 45
      let named := ctxState (s.ctx i) = 1 ∧ s.namesTls i n tx = true ∧ (tx = true → 9 ≤ l ∧ l ≤ 14)
      v.getLsbD 63 = true →
      (s.slotActor actor = true → named → s.sops = [] → Completes (.tlsSync actor v) s (fun t =>
        rget (t.ctx i) FC.tls = s.g SCARAB.TLS_SYNC_B.SEQ + l * 2 ^ 32 + 2 ^ 63 ∧
        t.kg n (if tx then KS.tlsBase else KS.count) = s.g SCARAB.TLS_SYNC_C.RECORD ∧
        t.g SCARAB.TLS_SYNC_B.STATUS = 0 ∧ Others t ∧ (∀ k, k ≠ i → t.ctx k = s.ctx k) ∧
        (tx = true ∨ s.kg n KS.enc = 0 → t.slotState n = s.slotState n ∧
          SameBut [SCARAB.TLS_SYNC_A.reg, SCARAB.TLS_SYNC_B.reg] { s with flows := t.flows, slots := t.slots } t) ∧
        (tx = false → s.kg n KS.enc = 1 → s.kg n KS.hard ≤ s.g SCARAB.TLS_SYNC_C.RECORD → s.slotState n = 1 →
          t.slotState n = 2 ∧ (t.reg evt).getLsbD 11 = true) ∧
        SameBut [SCARAB.TLS_SYNC_A.reg, SCARAB.TLS_SYNC_B.reg, SCARAB.LIMIT_LOG.reg, evt]
          { s with flows := t.flows, slots := t.slots, softSeen := t.softSeen, links := t.links } t)) ∧
      (s.slotActor actor = true → ¬ named → Completes (.tlsSync actor v) s (fun t => t.g SCARAB.TLS_SYNC_B.STATUS = 0x02 ∧
        SameBut [SCARAB.TLS_SYNC_A.reg, SCARAB.TLS_SYNC_B.reg] s t)) ∧
      (s.slotActor actor = false → Completes (.tlsSync actor v) s (fun t => t.g SCARAB.TLS_SYNC_B.STATUS = 0x02 ∧
        (t.reg evt).getLsbD 6 = true ∧
        SameBut [SCARAB.TLS_SYNC_A.reg, SCARAB.TLS_SYNC_B.reg, evt] { s with links := t.links } t)))

/-- Scarab's operations (R288, R295, R303–R308): a call of a thread that may not ask is MALFORMED, else its operation starts on a free sequencer and
the thread waits; a CMAC verification tells the thread or the CRYPTO entry whether its tag is right; an inline session whose key is erased discards
its packet, and one that has nothing to open lets it go on to its admission, at its place in its queue. The operation is the only one, and a pair is
left for its blocks. It rests on the model's choices of assumptions 85 and 93. -/
def Obligations.ScarabOps : Prop :=
  ∀ (s : State) (th rd rs1 rs2 k d w x : Nat) (o : SOp),
    let a := (s.qr th rs1).toNat
    let b := (s.qr th rs2).toNat
    (Issues s th → UnitTakes s th SCARAB.base 9 → a % 64 = 0 → b % 64 = 0 → OwnRange s th a 64 → OwnRange s th b 64 →
      (s.secThread th = false → Gives (.accScarab th rd rs1 rs2) s (Waits s th rd 2 true 0)) ∧
      (let r : BitVec 512 := packBytes 512 (s.hsRead (th / 64) a 64)
       s.callOk th r = true → s.sops = [] → s.gb SCARAB.PROG_STAT.ROLLING = false → (9, xferOp (s.opN + 1)) ∉ s.xfer →
       Completes (.accScarab th rd rs1 rs2) s (fun t => (∃ p, t.sops = [(s.opN + 1, p)] ∧ p.use = .call th ∧
           p.seq = some 0 ∧ p.slot = (if rget r EN.opcode = 5 then 2 ^ 20 else rget r CE.slot)) ∧
         (t.th th).state = thWait ∧ (t.th th).wait = some ⟨rd, 0, false, s.opN + 2, none⟩ ∧
         t.store = s.store ∧ t.hbm = s.hbm))) ∧
    (s.sops = [(k, o)] → o.seq ≠ none → s.opWaits o = false → (9, xferOp k) ∉ s.xfer →
      let Verified (raw : BitVec 512) (data : Bytes) : Nat :=
        if (Aes.cmac (matRound o.mat) (data.take (rget raw CE.len))).take (rget raw CE.tagLen) =
          data.drop (rget raw CE.len) then 0 else 4
      let Verifies (raw : BitVec 512) : Prop := o.fail = 0 ∧ rget o.mat KS.mode = 5 ∧ rget raw EN.opcode = 4 ∧
        rget raw CE.aadLen = 0
      (let raw : BitVec 512 := packBytes 512 (o.req.take 64)
       ∀ u, o.use = .call th → Verifies raw → (s.th th).wait = some ⟨rd, u, false, k + 1, none⟩ →
        Completes (.scarabOpDone k) s (fun t => t.sops = [] ∧
          (t.th th).wait = some ⟨rd, BitVec.ofNat 64 (Verified raw (o.req.drop 72)), true, k + 1, none⟩)) ∧
      (o.use = .entry w x → ∀ e, s.ent w x = some e → Verifies e.raw → tblWf (fun _ => 0) s.inst = true → s.instSealed (s.wqInst w) = false →
        Completes (.scarabOpDone k) s (fun t => t.sops = [] ∧
          t.crg (s.wqCr w) CR.prod = (s.crg (s.wqCr w) CR.prod + 1) % 2 ^ 32)) ∧
      (let v := s.desc d
       let se := leAt o.req 0 8
       o.use = .inline d → seEnc se = false →
       (o.fail = 0x06 → (s.pkt v.pkt).work = none → Completes (.inlineSessionDone k) s (fun t => t.sops = [] ∧
          t.descs = tdel s.descs d ∧
          t.g SCARAB.INLINE_FAIL1.KEY = min (s.g SCARAB.INLINE_FAIL1.KEY + 1) (2 ^ 32 - 1) ∧
          (t.reg (UNIT.EVT.reg SCARAB.base)).getLsbD 12 = true)) ∧
       (o.fail = 0 → seProto se = 2 → rget o.mat KS.use = 3 → rget o.mat KS.dec = 1 → v.tcpPayload ≠ none →
          rget (s.tlsOf d o) TL.sync = 0 → v.decrypted = false → v.words = [] → v.dk = 2 → v.ipid = false →
          s.storFlow v.flowIdx = false → ∀ q, s.admOf d = some q → Completes (.inlineSessionDone k) s (fun t => t.sops = [] ∧
            (t.desc d).op = none ∧ (t.desc d).bytes = v.bytes ∧ (t.desc d).place = .adm q ∧ t.admq = s.admq ∧
            t.g SCARAB.INLINE_FAIL1.KEY = s.g SCARAB.INLINE_FAIL1.KEY ∧
            t.g SCARAB.INLINE_FAIL1.FORMAT = s.g SCARAB.INLINE_FAIL1.FORMAT))))

/-- Storage (R315–R317, R319–R321, R325): the one part of a request is issued with the lowest CID of its connection, or fails where its extent is a
HOLE; a response ends its part; an unanswered command fails its part and its connection; TCP sends again at its retransmission timeout; a fence marks
what has not ended and is done when nothing is marked. Windows are closed for the new capsule, and frames that leave wait for FABRIC. It rests on the
model's choices of assumptions 94 and 95. -/
def Obligations.StorageParts : Prop :=
  ∀ (s : State) (actor r k c d o u : Nat) (q : SReq) (v : Word),
    let evt := UNIT.EVT.reg STOR.base
    let p := s.part k
    let x := s.cx c
    let up := s.inService STOR.base = true ∧ s.domUp 10 = true
    let fail := STOR.PART_FAIL.CAUSE
    let Waits2 (t : State) : Prop := ∃ j, j ∈ q.parts ∧ j ≠ k ∧ (t.part j).phase ≠ 7
    (up → s.sreqs = [(r, q)] → q.parts = [k] → p.phase = 0 →
      (p.cmd = 0 → p.ext = 1 → p.conn = c → c < 4096 → s.cng c CN.state = 1 → s.cng c CN.transport = 1 →
        1 ≤ s.cng c CN.qdepth → s.connParts c = [] → p.req = r → q.squash = false → x.wnd = 0 →
        s.hdg c = false → tblWf (fun _ => SPart.none) s.sparts = true →
        Completes (.partIssue r) s (fun t => (t.part k).phase = 5 ∧ (t.part k).cid = 0 ∧ (t.part k).clk = s.edryn.clk ∧
          t.cng c CN.outstanding = 1 ∧ (∀ j, j ≠ k → t.part j = s.part j) ∧
          (∃ cap, t.cx c = { x with out := x.out ++ cap } ∧ cap.length = 72 ∧ byteAt cap 0 = 0x04 ∧ leAt cap 4 4 = 72 ∧
            byteAt cap 8 = 2 ∧ leAt cap 10 2 = 0 ∧ leAt cap 12 4 = p.rnsid % 2 ^ 32 ∧ leAt cap 48 8 = p.rlba % 2 ^ 64) ∧
          Same { s with sparts := t.sparts, connRec := t.connRec, connx := t.connx } t)) ∧
      (p.cmd = 1 → p.ext = 0 → p.req = r → Completes (.partIssue r) s (fun t => t.sreqs = [] ∧ t.g fail = 4 ∧
        t.g STOR.PART_FAIL.COUNT = min (s.g STOR.PART_FAIL.COUNT + 1) (2 ^ 32 - 1) ∧ (t.reg evt).getLsbD 8 = true))) ∧
    (let b := slice (s.desc d).bytes (o + 12)
       (u + beAt (s.desc d).bytes (u + 4) 2 - 4 - bits (byteAt (s.desc d).bytes (o + 1)) 5 4 - (o + 12))
     s.domUp 10 = true → s.domState 1 = 9 → s.storIn = [d] → s.storConn d = some c → s.cng c CN.transport = 2 →
      (s.desc d).prec.hdrs.find? (fun e => e.1 == 0x16) = some (0x16, o) →
      (s.desc d).prec.hdrs.find? (fun e => e.1 == 0x0E) = some (0x0E, u) →
      byteAt (s.desc d).bytes o = 0x04 → beAt (s.desc d).bytes (o + 9) 3 = x.rcv → b.length = 16 →
      s.cidPart c (leAt b 12 2) = some k → leAt b 14 2 / 2 = 0 → p.cmd = 1 → s.sreqs = [(p.req, q)] → Waits2 s →
      (s.pkt (s.desc d).pkt).work = none → Completes (.remoteResponse c) s (fun t =>
        (t.part k).phase = 7 ∧ (t.part k).cause = 0 ∧ (t.part k).cid = 0xFFFF ∧ (∀ j, j ≠ k → t.part j = s.part j) ∧
        (t.cx c).rcv = (x.rcv + 1) % 2 ^ 24 ∧ t.cng c CN.cmds = satAdd 64 (s.cng c CN.cmds) 1 ∧ t.storIn = [] ∧
        t.sreqs = s.sreqs)) ∧
    (s.cng c CN.state = 1 → c < 4096 → s.connParts c = [k] → p.phase = 5 → p.cmd = 1 →
      p.clk + s.cng c CN.timeout * 1_500_000 ≤ s.edryn.clk → s.sreqs = [(p.req, q)] → Waits2 s →
      s.hiveIn (s.cng c CN.hive) = false → Completes (.remoteIoTimeout c) s (fun t =>
        (t.part k).phase = 7 ∧ (t.part k).cause = 3 ∧ (t.part k).status = 0x22 ∧ (∀ j, j ≠ k → t.part j = s.part j) ∧
        t.cng c CN.state = 2 ∧ t.cng c CN.cause = 3 ∧ t.cng c CN.outstanding = 0 ∧ t.cx c = Conn.reset ∧
        t.g fail = 3 ∧ t.g STOR.PART_FAIL.CONN = c ∧
        t.g STOR.TIMEOUTS.COUNT = min (s.g STOR.TIMEOUTS.COUNT + 1) (2 ^ 32 - 1) ∧
        (t.reg evt).getLsbD 8 = true ∧ (t.reg evt).getLsbD 9 = true ∧ (t.reg evt).getLsbD 11 = true)) ∧
    (let mss := s.cng c CN.mss
     let n := min mss (min x.out.length x.flight)
     let half := max (x.flight / 2) (2 * mss)
     let fl := (if (x.out.take n).isEmpty then 0x10 else 0x18) + (if x.ece then 0x40 else 0)
     let f := s.tcpFrame c x.una x.rcv (s.tcpWin c) fl x.tsRecent (x.out.take n)
     s.cng c CN.state = 1 → s.cng c CN.transport = 1 → x.timer ≠ 0 → x.timer ≤ s.edryn.clk → x.cwr = false →
      cellsOf f.length ≤ s.poolFree → s.descFree ≠ 0 → s.domState 1 = 9 → Completes (.tcpRto c) s (fun t =>
        t.cx c = { x with ssthresh := half, cwnd := mss, recover := x.nxt, fast := false, dup := 0, rto := 2 * x.rto,
                          timer := s.edryn.clk + 2 * x.rto * 1500, rttSeq := none } ∧
        (t.desc (s.serial + 2)).bytes = f ∧ (t.desc (s.serial + 2)).src = 9 ∧
        (t.desc (s.serial + 2)).flowIdx = s.cng c CN.txFlow ∧ t.pipeWait = s.pipeWait ++ [s.serial + 2] ∧
        t.sparts = s.sparts ∧ t.connRec = s.connRec)) ∧
    (MayWrite s actor STOR.MAP_FENCE.reg → v.getLsbD 0 = true → Completes (.mapFence actor v) s (fun t =>
      t.sparts = s.sparts.map (fun e => (e.1, { e.2 with marked := e.2.phase != 7 })) ∧
      ((∀ e ∈ s.sparts, e.2.phase = 7) → t.gb STOR.MAP_FENCE.DONE = true ∧ (t.reg evt).getLsbD 10 = true) ∧
      ((∃ e ∈ s.sparts, e.2.phase ≠ 7) → t.gb STOR.MAP_FENCE.DONE = false) ∧
      SameBut [STOR.MAP_FENCE.reg, evt] { s with links := t.links, sparts := t.sparts } t))

/-- Forager channels and groups (R328, R330, R332, R342): START, ABORT and RESET by channel state (0 IDLE, 1 RUNNING, 2 WAITING, 3 ABORTING, 4
STOPPED, 5 ERROR), the doorbell of a ring-fed channel, and a group's mode once nothing of it is in flight. Channels without a notification. -/
def Obligations.ForagerChannels : Prop :=
  ∀ (s : State) (actor c g k : Nat) (d : FDesc) (v : Word), c < 512 → actorOk actor = true →
    let evt := UNIT.EVT.reg FORAGER.base
    let ctl := FORAGER.CH_CTL.reg c
    let st := s.chg c FR.state
    let dn := s.chg c FR.doneI
    let w := getF v 31 0
    let mine := isPf actor = true ∨ isThread actor = true
    let Is (status state : Nat) (t : State) : Prop := t.g (FORAGER.CH_CTL.STATUS c) = status ∧ t.chg c FR.state = state
    let Others (t : State) : Prop := ∀ x, x ≠ c → t.chr x = s.chr x
    let Kept (t : State) : Prop := Is 0x11 st t ∧ SameBut [ctl] s t
    (mine → MayWrite s actor ctl →
      (st = 0 → s.chStartOk (s.chr c) = true → Completes (.foragerChStart actor c) s (fun t => Is 0 1 t ∧ Others t ∧
        t.g (FORAGER.CH_CTL.STATE c) = 1 ∧ SameBut [ctl] { s with chRec := t.chRec } t)) ∧
      (st = 0 → s.chStartOk (s.chr c) = false →
        Completes (.foragerChStart actor c) s (fun t => Is (s.chStartStatus (s.chr c)) 0 t ∧ SameBut [ctl] s t)) ∧
      (s.chRestOk (s.chr c) = true → s.chg c FR.feed = 0 → s.instState (s.chg c FR.owner) ∈ [2, 3] →
        s.chStartStatus (s.chr c) = 0x10) ∧
      (s.chRestOk (s.chr c) = false ∨ s.instState (s.chg c FR.owner) ∉ [1, 2, 3] → s.chStartOk (s.chr c) = false →
        s.chStartStatus (s.chr c) = 2) ∧
      (st ≠ 0 → Completes (.foragerChStart actor c) s Kept) ∧
      (st = 1 ∨ st = 2 → s.fdescs = [] → s.chg c FR.feed = 0 → Completes (.foragerChAbort actor c) s (fun t => Is 0 1 t ∧
        Others t ∧ (t.reg evt).getLsbD 9 = true ∧ SameBut [ctl, evt] { s with links := t.links, chRec := t.chRec } t)) ∧
      (st = 1 ∨ st = 2 → s.fdescs = [] → s.chg c FR.feed = 1 → s.chg c FR.notify = 0 →
        Completes (.foragerChAbort actor c) s (fun t => Is 0 4 t ∧ t.chg c FR.doneI = s.chg c FR.next ∧ Others t ∧
          (t.reg evt).getLsbD 9 = true ∧ SameBut [ctl, evt] { s with links := t.links, chRec := t.chRec } t)) ∧
      (st = 2 → s.fdescs = [(k, d)] → d.ch = c → d.phase = 1 → d.stop = 0 → Completes (.foragerChAbort actor c) s (fun t =>
        Is 0 3 t ∧ (t.fd k).phase = 4 ∧ (t.fd k).stop = 0x01 ∧ Others t ∧
        SameBut [ctl] { s with chRec := t.chRec, fdescs := t.fdescs } t)) ∧
      (st ≠ 1 → st ≠ 2 → Completes (.foragerChAbort actor c) s Kept) ∧
      (st = 0 ∨ st = 4 ∨ st = 5 → Completes (.foragerChReset actor c) s (fun t => Is 0 0 t ∧ t.chg c FR.prod = 0 ∧
        t.chg c FR.next = 0 ∧ t.chg c FR.doneI = 0 ∧ t.chg c FR.errIndex = 0 ∧ t.chg c FR.errReason = 0 ∧ t.chDescs c = [] ∧
        Others t ∧ SameBut [ctl] { s with chRec := t.chRec, fdescs := t.fdescs } t)) ∧
      (st = 1 ∨ st = 2 ∨ st = 3 → Completes (.foragerChReset actor c) s Kept)) ∧
    (mine → MayWrite s actor (FORAGER.CH_DB.reg c) →
      (st ≠ 0 → s.chg c FR.feed = 1 → sub32 (s.chg c FR.prod) dn ≤ sub32 w dn → sub32 w dn ≤ 2 ^ s.chg c FR.log2 →
        Gives (.foragerChDoorbell actor c v) s (s.chp c FR.prod w)) ∧
      (st ≠ 0 → st ≠ 5 → s.chg c FR.feed = 1 → sub32 w dn < sub32 (s.chg c FR.prod) dn ∨ 2 ^ s.chg c FR.log2 < sub32 w dn →
        s.chg c FR.notify = 0 → Completes (.foragerChDoorbell actor c v) s (fun t => t.chg c FR.state = 5 ∧
          t.chg c FR.errReason = 0x2F ∧ t.chg c FR.errIndex = dn ∧ t.chg c FR.prod = s.chg c FR.prod ∧ Others t ∧
          (t.reg evt).getLsbD 8 = true)) ∧
      (st = 0 ∨ s.chg c FR.feed = 0 → Gives (.foragerChDoorbell actor c v) s s)) ∧
    (¬ mine → ∀ i ∈ ([.foragerChStart actor c, .foragerChAbort actor c, .foragerChReset actor c,
        .foragerChDoorbell actor c v] : List Instr),
      Completes i s (fun t => (t.reg evt).getLsbD 6 = true ∧ SameBut [evt] { s with links := t.links } t)) ∧
    (g < 8 → s.groupLive g = [] → Gives (.groupModeSwitch g) s
      (s.p (FORAGER.GRP_CTL.MODE_NOW g) (s.g (FORAGER.GRP_CTL.INTERLEAVED g)))) ∧
    (g < 8 → s.groupLive g ≠ [] → Gives (.groupModeSwitch g) s s)

/-- Forager descriptors (R332, R334, R336–R340) of a ring in a Hive store, a FILL of one burst into HBM: the next descriptor of a RUNNING channel
starts where its checks pass and a group engine is free, and stops the channel in ERROR with its status written back where they fail; a waiting timed
one starts at its instant and not before; at its end the pattern is written, the status OK stands in its ring entry, and the channel counts it. It
rests on the model's choice of assumption 100. -/
def Obligations.ForagerDescriptors : Prop :=
  ∀ (s : State) (c k : Nat) (d : FDesc), s.inService FORAGER.base = true → s.domState 11 = 0 → s.chg c FR.feed = 1 →
    s.chg c FR.notify = 0 → s.chg c FR.rspace = 2 →
    s.chg c FR.base + 64 * 2 ^ s.chg c FR.log2 ≤ s.secureFrom (s.chg c FR.rhive) →
    let i := s.chg c FR.next
    let at_ (n : Nat) : Nat := s.chg c FR.base + 64 * (n % 2 ^ s.chg c FR.log2)
    let ring := s.chg c FR.rhive * hsSize
    let raw : BitVec 512 := packBytes 512 (padTo 56 (s.hsRead (s.chg c FR.rhive) (at_ i) 64))
    let Fill (r : BitVec 512) : Prop := rget r FD.opcode = 2 ∧ rget r FD.dstSpace = 1 ∧ rget r FD.len % 64 = 0 ∧
      1 ≤ rget r FD.len ∧ rget r FD.len ≤ 4096
    (s.chg c FR.state = 1 → s.fdescs = [] → i ≠ s.chg c FR.prod → s.hasJob (.fdesc c) = false →
      (Fill raw → s.fdReason raw false = 0 → rget raw EN.fence = 0 → rget raw EN.timed = 0 →
        s.gb (FORAGER.GRP_CTL.INTERLEAVED (s.chg c FR.group)) = false →
        s.gb (FORAGER.GRP_CTL.MODE_NOW (s.chg c FR.group)) = false → Completes (.descriptorStart c) s (fun t =>
          t.fdescs = [(s.fdescN + 1, { FDesc.none with ch := c, index := i, raw := raw, phase := 2, ns := s.ns })] ∧
          t.chg c FR.next = (i + 1) % 2 ^ 32 ∧ t.chg c FR.doneI = i ∧ t.chg c FR.state = 1 ∧
          Same { s with fdescs := t.fdescs, fdescN := s.fdescN + 1, chRec := t.chRec } t)) ∧
      (∀ e, s.fdReason raw false = e → e ≠ 0 → e < 256 → Completes (.descriptorStart c) s (fun t => t.fdescs = [] ∧
        t.chg c FR.state = 5 ∧ t.chg c FR.errReason = e ∧ t.chg c FR.errIndex = i ∧
        Stored s.store (ring + at_ i + 56)
          (leBytes 2 (if e = 0x20 then 0x0C else 0x02) ++ [1, 0] ++ leBytes 4 (rget raw FD.len)) t.store ∧
        (t.reg (UNIT.EVT.reg FORAGER.base)).getLsbD 8 = true ∧ t.hbm = s.hbm))) ∧
    (s.fdescs = [(k, d)] → d.ch = c → Fill d.raw → d.pos = 0 → d.stop = 0 →
      (s.chg c FR.state = 2 → d.phase = 1 → rget d.raw FD.byTrig = 0 →
        s.gb (FORAGER.GRP_CTL.INTERLEAVED (s.chg c FR.group)) = false →
        s.gb (FORAGER.GRP_CTL.MODE_NOW (s.chg c FR.group)) = false →
        (rget d.raw FD.start ≤ s.ns → d.late = false ∨ rget d.raw FD.lateSkip = 0 → Completes (.timedDescriptorStart c) s (fun t =>
          t.fdescs = [(k, { d with phase := 2, ns := s.ns, trig := false })] ∧ t.chg c FR.state = 1 ∧
          SameBut [FORAGER.CH_CTL.reg c] { s with fdescs := t.fdescs, chRec := t.chRec } t)) ∧
        (s.ns < rget d.raw FD.start → Gives (.timedDescriptorStart c) s s)) ∧
      (s.chg c FR.state = 1 → d.phase = 2 → d.entry = none → d.late = false → rget d.raw EN.solicit = 0 →
        (11, 2 ^ 44 + k) ∉ s.xfer → Completes (.descriptorFinish c) s (fun t => t.fdescs = [] ∧
          Stored s.hbm (rget d.raw FD.dst)
            ((List.range (rget d.raw FD.len / 8)).flatMap (fun _ => leBytes 8 (rget d.raw FD.pattern))) t.hbm ∧
          Stored s.store (ring + at_ d.index + 56) ([0, 0] ++ leBytes 1 (1 + 2 * b2n d.stepped) ++ [0] ++ leBytes 4 0)
            t.store ∧
          t.chg c FR.lastStatus = 0 ∧ t.chg c FR.descs = satAdd 64 (s.chg c FR.descs) 1 ∧ t.chg c FR.doneI = i ∧
          Same { s with fdescs := [], chRec := t.chRec, hbm := t.hbm, store := t.store } t)))

/-- Threads as THREAD_CTL, their timers, stall detection and the debugger command them (R349, R352, R355, R362, R369, R378; states 0 OFF, 1 RUN, 2
WAIT, 3 WFE, 5 HALTED). It rests on the model's choices of assumptions 52 and 53. -/
def Obligations.HiveThreads : Prop :=
  ∀ (s : State) (actor th entry : Nat) (l : List Nat), th < 768 →
    let h := th / 64
    let v := s.th th
    let now := s.edryn.clk
    let Only (regs : List Nat) (t : State) : Prop := (∀ k, k ≠ th → t.th k = s.th k) ∧
      SameBut regs { s with thread := t.thread, hive := t.hive } t
    let ctl := HIVE.THREAD_CTL.reg h
    (actorOk actor = true → s.domDown (14 + h) = false → s.threadActor actor h = true →
      s.claimAllows (UNIT.CLAIM.reg (HIVE.base h)) actor = true →
      (isThread actor = true → s.secThread th = true → s.secure actor = true) →
      (v.state = 0 → entry % 4 = 0 → Completes (.threadStart actor th entry) s (fun t => Only [ctl] t ∧
        t.th th = { v with pc := entry % 2 ^ 19, state := 1, startClk := now, clk := now } ∧
        t.g (HIVE.THREAD_CTL.STATUS h) = 0)) ∧
      (v.state = 0 → entry % 4 ≠ 0 → Gives (.threadStart actor th entry) s (s.p (HIVE.THREAD_CTL.STATUS h) 2)) ∧
      (v.state ≠ 0 → Gives (.threadStart actor th entry) s (s.p (HIVE.THREAD_CTL.STATUS h) 0x11)) ∧
      (v.state ≠ 2 → Completes (.threadReset actor th) s (fun t => (∀ k, k ≠ th → t.th k = s.th k) ∧
        t.th th = { Thread.reset with clk := now } ∧ t.g (HIVE.THREAD_CTL.STATUS h) = 0 ∧
        (tblWf regReset s.regs = true → ∀ a, (claimUnit a).isSome = true →
          t.g (claimOwner a) = if s.g (claimOwner a) = 0x1000 + th then 0 else s.g (claimOwner a)))) ∧
      (v.state = 2 → Completes (.threadReset actor th) s (fun t => Only [ctl] t ∧ t.th th = { v with later := 1 } ∧
        t.g (HIVE.THREAD_CTL.STATUS h) = 0))) ∧
    (v.timer ≠ 0 → v.timer ≤ s.ns → Completes (.threadTimer th) s (fun t => Only [] t ∧
      let w := { v with timer := 0, pending := v.pending ||| 1 }
      t.th th = if v.state = 3 ∧ w.wakes = true
        then { w with pc := v.pc + 4, retired := v.retired + 1, state := 1, clk := now } else w)) ∧
    (s.domUp (14 + h) = true → (s.hv h).stalled = false → s.stallNow h = true →
      s.stallSince h + cyc 2048 ≤ now → Completes (.hiveStall h) s (fun t =>
        t.g (HIVE.STALL.COUNT h) = min (s.g (HIVE.STALL.COUNT h) + 1) (2 ^ 32 - 1) ∧
        (t.th (64 * h)).pending.testBit 9 = true ∧ (∀ k, k ≠ 64 * h → t.th k = s.th k) ∧
        SameBut [HIVE.STALL.reg h, UNIT.EVT.reg (HIVE.base h)]
          { s with thread := t.thread, hive := t.hive, links := t.links } t ∧
        (t.reg (UNIT.EVT.reg (HIVE.base h))).getLsbD 8 = true)) ∧
    ((∀ x ∈ l, x < 768 ∧ s.debugs x = true) →
      Completes (.debugHalt l) s (fun t => SameBut [] { s with thread := t.thread, hive := t.hive } t ∧ ∀ x,
        let u := s.th x
        t.th x = if x ∉ l then u
          else if u.state = 1 ∨ u.state = 3 then { u with state := 5, clk := now }
          else if u.state = 2 then { u with later := if u.later = 1 then 1 else 2 } else u) ∧
      Completes (.debugResume l) s (fun t => SameBut [] { s with thread := t.thread, hive := t.hive } t ∧ ∀ x,
        let u := s.th x
        t.th x = if x ∈ l ∧ u.state = 5 then { u with state := 1, clk := now } else u)) ∧
    (s.debugs th = false → ∀ c ∈ ([.debugHalt [th], .debugResume [th]] : List Instr), Completes c s (fun t =>
      SameBut [UNIT.EVT.reg DEBUG.base] { s with out := s.out ++ [.jtag 0], links := t.links } t ∧
      (t.reg (UNIT.EVT.reg DEBUG.base)).getLsbD 8 = true))

/-- A Hive's live update (R360, R426), where nothing waits anywhere: DONE from its supervisor; the timeout that resets every thread of a Hive without
held packets; the Keeper's check of a staged image. It rests on the model's choices of assumptions 48 and 51. -/
def Obligations.HiveUpdate : Prop :=
  ∀ (s : State) (actor h : Nat) (v : Word), h < 12 → NoWork s →
    let u := HIVE.base h
    let img := stagedBytes (s.hv h).staged
    (MayWrite s actor (HIVE.MIGRATE.reg h) → actor = 0x1000 + 64 * h → s.ownCur u = 1 →
      Completes (.migrateDone actor h v) s (fun t => (t.hv h).done = true ∧ t.g (HIVE.MIGRATE.PENDING h) = 0 ∧
        t.g (HIVE.MIGRATE.TIMEOUT_MS h) = getF v 31 16 ∧ SameBut [HIVE.MIGRATE.reg h] { s with hive := t.hive } t)) ∧
    (MayWrite s actor (HIVE.MIGRATE.reg h) → actor ≠ 0x1000 + 64 * h → Completes (.migrateDone actor h v) s (fun t =>
        (t.reg (UNIT.EVT.reg u)).getLsbD 6 = true ∧ t.g (HIVE.MIGRATE.TIMEOUT_MS h) = getF v 31 16 ∧
        SameBut [HIVE.MIGRATE.reg h, UNIT.EVT.reg u] { s with links := t.links } t)) ∧
    (s.ownCur u = 1 → s.unitReq u = 2 → (s.hv h).done = false → (s.hv h).held = [] →
      (s.hv h).quiClk + s.g (HIVE.MIGRATE.TIMEOUT_MS h) * msClk ≤ s.edryn.clk →
      Completes (.migrateTimeout h) s (fun t => t.ownCur u = 2 ∧ (t.reg (UNIT.EVT.reg u)).getLsbD 13 = true ∧
        t.g (HIVE.INTAKE_IDX.CONS h) = s.g (HIVE.INTAKE_IDX.PROD h) ∧ t.g (HIVE.HELD.FORCED h) = s.g (HIVE.HELD.FORCED h) ∧
        ∀ k, k < 64 → t.th (h * 64 + k) = { Thread.reset with clk := s.edryn.clk })) ∧
    (s.ownCur u = 3 → (s.hv h).staged ≠ [] → (s.hv h).checked = 0 →
      (s.serviceReason img [2] ≠ 0 → Completes (.imageVerifyDone u) s (fun t => t.ownCur u = 4 ∧
        t.g (UNIT.SVC.REASON u) = 7 ∧ (t.hv h).staged = [] ∧ t.imem = s.imem ∧ t.thread = s.thread)) ∧
      (s.serviceReason img [2] = 0 → s.svcTag u / 4 ≠ 3 → Gives (.imageVerifyDone u) s
        (s.setHv h { s.hv h with checked := 1 })))

/-- ALU instructions of two sources write the result that the ALU table gives, and change nothing but RD, the PC and the count of instructions.
Instructions with an immediate operand: signed immediates are sign-extended, those of the logic operations are not; shifts count by IMM [5:0]; LIC
loads a 21-bit constant and APPI appends one. It rests on the model's choice of assumption 4. -/
def Obligations.QueronArithmetic : Prop :=
  (∀ (s : State) (th rd rs1 rs2 : Nat), Issues s th →
     let a := s.qr th rs1
     let b := s.qr th rs2
     ∀ p ∈ ([(.add th rd rs1 rs2, BitVec.ofNat 64 (a.toNat + b.toNat)),
       (.sub th rd rs1 rs2, BitVec.ofInt 64 (a.toInt - b.toInt)),
       (.and th rd rs1 rs2, a &&& b), (.or th rd rs1 rs2, a ||| b), (.xor th rd rs1 rs2, a ^^^ b),
       (.sll th rd rs1 rs2, BitVec.ofNat 64 (a.toNat * 2 ^ (b.toNat % 64))),
       (.srl th rd rs1 rs2, BitVec.ofNat 64 (a.toNat / 2 ^ (b.toNat % 64))),
       (.sra th rd rs1 rs2, BitVec.ofInt 64 (a.toInt / 2 ^ (b.toNat % 64))),
       (.slt th rd rs1 rs2, if a.toInt < b.toInt then 1 else 0),
       (.sltu th rd rs1 rs2, if a.toNat < b.toNat then 1 else 0),
       (.mul th rd rs1 rs2, BitVec.ofNat 64 (a.toNat * b.toNat)),
       (.mulhu th rd rs1 rs2, BitVec.ofNat 64 (a.toNat * b.toNat / 2 ^ 64)),
       (.minu th rd rs1 rs2, if a.toNat ≤ b.toNat then a else b),
       (.maxu th rd rs1 rs2, if a.toNat ≤ b.toNat then b else a)] : List (Instr × Word)),
       Gives p.1 s (Ran s th rd p.2 (nextPc s th))) ∧
  (∀ (s : State) (th rd rs1 imm cnt k : Nat), Issues s th → imm < 65536 → cnt < 64 → k < 2 ^ 21 →
     let a := s.qr th rs1
     ∀ p ∈ ([(.addi th rd rs1 imm, a + sx 16 imm),
       (.andi th rd rs1 imm, a &&& BitVec.ofNat 64 imm), (.ori th rd rs1 imm, a ||| BitVec.ofNat 64 imm),
       (.xori th rd rs1 imm, a ^^^ BitVec.ofNat 64 imm),
       (.slli th rd rs1 0 cnt, BitVec.ofNat 64 (a.toNat * 2 ^ cnt)),
       (.srli th rd rs1 0 cnt, BitVec.ofNat 64 (a.toNat / 2 ^ cnt)),
       (.srai th rd rs1 0 cnt, BitVec.ofInt 64 (a.toInt / 2 ^ cnt)),
       (.slti th rd rs1 imm, if a.toInt < sgn 16 imm then 1 else 0),
       (.sltiu th rd rs1 imm, if a.toNat < (sx 16 imm).toNat then 1 else 0),
       (.lic th rd k, sx 21 k),
       (.appi th rd k, BitVec.ofNat 64 ((s.qr th rd).toNat * 2 ^ 21 + k))] : List (Instr × Word)),
       Gives p.1 s (Ran s th rd p.2 (nextPc s th)))

/-- CLZ and CTZ count the zero bits above the highest and below the lowest set bit, 64 for zero; POPC counts the set bits. BSWAP, BSWAP32 and BSWAP16
reverse the n low bytes and clear the others. BFX takes LEN bits of RS1 from POS, extended as S says; BFI puts the low LEN bits of RS1 in RD at POS
and keeps the others. CSUM.ADD and CSUM.BLK give the 16-bit ones'-complement sum: below 65,536, congruent to the plain sum, and zero for a sum of zero
only. CRC.B and CRC.D advance a CRC-32C state, one bit at a time, by 1 or 8 bytes. It rests on the model's choice of assumption 4. -/
def Obligations.QueronBitOps : Prop :=
  (∀ (s : State) (th rd rs1 : Nat), Issues s th →
     let a := s.qr th rs1
     ∃ n m : Nat, n ≤ 64 ∧ a.toNat < 2 ^ (64 - n) ∧ (n < 64 → 2 ^ (63 - n) ≤ a.toNat) ∧
       m ≤ 64 ∧ (∀ k, k < m → a.getLsbD k = false) ∧ (m < 64 → a.getLsbD m = true) ∧
       Gives (.clz th rd rs1 0) s (Ran s th rd (BitVec.ofNat 64 n) (nextPc s th)) ∧
       Gives (.ctz th rd rs1 0) s (Ran s th rd (BitVec.ofNat 64 m) (nextPc s th)) ∧
       Gives (.popc th rd rs1 0) s
         (Ran s th rd (BitVec.ofNat 64 ((List.range 64).filter a.getLsbD).length) (nextPc s th))) ∧
  (∀ (s : State) (th rd rs1 : Nat), Issues s th →
     ∀ p ∈ ([(.bswap th rd rs1 0, 8), (.bswap32 th rd rs1 0, 4), (.bswap16 th rd rs1 0, 2)] : List (Instr × Nat)),
       ∃ v : Word, (∀ k, k < p.2 → bits v.toNat (8 * k + 7) (8 * k) =
           bits (s.qr th rs1).toNat (8 * (p.2 - 1 - k) + 7) (8 * (p.2 - 1 - k))) ∧
         v.toNat < 2 ^ (8 * p.2) ∧ Gives p.1 s (Ran s th rd v (nextPc s th))) ∧
  (∀ (s : State) (th rd rs1 pos len : Nat) (sg : Bool), Issues s th → 1 ≤ len → pos + len ≤ 64 →
     let v := bits (s.qr th rs1).toNat (pos + len - 1) pos
     Gives (.bfx th rd rs1 0 sg pos len) s
       (Ran s th rd (if sg then sx len v else BitVec.ofNat 64 v) (nextPc s th)) ∧
     ∃ w : Word, (∀ k, k < 64 → w.getLsbD k =
         if pos ≤ k ∧ k < pos + len then (s.qr th rs1).getLsbD (k - pos) else (s.qr th rd).getLsbD k) ∧
       Gives (.bfi th rd rs1 0 false pos len) s (Ran s th rd w (nextPc s th))) ∧
  (∀ (s : State) (th rd rs1 rs2 : Nat), Issues s th →
     let a := s.qr th rs1
     let b := s.qr th rs2
     let sum := a.toNat % 65536 + bits b.toNat 15 0 + bits b.toNat 31 16 + bits b.toNat 47 32 + bits b.toNat 63 48
     let bs := s.hsRead (th / 64) a.toNat b.toNat
     let blk := (s.qr th rd).toNat % 65536 + sumWords bs
     let fold (v w : Nat) : Prop := v < 65536 ∧ v % 65535 = w % 65535 ∧ (v = 0 ↔ w = 0)
     (∃ v, fold v sum ∧ Gives (.csumAdd th rd rs1 rs2) s (Ran s th rd (BitVec.ofNat 64 v) (nextPc s th))) ∧
     (0 < b.toNat → b.toNat ≤ 16384 → a.toNat + b.toNat ≤ hsSize →
       (s.secThread th = true ∨ a.toNat + b.toNat ≤ s.secureFrom (th / 64)) →
       ∃ v, fold v blk ∧ Gives (.csumBlk th rd rs1 rs2) s (Ran s th rd (BitVec.ofNat 64 v) (nextPc s th))) ∧
     Gives (.crcB th rd rs1 rs2) s
       (Ran s th rd (BitVec.ofNat 64 (crc32cBit 8 (a.toNat % 2 ^ 32 ^^^ b.toNat % 256))) (nextPc s th)) ∧
     Gives (.crcD th rd rs1 rs2) s
       (Ran s th rd (BitVec.ofNat 64 ((List.range 8).foldl (fun c k =>
         crc32cBit 8 (c ^^^ bits b.toNat (8 * k + 7) (8 * k))) (a.toNat % 2 ^ 32))) (nextPc s th)))

/-- Branches go on at PC + 4 × sext(OFF) where RS1 compares with RS2 as named, else at PC + 4; JAL and JALR write PC + 4 and go to their target,
JALR's from RS1 as read before. It rests on the model's choices of assumptions 4 and 101. -/
def Obligations.QueronBranches : Prop :=
  ∀ (s : State) (th rd rs1 rs2 off : Nat), Issues s th →
    let a := s.qr th rs1
    let b := s.qr th rs2
    let dst (n : Nat) : Nat := (BitVec.ofInt 64 ((s.th th).pc + 4 * sgn n off)).toNat
    (∀ p ∈ ([(.beq th rs1 rs2 off, decide (a = b)), (.bne th rs1 rs2 off, decide (a ≠ b)),
      (.blt th rs1 rs2 off, decide (a.toInt < b.toInt)), (.bge th rs1 rs2 off, decide (b.toInt ≤ a.toInt)),
      (.bltu th rs1 rs2 off, decide (a.toNat < b.toNat)), (.bgeu th rs1 rs2 off, decide (b.toNat ≤ a.toNat))] :
      List (Instr × Bool)),
      Gives p.1 s (Ran s th 0 0 (if p.2 then dst 16 else nextPc s th))) ∧
    Gives (.jal th rd off) s (Ran s th rd (BitVec.ofNat 64 (nextPc s th)) (dst 21)) ∧
    Gives (.jalr th rd rs1 off) s (Ran s th rd (BitVec.ofNat 64 (nextPc s th)) (accessAt s th rs1 off))

/-- Loads of the thread's own Hive store: n bytes in little-endian order, sign- or zero-extended. Stores to the thread's own Hive store write the low
n bytes of the register that the RD field names, at the address, and nothing else in any memory; no register of the thread changes but the PC. It
rests on the model's choice of assumption 4. -/
def Obligations.QueronLoadsStores : Prop :=
  (∀ (s : State) (th rd rs1 imm : Nat), Issues s th → imm < 65536 → (2, th) ∉ s.poison →
     let a := accessAt s th rs1 imm
     ∀ p ∈ ([(.lb th rd rs1 imm, 1, true), (.lbu th rd rs1 imm, 1, false), (.lh th rd rs1 imm, 2, true),
       (.lhu th rd rs1 imm, 2, false), (.lw th rd rs1 imm, 4, true), (.lwu th rd rs1 imm, 4, false),
       (.ld th rd rs1 imm, 8, false)] : List (Instr × Nat × Bool)),
       OwnStore s th a p.2.1 →
       let v := leNat (s.hsRead (th / 64) a p.2.1)
       Gives p.1 s (Ran s th rd (if p.2.2 then sx (8 * p.2.1) v else BitVec.ofNat 64 v) (nextPc s th))) ∧
  (∀ (s : State) (th rd rs1 imm : Nat), Issues s th → imm < 65536 →
     let a := accessAt s th rs1 imm
     ∀ p ∈ ([(.sb th rd rs1 imm, 1), (.sh th rd rs1 imm, 2), (.sw th rd rs1 imm, 4), (.sd th rd rs1 imm, 8)] :
       List (Instr × Nat)),
       OwnStore s th a p.2 →
       ∃ m, Stored s.store (th / 64 * hsSize + a) (leBytes p.2 (s.qr th rd).toNat) m ∧
         Gives p.1 s { Ran s th 0 0 (nextPc s th) with store := m })

/-- Atomics on the thread's own Hive store: RD receives the old value, and the memory receives what the operation gives; CAS writes only where the old
value is the one that RD held. It rests on the model's choice of assumption 4. -/
def Obligations.QueronAtomics : Prop :=
  ∀ (s : State) (th rd rs1 rs2 : Nat) (d acq rel : Bool), Issues s th →
    let n := if d then 8 else 4
    let a := (s.qr th rs1).toNat
    let o := leNat (s.hsRead (th / 64) a n)
    let x := (s.qr th rs2).toNat % 2 ^ (8 * n)
    let e := (s.qr th rd).toNat % 2 ^ (8 * n)
    OwnStore s th a n →
    ∀ p ∈ ([(.amoSwap th rd rs1 rs2 0 d acq rel, x), (.amoAdd th rd rs1 rs2 0 d acq rel, (o + x) % 2 ^ (8 * n)),
      (.amoAnd th rd rs1 rs2 0 d acq rel, o &&& x), (.amoOr th rd rs1 rs2 0 d acq rel, o ||| x),
      (.amoXor th rd rs1 rs2 0 d acq rel, o ^^^ x), (.amoMinu th rd rs1 rs2 0 d acq rel, min o x),
      (.amoMaxu th rd rs1 rs2 0 d acq rel, max o x),
      (.amoCas th rd rs1 rs2 0 d acq rel, if o = e then x else o)] : List (Instr × Nat)),
      ∃ m, Stored s.store (th / 64 * hsSize + a) (leBytes n p.2) m ∧
        Gives p.1 s { Ran s th rd (BitVec.ofNat 64 o) (nextPc s th) with store := m }

/-- What the control registers read (R368), and what CTL.PUT, CTL.OR and CTL.BIC do to the registers that may be written. WFE goes on at once where an
enabled event, or one of those that no mask holds back, is pending, and else waits; SEV sets its bit in a thread of the own Hive and ends that
thread's WFE where its mask enables it; a fence of accesses that are all complete goes on. It rests on the model's choices of assumptions 4 and 112.
-/
def Obligations.QueronControlEvents : Prop :=
  (∀ (s : State) (th rd rs1 : Nat), Issues s th →
     let v := s.th th
     let a := s.qr th rs1
     let old (n : Nat) : Word := BitVec.ofNat 64 n
     (∀ p ∈ ([(0x00, 0x1000 + th), (0x01, th % 64 + th / 64 * 256), (0x02, v.pending), (0x03, v.mask), (0x04, v.timer),
         (0x08, v.retired), (0x09, if s.secThread th then 1 else 0), (0x0A, v.staging.length),
         (0x06, tget 0 s.edryn.latch (0x1000 + th)), (0x07, (s.edryn.clk - v.startClk) * 4 / 3),
         (0x0B, v.win0.getD 0), (0x0C, v.win1.getD 0)] : List (Nat × Nat)),
       Gives (.ctlGet th rd 0 0 p.1) s (Ran s th rd (old p.2) (nextPc s th))) ∧
     Gives (.ctlGet th rd 0 0 0x05) s ({ Ran s th rd (old (s.edryn.time / 65536)) (nextPc s th) with
       edryn := { s.edryn with latch := tset 0 s.edryn.latch (0x1000 + th) (s.edryn.time % 65536) } }) ∧
     (∀ p ∈ ([(.ctlPut th rd rs1 0 0x03, a), (.ctlOr th rd rs1 0 0x03, old v.mask ||| a),
         (.ctlBic th rd rs1 0 0x03, old v.mask &&& ~~~a)] : List (Instr × Word)),
       Gives p.1 s (RanWith s th rd (old v.mask) (fun x => { x with mask := p.2.toNat % 65536 }))) ∧
     Gives (.ctlBic th rd rs1 0 0x02) s
       (RanWith s th rd (old v.pending) (fun x => { x with pending := (old v.pending &&& ~~~a).toNat % 65536 })) ∧
     Gives (.ctlPut th rd rs1 0 0x04) s (RanWith s th rd (old v.timer) (fun x =>
       if a = 0 ∨ s.edryn.time / 65536 < a.toNat then { x with timer := a.toNat }
       else { x with timer := 0, pending := v.pending ||| 1 }))) ∧
  (∀ (s : State) (th rs1 : Nat), Issues s th →
     let v := s.th th
     let k := th / 64 * 64 + (s.qr th rs1).toNat
     (v.pending &&& (v.mask ||| 0x700) ≠ 0 → Gives (.wfe th 0 0 0) s (Ran s th 0 0 (nextPc s th))) ∧
     (v.pending &&& (v.mask ||| 0x700) = 0 →
       Gives (.wfe th 0 0 0) s (s.setTh th { v with state := thWfe, clk := s.edryn.clk })) ∧
     (∀ i ∈ ([.fenceM th 0 0 0, .fenceG th 0 0 0, .fenceMg th 0 0 0] : List Instr),
       Gives i s (Ran s th 0 0 (nextPc s th))) ∧
     ((s.qr th rs1).toNat < 64 →
       (k = th → Gives (.sev th 0 rs1 0) s (RanWith s th 0 0 (fun x => { x with pending := v.pending ||| 128 }))) ∧
       (k ≠ th → (s.th k).state ≠ thWfe → Gives (.sev th 0 rs1 0) s
         ((Ran s th 0 0 (nextPc s th)).setTh k { s.th k with pending := (s.th k).pending ||| 128 })) ∧
       (k ≠ th → (s.th k).state = thWfe → (s.th k).mask.testBit 7 = true → Completes (.sev th 0 rs1 0) s (fun t =>
         t.th k = { s.th k with pending := (s.th k).pending ||| 128, state := thRun, pc := (s.th k).pc + 4,
                                retired := (s.th k).retired + 1, clk := s.edryn.clk } ∧
         t.th th = (Ran s th 0 0 (nextPc s th)).th th))))

/-- CH.PUT stages a word, CH.DISCARD empties the staging; CH.COMMIT appends the staging to a channel with space, returning OK and telling the
receiver, and returns BUSY or MALFORMED with no effect for a full channel or an empty staging; CH.TAKE takes the oldest message into the Hive store.
It rests on the model's choices of assumptions 4 and 109. -/
def Obligations.QueronChannels : Prop :=
  ∀ (s : State) (th rd rs1 rs2 : Nat), Issues s th →
    let v := s.th th
    let x := (s.qr th rs1).toNat
    let h := x / 256
    let c := x % 256
    let r := h * 64 + chReceiver (s.hch h c)
    let own := th / 64
    let dst := (s.qr th rs2).toNat
    (v.staging.length < 8 → Gives (.chPut th 0 rs1 0) s
      (RanWith s th 0 0 (fun y => { y with staging := v.staging ++ [s.qr th rs1] }))) ∧
    Gives (.chDiscard th 0 0 0) s (RanWith s th 0 0 (fun y => { y with staging := [] })) ∧
    (h < 12 → chValid (s.hch h c) = true → chFeed (s.hch h c) = 1 ∨ (chFeed (s.hch h c) = 0 ∧ h = own) →
      (v.staging = [] → Gives (.chCommit th rd rs1 0) s (Ran s th rd 2 (nextPc s th))) ∧
      (v.staging ≠ [] → 16 ≤ (s.msgs h c).length → Completes (.chCommit th rd rs1 0) s (fun t =>
        t.hmsg = s.hmsg ∧ (t.th th).q = regsWith v rd 0x11 ∧ (t.th th).staging = v.staging ∧
        (t.th th).pc = nextPc s th ∧ h * 256 + c ∈ (t.th th).space)) ∧
      (v.staging ≠ [] → (s.msgs h c).length < 16 → Completes (.chCommit th rd rs1 0) s (fun t =>
        t.msgs h c = s.msgs h c ++ [v.staging] ∧ (∀ a b, b < 256 → (a, b) ≠ (h, c) → t.msgs a b = s.msgs a b) ∧
        (t.th th).q = regsWith v rd 0 ∧ (t.th th).staging = [] ∧ (t.th th).pc = nextPc s th ∧
        (t.th r).pending.testBit 1 = true))) ∧
    (x < 4096 → chValid (s.hch own c) = true → chReceiver (s.hch own c) = th % 64 →
      (s.msgs own c = [] → dst % 8 = 0 → dst < hsSize →
        Gives (.chTake th rd rs1 rs2) s (Ran s th rd 0 (nextPc s th))) ∧
      (∀ m q, s.msgs own c = m :: q → m ≠ [] → dst % 8 = 0 → dst + 8 * m.length ≤ hsSize →
        (s.secThread th = true ∨ dst + 8 * m.length ≤ s.secureFrom own) →
        Completes (.chTake th rd rs1 rs2) s (fun t =>
          t.msgs own c = q ∧ (t.th th).q = regsWith v rd (BitVec.ofNat 64 m.length) ∧ (t.th th).pc = nextPc s th ∧
          Stored s.store (own * hsSize + dst) (m.flatMap (fun w => leBytes 8 w.toNat)) t.store)))

/-- Faults of Queron instructions: ILLEGAL for a field that must be zero and is not, for a control register that does not exist or may not be written
so; MISALIGNED; BUS_ERROR outside the address map; SECURE for the secure region; CHANNEL for a ninth word staged; IMEM for a PC outside the image. It
rests on the model's choices of assumptions 4, 101 and 103. -/
def Obligations.QueronFaults : Prop :=
  ∀ (s : State) (th rd rs1 rs2 z imm : Nat),
    (th < 768 → (s.th th).state = thRun → s.domState (14 + th / 64) = 0 →
      (s.hv (th / 64)).imgLen ≤ (s.th th).pc ∨ (s.th th).pc % 4 ≠ 0 →
      Completes (.add th rd rs1 rs2) s (Faulted s th 5 0)) ∧
    (Issues s th →
      let a := accessAt s th rs1 imm
      let ls : List Instr := [.lb th rd rs1 imm, .lbu th rd rs1 imm, .lh th rd rs1 imm, .lhu th rd rs1 imm,
        .lw th rd rs1 imm, .lwu th rd rs1 imm, .ld th rd rs1 imm, .sb th rd rs1 imm, .sh th rd rs1 imm,
        .sw th rd rs1 imm, .sd th rd rs1 imm]
      (z ≠ 0 → ∀ i ∈ ([.clz th rd rs1 z, .ctz th rd rs1 z, .popc th rd rs1 z, .bswap th rd rs1 z,
        .bswap32 th rd rs1 z, .bswap16 th rd rs1 z, .slli th rd rs1 z 0, .srli th rd rs1 z 0, .srai th rd rs1 z 0,
        .bfx th rd rs1 z false 0 1, .bfi th rd rs1 z false 0 1, .amoSwap th rd rs1 rs2 z true false false,
        .chPut th z rs1 0, .chCommit th rd rs1 z, .chDiscard th z 0 0, .wfe th 0 z 0, .sev th 0 rs1 z,
        .ctlGet th rd z 0 0, .ctlPut th rd rs1 z 3, .fenceM th z 0 0, .fenceG th 0 z 0, .fenceMg th 0 0 z,
        .pktUnmap th z 0 rs2, .pktRelease th rd rs1 z, .pktSend th rd rs1 z, .accFlowInsert th rd rs1 z,
        .accFlowInval th rd rs1 z, .accFlowLookup th rd rs1 z] : List Instr),
        Completes i s (Faulted s th 1 0)) ∧
      (∀ i ∈ ([.ctlPut th rd rs1 0 0, .ctlOr th rd rs1 0 0x02, .ctlPut th rd rs1 0 0x02, .ctlBic th rd rs1 0 0x05,
        .ctlGet th rd 0 0 0x0D, .bfi th rd rs1 0 true 0 1, .bfx th rd rs1 0 false 33 32] : List Instr),
        Completes i s (Faulted s th 1 0)) ∧
      (a + 8 ≤ hsSize → a % 2 = 1 → ∀ i ∈ ([.lh th rd rs1 imm, .lhu th rd rs1 imm, .lw th rd rs1 imm,
        .lwu th rd rs1 imm, .ld th rd rs1 imm, .sh th rd rs1 imm, .sw th rd rs1 imm, .sd th rd rs1 imm] : List Instr),
        Completes i s (Faulted s th 2 a)) ∧
      (hsSize ≤ a → a + 8 ≤ 0x1000_0000 → a % 8 = 0 → ∀ i ∈ ls, Completes i s (Faulted s th 3 a)) ∧
      (s.secThread th = false → s.secureFrom (th / 64) ≤ a → a + 8 ≤ hsSize → a % 8 = 0 →
        ∀ i ∈ ls, Completes i s (Faulted s th 4 a)) ∧
      (8 ≤ (s.th th).staging.length → Completes (.chPut th 0 rs1 0) s (Faulted s th 6 0)))

/-- An access to another Hive's store puts the thread in WAIT; when the access is complete the thread has its result and goes on, or, as a RESET or a
debugger halt has arrived meanwhile, is reset without it or halted with it. It rests on the model's choices of assumptions 4 and 104. -/
def Obligations.QueronWaits : Prop :=
  ∀ (s : State) (th rd rs1 imm : Nat),
    (Issues s th →
      let a := accessAt s th rs1 imm
      let o := a - 0x1000_0000
      let h := o / hsSize
      0x1000_0000 ≤ a → h < 12 → h ≠ th / 64 → a % 8 = 0 → (2, th) ∉ s.poison →
      (s.secThread th = true ∨ o % hsSize + 8 ≤ s.secureFrom h) →
      Gives (.ld th rd rs1 imm) s
        (Waits s th rd (BitVec.ofNat 64 (leNat (s.hsRead h (o % hsSize) 8))) true 0) ∧
      ∃ m, Stored s.store (h * hsSize + o % hsSize) (leBytes 8 (s.qr th rd).toNat) m ∧
        Gives (.sd th rd rs1 imm) s { Waits s th 32 0 true 0 with store := m }) ∧
    (∀ w op, th < 768 → (s.th th).state = thWait → (s.th th).wait = some ⟨rd, w, true, op, none⟩ →
      let v := s.th th
      ((s.th th).later = 0 → Completes (.accessComplete th) s (fun t =>
        t.th th = { v with wait := none, state := thRun, clk := s.edryn.clk, q := regsWith v rd w,
                           pc := nextPc s th, retired := v.retired + 1 } ∧ ∀ k, k ≠ th → t.th k = s.th k)) ∧
      ((s.th th).later = 2 → Completes (.accessComplete th) s (fun t =>
        t.th th = { v with wait := none, later := 0, state := thHalted, clk := s.edryn.clk, q := regsWith v rd w,
                           pc := nextPc s th, retired := v.retired + 1 } ∧ ∀ k, k ≠ th → t.th k = s.th k)) ∧
      ((s.th th).later = 1 → Completes (.accessComplete th) s (fun t =>
        t.th th = { Thread.reset with clk := s.edryn.clk } ∧ t.store = s.store)))

/-- PKT.MAP, UNMAP, RELEASE, REINJECT and SEND on a packet that the Hive holds or not. The packets that go into the pipeline do so while FABRIC wakes,
so that they wait there and the rest of their way is not part of the instruction. It rests on the model's choices of assumptions 4 and 110. -/
def Obligations.QueronPackets : Prop :=
  ∀ (s : State) (th rd rs1 rs2 : Nat), Issues s th →
    let v := s.th th
    let x := (s.qr th rs1).toNat
    let k := (s.qr th rs2).toNat
    let h := th / 64
    let win (w : Option Nat) (y : Thread) : Thread := if k = 0 then { y with win0 := w } else { y with win1 := w }
    (k < 2 → Gives (.pktUnmap th 0 0 rs2) s (RanWith s th 0 0 (win none))) ∧
    (k < 2 → (∀ d, ¬ Holds s th (x % 2 ^ 32) d) → Gives (.pktMap th rd rs1 rs2) s (RanWith s th rd 0 (win none))) ∧
    (∀ d, k < 2 → Holds s th (x % 2 ^ 32) d → Gives (.pktMap th rd rs1 rs2) s
      (RanWith s th rd (BitVec.ofNat 64 (s.pkt (s.desc d).pkt).bytes.length) (win (some (x % 2 ^ 32))))) ∧
    ((∀ d, ¬ Holds s th x d) → k < 2 ^ 32 → ∀ i ∈ ([.pktRelease th rd rs1 0, .pktReinject th rd rs1 rs2] : List Instr),
      Gives i s (Ran s th rd 2 (nextPc s th))) ∧
    (∀ d, Holds s th x d → (s.desc d).handle = x → (s.pkt (s.desc d).pkt).work = none →
      Completes (.pktRelease th rd rs1 0) s (fun t =>
        t.descs = tdel s.descs d ∧ (t.th th).q = regsWith v rd 0 ∧ (t.th th).pc = nextPc s th ∧
        (t.th th).win0 ≠ some x ∧ (t.th th).win1 ≠ some x)) ∧
    (∀ d, Holds s th x d → (s.desc d).handle = x → k < 2 ^ 32 → s.domState 1 = 9 → Completes (.pktReinject th rd rs1 rs2) s (fun t =>
        t.pipeWait = s.pipeWait ++ [d] ∧ (t.desc d).flowIdx = k ∧ (t.desc d).viaHive = true ∧
        (t.th th).q = regsWith v rd 0 ∧ (t.th th).pc = nextPc s th ∧
        (t.th th).win0 ≠ some x ∧ (t.th th).win1 ≠ some x)) ∧
    (let r : BitVec 256 := packBytes 256 (s.hsRead h x 32)
     let f := s.hsRead h (rget r SR.addr) (rget r SR.len)
     x % 32 = 0 → OwnRange s th x 32 →
      (s.sendOk r = false → Gives (.pktSend th rd rs1 0) s
        (Ran s th rd (if sendRestOk r = true ∧ rget r SR.destKind = 1 ∧ rget r SR.dest < 2048 ∧
            rget r SR.sub < s.ri (rget r SR.dest) IR.nwq ∧ s.instState (rget r SR.dest) ∈ [2, 3] then 0x10 else 2) (nextPc s th))) ∧
      (s.sendOk r = true → rget r SR.fromHandle = 0 → OwnRange s th (rget r SR.addr) (rget r SR.len) →
        (s.g COMB.HIVE_LIMIT.CELLS < s.hiveCharge h + cellsOf f.length →
          Gives (.pktSend th rd rs1 0) s (Ran s th rd 0x11 (nextPc s th))) ∧
        (s.hiveCharge h + cellsOf f.length ≤ s.g COMB.HIVE_LIMIT.CELLS → cellsOf f.length ≤ s.poolFree →
          0 < s.descFree → s.domState 1 = 9 → Completes (.pktSend th rd rs1 0) s (fun t =>
            (t.pkt (s.serial + 1)).bytes = f ∧ (t.desc (s.serial + 2)).bytes = f ∧ (t.desc (s.serial + 2)).src = 9 ∧
            t.pipeWait = s.pipeWait ++ [s.serial + 2] ∧
            (t.th th).q = regsWith v rd 0 ∧ (t.th th).pc = nextPc s th))))

/-- Accelerator calls on FLOW and CLASS: the thread waits, the unit has done what the call names, and its status is the thread's result. It rests on
the model's choices of assumptions 4 and 111. -/
def Obligations.QueronCalls : Prop :=
  ∀ (s : State) (th rd rs1 rs2 : Nat), Issues s th →
    let a := (s.qr th rs1).toNat
    let b := (s.qr th rs2).toNat
    let h := th / 64
    let w (st : Nat) (x : State) : State := Waits x th rd (BitVec.ofNat 64 st) true 0
    (UnitTakes s th FLOW.base 1 → s.claimAllows (UNIT.CLAIM.reg FLOW.base) (0x1000 + th) = true →
      (flowMax ≤ a → b % 64 = 0 → OwnRange s th b 256 →
        ∀ i ∈ ([.accFlowRead th rd rs1 rs2, .accFlowUpdate th rd rs1 rs2, .accFlowInval th rd rs1 0] : List Instr),
        Gives i s (w 2 s)) ∧
      (a < flowMax → b % 64 = 0 → OwnRange s th b 256 →
        ∃ m, Stored s.store (h * hsSize + b) (leBytes 256 (s.ctxView a).toNat) m ∧
          Gives (.accFlowRead th rd rs1 rs2) s { w 0 s with store := m }) ∧
      (a < flowMax → b % 64 = 0 → OwnRange s th b 256 →
        let x := s.callUpdate (0x1000 + th) a (s.hsRead h b 256)
        Gives (.accFlowUpdate th rd rs1 rs2) s (w x.1 x.2)) ∧
      (a < flowMax → ctxState (s.ctx a) = 2 → s.listRefs a = 0 →
        Gives (.accFlowInval th rd rs1 0) s { w 0 s with flows := tset 0 s.flows a 0 }) ∧
      (a < flowMax → ctxState (s.ctx a) = 1 → Completes (.accFlowInval th rd rs1 0) s (fun t =>
        t.flows = tset 0 s.flows a 0 ∧ (t.th th).wait = some ⟨rd, 0, true, 0, none⟩)) ∧
      (a % 64 = 0 → OwnRange s th a 256 →
        let x := s.insertFlow (packBytes 2048 (s.hsRead h a 256)) false
        x.1.status = 0 → Completes (.accFlowInsert th rd rs1 0) s (fun t =>
          t.flows = x.2.flows ∧ (t.th th).state = thWait ∧ (t.th th).wait = some ⟨rd, 0, true, 0, none⟩ ∧
          Stored s.store (h * hsSize + (a + 4)) (leBytes 4 x.1.index ++ leBytes 4 (rget (x.2.ctx x.1.index) FC.hash))
            t.store)) ∧
      (a % 64 = 0 → OwnRange s th a 48 →
        let key := s.hsRead h a 48
        Gives (.accFlowLookup th rd rs1 0) s (w ((s.findFlow key (s.flowHash key)).getD 0xFFFF_FFFF) s))) ∧
    (UnitTakes s th CLASS.base 1 → b % 64 = 0 → OwnRange s th b 32 →
      ((∀ d, ¬ Holds s th a d) → Gives (.accClassMatch th rd rs1 rs2) s (w 2 s)) ∧
      (∀ d, Holds s th a d → ∃ m, Stored s.store (h * hsSize + b) (s.matchBytes d) m ∧
        Gives (.accClassMatch th rd rs1 rs2) s { w 0 s with store := m }))

/-- A write to a mailbox by its end (R381): an empty one stores the word and is FULL; a full one keeps its word, and the write sets OVERRUN and its
event. -/
def Obligations.MailboxStores : Prop :=
  ∀ (s : State) (actor w c m : Nat) (v : Word), w ≤ 12 → c < chCount w → m < 4 → actorOk actor = true →
    let k := chBlock w c
    let full := (s.g (CH.STAT.FULL k)).testBit m
    s.noPage actor = false → s.chEnd w c (mbByB m) = actor → (s.gb (CH.CFG.SECURE k) = true → s.secure actor = true) → s.domDown (s.chDom w c) = false →
    (full = false → Completes (.mailboxWrite actor w c m v) s (fun t => t.reg (k + 8 * m) = v ∧
      (t.g (CH.STAT.FULL k)).testBit m = true ∧ ∀ j, j ≠ m → j < 4 → t.reg (k + 8 * j) = s.reg (k + 8 * j) ∧
        (t.g (CH.STAT.FULL k)).testBit j = (s.g (CH.STAT.FULL k)).testBit j)) ∧
    (full = true → Completes (.mailboxWrite actor w c m v) s (fun t => t.reg (k + 8 * m) = s.reg (k + 8 * m) ∧
      t.g (CH.STAT.FULL k) = s.g (CH.STAT.FULL k) ∧ (t.g (CH.STAT.OVERRUN k)).testBit m = true ∧
      (t.reg (UNIT.EVT.reg (WAGGLE.base w))).getLsbD 8 = true))

/-- Mailboxes (R380–R384): a write by the end that owns the mailbox fills it, one to a full mailbox is an overrun and is lost; a read by the other end
takes the value and empties it, one of an empty mailbox is an underrun and reads 0; an instance that does not exist or whose link is sealed has no
access (R45, R117); both ends waiting on full requests are reported (R387). Doorbells and locks (R389–R391, R432): a doorbell, rung by an actor that
Chitin permits, of the device's WAGGLE signals its vector, one of a Hive's sets DOORBELL in the threads it names; a read takes a free lock for its
actor and returns 0, the holder's write frees it, the owner physical function's or the Keeper's FORCE frees any. -/
def Obligations.WaggleSignals : Prop :=
  (∀ (s : State) (actor w c m : Nat) (v : Word), w ≤ 12 → c < chCount w → m < 4 →
     let k := chBlock w c
     let x := s.g (CH.STAT.FULL k)
     actorOk actor = true → (s.gb (CH.CFG.SECURE k) = true → s.secure actor = true) → s.domDown (s.chDom w c) = false →
     (s.noPage actor = true → Gives (.mailboxWrite actor w c m v) s s ∧
       Gives (.mailboxRead actor w c m true) s { s with out := s.out ++ [.regRead actor (k + 8 * m) (2 ^ 64 - 1)] }) ∧
     (s.noPage actor = false → s.chEnd w c (mbByB m) = actor → tget 0 s.chOpen c = 0 →
       (x.testBit m = false → (if mbByB m then s.gb (CH.CFG.A_EN k) else s.gb (CH.CFG.B_EN k)) = false →
         Completes (.mailboxWrite actor w c m v) s (fun t => SameBut [k + 8 * m, CH.STAT.reg k] s t ∧
           t.reg (k + 8 * m) = v ∧ t.g (CH.STAT.FULL k) = x ||| 2 ^ m)) ∧
       (x.testBit m = true → Completes (.mailboxWrite actor w c m v) s (fun t =>
           SameBut [CH.STAT.reg k, UNIT.EVT.reg (WAGGLE.base w)] s t ∧ t.reg (k + 8 * m) = s.reg (k + 8 * m) ∧
           (t.g (CH.STAT.OVERRUN k)).testBit m = true ∧ (t.reg (UNIT.EVT.reg (WAGGLE.base w))).getLsbD 8 = true))) ∧
     (s.noPage actor = false → s.chEnd w c (!mbByB m) = actor →
       (x.testBit m = true → Completes (.mailboxRead actor w c m true) s (fun t =>
           t.out = s.out ++ [.regRead actor (k + 8 * m) (s.reg (k + 8 * m)).toNat] ∧
           (t.g (CH.STAT.FULL k)).testBit m = false ∧
           SameBut [CH.STAT.reg k] { s with out := t.out, cross := t.cross, chOpen := t.chOpen, inst := t.inst } t)) ∧
       (x.testBit m = false → Completes (.mailboxRead actor w c m true) s (fun t =>
           SameBut [CH.STAT.reg k, UNIT.EVT.reg (WAGGLE.base w)]
             { s with out := s.out ++ [.regRead actor (k + 8 * m) 0] } t ∧
           (t.g (CH.STAT.UNDERRUN k)).testBit m = true ∧ (t.reg (UNIT.EVT.reg (WAGGLE.base w))).getLsbD 9 = true))) ∧
     (s.crossed w c = true → isThread (s.chEnd w c false) = true → isThread (s.chEnd w c true) = true →
       Completes (.crossedDetect w c) s (fun t => t.g (CH.STAT.CROSSED k) = 1 ∧ (t.crossAt w c).reported = true ∧
         (t.reg (UNIT.EVT.reg (WAGGLE.base w))).getLsbD 10 = true ∧
         SameBut [CH.STAT.reg k, UNIT.EVT.reg (WAGGLE.base w)]
           { s with cross := t.cross, thread := t.thread, hive := t.hive } t))) ∧
  (∀ (s : State) (actor w n : Nat) (v : Word), actorOk actor = true →
     let l := s.g (WAGGLE.DB_CFG.LINK 0 n)
     let vec := s.g (WAGGLE.DB_CFG.VECTOR 0 n)
     let a := WAGGLE.LOCK.reg w n
     let o := s.g (WAGGLE.LOCK.OWNER w n)
     let e := tget msixReset (s.link l).msix vec
     (n < 256 → s.permits actor .waggle = false → Completes (.dbRing actor 0 n v) s (fun t =>
       SameBut [UNIT.EVT.reg (WAGGLE.base 0)] { s with links := t.links } t ∧ (t.reg (UNIT.EVT.reg (WAGGLE.base 0))).getLsbD 6 = true)) ∧
     (n < 256 → v.getLsbD 0 = true → s.permits actor .waggle = true → s.gb (WAGGLE.DB_CFG.EN 0 n) = true → Completes (.dbRing actor 0 n v) s (fun t =>
       SameBut [] { s with links := t.links } t ∧
       (s.msixOpen l vec = true → (t.link l).tx = (s.link l).tx ++ [.msix vec (getF e 63 0) (getF e 95 64)]) ∧
       (s.msixOpen l vec = false → (t.link l).pba = (s.link l).pba ||| BitVec.ofNat 2048 (2 ^ vec)))) ∧
     (1 ≤ w → w ≤ 12 → n < 1024 → v.getLsbD 0 = true → s.permits actor .waggle = true → s.domDown (13 + w) = false →
       Completes (.dbRing actor w n v) s (fun t => SameBut [] { s with thread := t.thread, hive := t.hive } t ∧
         ∀ k, k < 64 → if bit (s.g (WAGGLE.DB_CFG.THREADS w n)) k
           then (t.th ((w - 1) * 64 + k)).pending.testBit 5 = true
           else t.th ((w - 1) * 64 + k) = s.th ((w - 1) * 64 + k))) ∧
     (w ≤ 12 → n < lockCount w → w = 0 ∨ s.domDown (13 + w) = false →
       (o = 0 → Gives (.lockRead actor w n true) s
         { s.setReg a (BitVec.ofNat 64 actor) with out := s.out ++ [.regRead actor a 0] }) ∧
       (o ≠ 0 → Gives (.lockRead actor w n true) s { s with out := s.out ++ [.regRead actor a o] }) ∧
       (o = actor → Gives (.lockRelease actor w n) s (s.setReg a 0)) ∧
       (o ≠ actor → Completes (.lockRelease actor w n) s (fun t =>
         SameBut [WAGGLE.ERR_LOG.reg w, UNIT.EVT.reg (WAGGLE.base w)] { s with links := t.links } t ∧
         t.g (WAGGLE.ERR_LOG.ACTOR w) = actor ∧ t.g (WAGGLE.ERR_LOG.KIND w) = 4)) ∧
       (actor = s.owner ∨ actor = 0x2000 → Completes (.lockForce actor w n) s (fun t =>
         SameBut [a, UNIT.EVT.reg (WAGGLE.base w)] s t ∧ t.reg a = 0 ∧
         (t.reg (UNIT.EVT.reg (WAGGLE.base w))).getLsbD 12 = true))))

/-- Votes and OFF (R398, R399, R409): a vote is stored with its actor and time, every other stays (a vote for FABRIC with comparators or page writes
due at its return apart: their actions may vote too), and TARGET is the shallowest of the votes and holds; a vote for a domain or state that there is
not changes none; OFF needs its key, its actors, and every domain DEEP. -/
def Obligations.PowerVotes : Prop :=
  ∀ (s : State) (actor : Nat) (v : Word),
    let d := getF v 7 0
    let k := getF v 16 12
    let deep := ∀ e, 1 ≤ e → e ≤ 25 → s.domState e = 3
    let mayOff := getF v 15 0 = 0x4F46 ∧ (actor = s.owner ∨ actor = 0x2001)
    let calm := d = 1 → s.dbWait = [] ∧ s.trigLate = [] ∧ s.trigOwed = []
    (MayWrite s actor PWR.VOTE.reg → d ≤ 25 → getF v 11 8 ≤ 3 → calm → Completes (.voteWrite actor v) s (fun t =>
      t.vote d k = ⟨getF v 11 8, actor, s.ns⟩ ∧ (∀ e j, e * 32 + j ≠ d * 32 + k → t.vote e j = s.vote e j) ∧
      t.g (PWR.DOM_STAT.TARGET d) = t.targetOf d)) ∧
    (MayWrite s actor PWR.VOTE.reg → 25 < d ∨ 3 < getF v 11 8 → Completes (.voteWrite actor v) s (fun t =>
      SameBut [UNIT.EVT.reg PWR.base] { s with links := t.links } t ∧ (t.reg (UNIT.EVT.reg PWR.base)).getLsbD 6 = true)) ∧
    (MayWrite s actor PWR.OFF.reg → mayOff → deep → Completes (.offRequest actor v) s (fun t =>
      t.trust.phase = 4 ∧ t.pins.regEn = 0 ∧ t.kek = [] ∧ t.slots = [] ∧ t.edryn = State.reset.edryn)) ∧
    (MayWrite s actor PWR.OFF.reg → mayOff → ¬ deep → Gives (.offRequest actor v) s (s.p PWR.OFF.STATUS 0x11)) ∧
    (MayWrite s actor PWR.OFF.reg → ¬ mayOff → Completes (.offRequest actor v) s (fun t =>
      SameBut [UNIT.EVT.reg PWR.base] { s with links := t.links } t ∧ (t.reg (UNIT.EVT.reg PWR.base)).getLsbD 6 = true))

/-- What a domain's state and step become (R401, R403–R407), with nothing but the domain, its rail and the events of its units changed (0 RUN, 1 IDLE,
2 SLEEP, 3 DEEP, 8 DRAINING, 9 WAKING, 10 WAKE_FAIL, 11 FAILED); power-down steps of a domain without port lanes, wakes that need another step. A wake
step that misses its timeout (R406), where the fault window of the domain holds no earlier event and needs more than one: the domain is in WAKE_FAIL,
and the log tells its step, its cause and the time. It rests on the model's choices of assumptions 56 and 57. -/
def Obligations.PowerMoves : Prop :=
  (∀ (s : State) (actor d : Nat), 1 ≤ d → d ≤ 25 →
     let st := s.domState d
     let k := s.g (PWR.DOM_STAT.STEP d)
     let us := s.since (s.domx d).stepClk
     let Now (st' k' : Nat) (t : State) : Prop := t.domState d = st' ∧ t.g (PWR.DOM_STAT.STEP d) = k' ∧
       SameBut (PWR.DOM_STAT.reg d :: (domUnits d).map UNIT.EVT.reg)
         { s with links := t.links, dom := t.dom, pins := { s.pins with regEn := t.pins.regEn } } t
     (st = 0 → s.targetOf d = 1 → s.g (PWR.DOM_STAT.XFER d) = 0 → s.domBusy d = false → s.domRuns d = false →
       Completes (.idleEnter d) s (Now 1 0)) ∧
     (st = 8 → 2 ≤ s.targetOf d → s.portsOn d = [] →
       (k = 1 → s.g (PWR.DOM_STAT.XFER d) = 0 → s.domBusy d = false → Completes (.powerStepDone d) s (Now 8 2)) ∧
       (k = 2 → Completes (.powerStepDone d) s (Now 8 3)) ∧
       (k = 3 → 1000 ≤ us → s.targetOf d = 2 → Completes (.powerStepDone d) s (Now 2 0)) ∧
       (k = 3 → 1000 ≤ us → s.targetOf d = 3 → Completes (.powerStepDone d) s (Now 8 4)) ∧
       (k = 4 → 2000 ≤ us → s.targetOf d = 3 → Completes (.powerStepDone d) s (Now 3 0))) ∧
     (st = 9 → s.nextWake d k false ≠ 0 → (wakeDelay d k).1 * 1000 ≤ us → k = 3 ∨ us ≤ (wakeDelay d k).2 * 1000 →
       Completes (.wakeStepDone d) s (fun t => t.domState d = 9 ∧ t.g (PWR.DOM_STAT.STEP d) = s.nextWake d k false ∧
         (t.domx d).stepClk = s.edryn.clk ∧ (∀ e, e ≤ 25 → e ≠ d → t.g (PWR.DOM_STAT.STATE e) = s.g (PWR.DOM_STAT.STATE e)))) ∧
     (st = 10 → 10_000_000 ≤ s.since (s.domx d).failClk →
       Completes (.wakeRetry d) s (Now 9 (s.nextWake d 0 ((s.domx d).left == 3)))) ∧
     (MayWrite s actor (PWR.DOM_CTL.reg d) →
       (st = 11 → Completes (.domainRetry actor d) s (fun t => Now 9 (s.nextWake d 0 true) t ∧ (t.domx d).byRetry = true)) ∧
       (st ≠ 11 → Completes (.domainRetry actor d) s (fun t => SameBut [UNIT.EVT.reg PWR.base] { s with links := t.links } t ∧
         (t.reg (UNIT.EVT.reg PWR.base)).getLsbD 6 = true)))) ∧
  (∀ (s : State) (d : Nat), 1 ≤ d → d ≤ 25 → s.domState d = 9 →
     let k := s.g (PWR.DOM_STAT.STEP d)
     k ≠ 3 → (wakeDelay d k).2 * 1000 ≤ s.since (s.domx d).stepClk → (s.domx d).byRetry = false →
     2 ≤ s.g (FWC.SRC.THRESH 3) → tget FaultWin.reset s.fwc (fwcKey 3 d) = FaultWin.reset →
     Completes (.wakeStepTimeout d) s (fun t => t.domState d = 10 ∧ (t.domx d).failClk = s.edryn.clk ∧
       t.g PWR.WAKE_LOG.DOMAIN = d ∧ t.g PWR.WAKE_LOG.STEP = k ∧
       t.g PWR.WAKE_LOG.CAUSE = (if k = 1 then 1 else if k = 2 then 2 else 3) ∧
       t.g PWR.WAKE_LOG.FAILS = min (s.g PWR.WAKE_LOG.FAILS + 1) 65535 ∧ t.g PWR.WAKE_LOG_NS.NS = s.ns % 2 ^ 64 ∧
       (t.reg (UNIT.EVT.reg PWR.base)).getLsbD 8 = true ∧
       (∀ e, e ≤ 25 → e ≠ d → t.g (PWR.DOM_STAT.STATE e) = s.g (PWR.DOM_STAT.STATE e)) ∧
       t.g (FWC.SRC_STAT.EVENTS 3) = min (s.g (FWC.SRC_STAT.EVENTS 3) + 1) (2 ^ 32 - 1)))

/-- The rails and the sensors (R410, R463, R464, R467): WAKE_N in OFF, VDD_WAKE, the loss and the return of a power-good, the readings of the
regulators and a temperature sample. Groups 0 to 2 reset the device; the loss of group 7 fails the HBM domains that are above DEEP. It rests on the
model's choice of assumption 46. -/
def Obligations.PowerRails : Prop :=
  ∀ (s : State) (k sb sh : Nat) (a b : Bytes) (tests : Bool) (tj : Int) (rs : List (Nat × Nat × Nat × Nat)),
    let on := s.trust.phase ≠ 4 ∧ s.trust.phase ≠ 5
    (s.trust.phase = 4 → Gives .wakeNEvent s
      { s with trust := { s.trust with phase := 5 }, pins := { s.pins with regEn := 1 } }) ∧
    Gives .vddWakeApply s { s with pins := { s.pins with regEn := setBits s.pins.regEn 0 0 1 } } ∧
    (k < 3 → bit s.pins.regPg k = true → on → Completes (.regPgLoss k) s (fun t =>
      t.trust.phase = 0 ∧ bit t.pins.regPg k = false ∧ bit t.pins.pgReset k = true ∧ t.edryn = State.reset.edryn ∧
      ∀ x, x ∉ derivedRegs → (∀ g, g < 8 → x ≠ FWC.AGE.reg g) → t.reg x = regReset x)) ∧
    (k = 7 → bit s.pins.regPg k = true → on → s.noder = [] → s.aboveDeep 12 = true → s.aboveDeep 13 = true →
      Completes (.regPgLoss k) s (fun t => t.domState 12 = 11 ∧ t.domState 13 = 11 ∧ t.pins.alertN = false ∧
        t.gb (PWR.DOM_CTL.LOCKDOWN 12) = true ∧ t.gb (PWR.DOM_CTL.LOCKDOWN 13) = true ∧
        (t.reg (UNIT.EVT.reg PWR.base)).getLsbD 9 = true)) ∧
    (k < 8 → bit s.pins.pgReset k = false → Gives (.regPgRestore k sb sh a b tests) s { s with
      pins := { s.pins with regPg := setBits s.pins.regPg k k 1, pgReset := setBits s.pins.pgReset k k 0,
                            pgBack := s.edryn.clk } }) ∧
    (s.inService KEEPER.base = true → Completes (.regPoll rs) s (fun t =>
      Same { s with out := s.out ++ [.regulators (rs.filter (fun r => decide (r.1 < 8)))],
                    pins := { s.pins with readings := t.pins.readings } } t ∧
      ∀ r, rs = [r] → r.1 < 8 → tget 0 t.pins.readings (3 * r.1) = r.2.1 ∧
        tget 0 t.pins.readings (3 * r.1 + 1) = r.2.2.1 ∧ tget 0 t.pins.readings (3 * r.1 + 2) = r.2.2.2)) ∧
    (let warn : Int := 16 * s.g PIN.THERM.WARN
     (tj < warn → tj < 2000 → Gives (.thermSample tj) s { s.p PIN.THERM.TJ (wrapInt 16 tj) with
        pins := { s.pins with thermClk := s.edryn.clk } }) ∧
     (warn ≤ tj → tj < 2000 → Completes (.thermSample tj) s (fun t => t.g PIN.THERM.TJ = wrapInt 16 tj ∧
        t.g PIN.THERM.HOT = 1 ∧ t.pins.alertN = false ∧ (t.reg (UNIT.EVT.reg PIN.base)).getLsbD 9 = true ∧
        SameBut [PIN.THERM.reg, UNIT.EVT.reg PIN.base]
          { s with links := t.links, pins := { s.pins with thermClk := s.edryn.clk } } t)) ∧
     (2000 ≤ tj → Completes (.thermSample tj) s (fun t => t.g PIN.THERM.TRIP = 1 ∧ t.pins.thermTripN = false ∧
        t.alarmed = true ∧ t.kek = [] ∧ (t.reg (UNIT.EVT.reg PIN.base)).getLsbD 10 = true)))

/-- Fault windows (R301, R413, R414, R416, R418–R420): an event of a source is counted and told to the owning unit, and alerts where the source asks
for it; the event that fills its window is a lasting fault of its unit, for an SRAM bank with a spare left a row replaced; an uncorrectable error
marks the data for its reader; a pair's second mismatch makes it FAULTED; a slack below the warning level is an ageing event. The member's window
holds nothing before. It rests on the model's choice of assumption 121. -/
def Obligations.FaultWindows : Prop :=
  ∀ (s : State) (src m row owner arg g margin life : Nat),
    let Counted (k unit : Nat) (t : State) : Prop :=
      t.g (FWC.SRC_STAT.EVENTS k) = min (s.g (FWC.SRC_STAT.EVENTS k) + 1) (2 ^ 32 - 1) ∧
      (t.reg (UNIT.EVT.reg unit)).getLsbD 2 = true ∧
      (s.gb (FWC.SRC.ALERT_T k) = true → (t.reg FWC.ALERT.reg).getLsbD k = true ∧ t.pins.alertN = false)
    let Lasting (k unit : Nat) (t : State) : Prop :=
      t.g (FWC.SRC_STAT.LASTING k) = min (s.g (FWC.SRC_STAT.LASTING k) + 1) 65535 ∧
      (t.reg (UNIT.EVT.reg unit)).getLsbD 3 = true ∧ t.g FWC.LAST.SOURCE = k ∧ t.g FWC.LAST.MEMBER = m ∧
      (s.g (UNIT.FAULT.CODE unit) = 0 → t.g (UNIT.FAULT.CODE unit) = 0xF000 + k) ∧
      tget FaultWin.reset t.fwc (fwcKey k m) = FaultWin.reset ∧
      (s.gb (FWC.SRC.ALERT_L k) = true → (t.reg FWC.ALERT.reg).getLsbD k = true ∧ t.pins.alertN = false)
    let Stays (k unit : Nat) (t : State) : Prop :=
      (tget FaultWin.reset t.fwc (fwcKey k m)).times = [s.ns] ∧
      SameBut [FWC.SRC_STAT.reg k, UNIT.EVT.reg unit] { s with links := t.links, fwc := t.fwc, repair := t.repair } t
    let Empty (k : Nat) : Prop := tget FaultWin.reset s.fwc (fwcKey k m) = FaultWin.reset
    let Small (n : Nat) : Prop := 2 ≤ n ∧ n ≤ 16
    (m < 1536 → isUnit owner = true → s.noder = [] → Empty 0 →
      (Small (s.g (FWC.SRC.THRESH 0)) → Completes (.faultEvent 0 m row owner 0 0) s (fun t => Counted 0 owner t ∧ Stays 0 owner t)) ∧
      (s.g (FWC.SRC.THRESH 0) = 1 → tget 0 s.repair.spares m < 4 → Completes (.faultEvent 0 m row owner 0 0) s (fun t =>
        Counted 0 owner t ∧ Lasting 0 owner t ∧ tget 0 t.repair.spares m = tget 0 s.repair.spares m + 1 ∧
        t.repair.remap = s.repair.remap ++ [(m, row)] ∧ (t.reg (UNIT.EVT.reg FWC.base)).getLsbD 8 = true))) ∧
    (m < 2 ^ 25 → Empty 1 → Small (s.g (FWC.SRC.THRESH 1)) → s.repair.track.length < 4096 →
      Completes (.faultEvent 1 m row owner 0 0) s (fun t => Counted 1 (if m < 2 ^ 24 then 0x74_0000 else 0x78_0000) t ∧
        Stays 1 (if m < 2 ^ 24 then 0x74_0000 else 0x78_0000) t ∧ (m, s.ns) ∈ t.repair.track)) ∧
    (m < 20 → tget FaultWin.reset s.fwc (fwcKey 2 0) = FaultWin.reset → Small (s.g (FWC.SRC.THRESH 2)) →
      ∀ again : Bool, Completes (.faultEvent 2 m row owner (if again then 1 else 0) arg) s (fun t => Counted 2 SCARAB.base t ∧
        t.g SCARAB.MISMATCH.COUNT = min (s.g SCARAB.MISMATCH.COUNT + 1) (2 ^ 32 - 1) ∧ t.g SCARAB.MISMATCH.PAIR = m ∧
        (t.reg (UNIT.EVT.reg SCARAB.base)).getLsbD 9 = true ∧ t.alarmed = s.alarmed ∧
        (∀ e ∈ t.sops, e.1 = arg → e.2.retried = true) ∧
        (again = true → (t.reg SCARAB.PAIR_FAULT.reg).getLsbD m = true ∧
          (t.reg (UNIT.EVT.reg SCARAB.base)).getLsbD 14 = true))) ∧
    (src = 4 → m < 4 → Empty 4 → Small (s.g (FWC.SRC.THRESH 4)) → Completes (.faultEvent 4 m row owner 0 0) s (fun t =>
      Counted 4 (HOSTLINK.base m) t ∧ Stays 4 (HOSTLINK.base m) t)) ∧
    (src = 5 → m < 8 → Empty 5 → Small (s.g (PORT.FEC_BOUND.SYMBOLS m)) → Completes (.faultEvent 5 m row owner 0 0) s (fun t =>
      Counted 5 (PORT.base m) t ∧ (tget FaultWin.reset t.fwc (fwcKey 5 m)).times = [s.ns] ∧
      t.g (PORT.FEC_BOUND.CORRECTED m) = min (s.g (PORT.FEC_BOUND.CORRECTED m) + 1) (2 ^ 32 - 1) ∧
      t.g (PORT.FEC_BOUND.SYMBOLS m) = s.g (PORT.FEC_BOUND.SYMBOLS m) ∧
      SameBut [FWC.SRC_STAT.reg 5, UNIT.EVT.reg (PORT.base m), PORT.FEC_BOUND.reg m] { s with links := t.links, fwc := t.fwc, repair := t.repair } t)) ∧
    (m < 1536 → Empty 6 → s.noder = [] → owner = RING.base → tget 0 s.repair.spares m < 4 → (2, arg) ∉ s.poison →
      Completes (.faultEvent 6 m row owner 2 arg) s (fun t => Counted 6 owner t ∧ Lasting 6 owner t ∧
        t.poison = s.poison ++ [(2, arg)] ∧ tget 0 t.repair.spares m = tget 0 s.repair.spares m + 1)) ∧
    (g < 8 →
      let Sampled (t : State) : Prop := t.g (FWC.AGE.MARGIN_PS g) = min margin 65535 ∧
        t.g (FWC.AGE.LIFE_H g) = min (s.g (FWC.AGE.LIFE_H g) + life) (2 ^ 32 - 1) ∧
        t.g (FWC.AGE.WARN_PS g) = s.g (FWC.AGE.WARN_PS g)
      (s.g (FWC.AGE.WARN_PS g) ≤ margin → Completes (.ageingSample g margin life) s (fun t => Sampled t ∧
        SameBut [FWC.AGE.reg g] s t)) ∧
      (margin < s.g (FWC.AGE.WARN_PS g) → Completes (.ageingSample g margin life) s (fun t => Sampled t ∧
        Counted 7 FWC.base t ∧ (t.reg (UNIT.EVT.reg FWC.base)).getLsbD 10 = true)))

/-- Reset, start-up and its end, and recovery (R11, R399, R422–R424): SYS_RST_N low gives every register its reset value; start-up with the
power-goods of groups 1 and 2 samples the straps, stops where self-tests fail, runs the first image of the order where it passes and enters recovery
where none does. It rests on the model's choices of assumptions 114, 115 and 116. -/
def Obligations.BootSequence : Prop :=
  ∀ (s : State) (actor k sb sh : Nat) (a b : Bytes) (tests : Bool) (v : Word),
    let on := s.trust.phase ≠ 4 ∧ s.trust.phase ≠ 5
    let img (j : Nat) : Bytes := (if j = 0 then a else b).take (64 * 2 ^ 20)
    let good (r : Nat) : Prop := ∀ j, j = 1 ∨ j = 2 → j = r ∨ bit s.pins.regPg j = true
    let starts (c : Instr) : Prop :=
      (c = .sysResetRelease sb sh a b tests ∧ s.trust.phase = 0 ∧ s.pins.pgReset = 0 ∧ good 0) ∨
      (c = .offWakeRelease sb sh a b tests ∧ s.trust.phase = 5 ∧ bit s.pins.regPg 0 = true ∧ good 0) ∨
      (c = .regPgRestore k sb sh a b tests ∧ k < 3 ∧ bit s.pins.pgReset k = true ∧ setBits s.pins.pgReset k k 0 = 0 ∧
        s.pins.sysRstN = true ∧ s.trust.phase = 0 ∧ good k)
    (on → Completes .sysResetAssert s (fun t => t.trust.phase = 0 ∧ t.pins.sysRstN = false ∧ t.edryn = State.reset.edryn ∧
      t.thread = [] ∧ t.descs = [] ∧ t.slots = [] ∧ t.trust.words = [] ∧
      t.trust.fuseFloor = s.trust.fuseFloor ∧ t.trust.fuseRevoked = s.trust.fuseRevoked ∧ t.trust.fuseKeys = s.trust.fuseKeys ∧
      ∀ x, x ∉ derivedRegs → (∀ g, g < 8 → x ≠ FWC.AGE.reg g) → t.reg x = regReset x)) ∧
    (∀ c, starts c → Completes c s (fun t =>
      (tests = false → t.trust.phase = 6 ∧ t.g KEEPER.BOOT_STAT.STRAP_BOOT = sb % 8 ∧
        t.g KEEPER.BOOT_STAT.STRAP_HOST = sh % 4) ∧
      (tests = true → ∀ j, (bootOrder (sb % 8)).head? = some j → s.bootReason (img j) = 0 →
        t.trust.phase = 1 ∧ t.pins.regEn = 0xFF) ∧
      (tests = true → (∀ j ∈ bootOrder (sb % 8), s.bootReason (img j) ≠ 0) →
        t.trust.phase = 3 ∧ t.g KEEPER.BOOT_STAT.IMAGE = 2 ∧ t.pins.alertN = false))) ∧
    (s.trust.phase = 1 → Completes .bootComplete s (fun t => t.trust.phase = 2 ∧
      (∀ d, 1 ≤ d → d ≤ 25 → t.vote d 0 = ⟨0, 0x2000, s.ns⟩ ∧ t.targetOf d = 0 ∧ bit (t.g (PWR.DOM_STAT.HOLDS d)) 3 = false) ∧
      t.g KEEPER.BOOT_NS.NS = s.ns % 2 ^ 64)) ∧
    (MayWrite s actor KEEPER.RECOVER.reg → v.getLsbD 0 = true → s.trust.phase = 3 →
      let x := stagedBytes s.trust.image
      Completes (.recoverGo actor v) s (fun t => t.g KEEPER.RECOVER.RESULT = s.bootReason x + 1 ∧
        (s.bootReason x = 0 → t.out = s.out ++ [.flash ((bootOrder s.trust.strapBoot).headD 0) (x.take (imgLen x))] ∧
          (t.reg (UNIT.EVT.reg KEEPER.base)).getLsbD 11 = true) ∧
        (s.bootReason x ≠ 0 → Same (s.p KEEPER.RECOVER.RESULT (s.bootReason x + 1)) t)))

/-- A change record submitted by a party (R434–R436; RESULT 1 APPLIED, 2 PENDING, 3 MISMATCH, 4 EXPIRED): one that a check refuses changes no word;
one that passes waits for the other party's same record for 30 s, and applies when that comes. A submission whose window is over waits no longer. It
rests on the model's choice of assumption 117. -/
def Obligations.ChitinChanges : Prop :=
  ∀ (s : State) (actor session p : Nat) (v : Word) (b : Bytes) (c : Instr),
    let submits := (c = .chitinSubmitH actor v ∧ v.getLsbD 0 = true ∧ actor = s.owner ∧
        MayWrite s actor CHITIN.SUBMIT_H.reg ∧ b = s.stagedRecord ∧ p = 1) ∨
      (c = .chitinSubmitP session b ∧ s.trust.sessions.contains (session, true) = true ∧ p = 2)
    let Kept (t : State) : Prop := t.trust.words = s.trust.words ∧ t.g CHITIN.EPOCH.VALUE = s.g CHITIN.EPOCH.VALUE
    let waits := s.trust.pend.filter (fun e => s.edryn.clk < e.2.2)
    (submits →
      (∀ r k, s.chitinCheck b = .inl (r, k) → Completes c s (fun t => Kept t ∧ t.trust.pend = waits ∧
        t.g CHITIN.CHG_STAT.RESULT = r ∧ t.g CHITIN.CHG_STAT.STATUS = 2)) ∧
      (∀ u, s.chitinCheck b = .inr u → waits = none → Completes c s (fun t => Kept t ∧
        t.trust.pend = some (p, b, s.edryn.clk + chitinWindow) ∧ t.g CHITIN.CHG_STAT.RESULT = 2 ∧
        t.g CHITIN.CHG_STAT.STATUS = 0 ∧ t.g CHITIN.CHG_STAT.H_PENDING = b2n (p == 1) ∧
        t.g CHITIN.CHG_STAT.P_PENDING = b2n (p == 2))) ∧
      (∀ u q b' w, s.chitinCheck b = .inr u → waits = some (q, b', w) → Completes c s (fun t =>
        (q = p → Kept t ∧ t.trust.pend = some (p, b, w) ∧ t.g CHITIN.CHG_STAT.RESULT = 2) ∧
        (q ≠ p → b' ≠ b → Kept t ∧ t.trust.pend = none ∧ t.g CHITIN.CHG_STAT.RESULT = 3) ∧
        (q ≠ p → b' = b → t.trust.words = u.trust.words ∧ t.trust.pend = none ∧ t.g CHITIN.CHG_STAT.RESULT = 1 ∧
          t.g CHITIN.EPOCH.VALUE = (s.g CHITIN.EPOCH.VALUE + 1) % 2 ^ 64)))) ∧
    (∀ q b' w, s.trust.pend = some (q, b', w) → w ≤ s.edryn.clk → Completes .chitinWindowExpire s (fun t => Kept t ∧
      t.trust.pend = none ∧ t.g CHITIN.CHG_STAT.RESULT = 4 ∧ (t.reg (UNIT.EVT.reg CHITIN.base)).getLsbD 9 = true ∧
      SameBut [CHITIN.CHG_STAT.reg, UNIT.EVT.reg CHITIN.base] { s with links := t.links, trust := t.trust } t))

/-- SPDM sessions (R430, R431) and the JTAG port (R437). Every request that the Keeper answers gets one answer; FINISH makes a session Party P's only
where its certificate chain ends in the root that Chitin holds. Without the DEBUG word a register access answers zeros, records DENIED and changes
nothing. It rests on the model's choice of assumption 113. -/
def Obligations.TrustPorts : Prop :=
  ∀ (s : State) (code session addr : Nat) (root body : Bytes) (ok wide : Bool) (v : Word),
    let ss := s.trust.sessions
    let x := s.regRead 0x2002 addr wide
    let y := (s.regWrite 0x2002 addr wide v).2
    let debug := bit (s.chitin 5) 0
    (s.keeperUp = true → Completes (.spdmRequest code session root ok body) s (fun t =>
      (∃ m, t.out = s.out ++ [.spdm m]) ∧ t.free = s.free + 1 ∧ t.trust.words = s.trust.words ∧
      (code = 0xE4 → ss.length < 2 → (∀ e ∈ ss, e.1 ≠ session) → t.trust.sessions = ss ++ [(session, false)]) ∧
      (code = 0xE4 → 2 ≤ ss.length → t.trust.sessions = ss) ∧
      (code = 0xE5 → ok = true → root = s.pmcRoot → allZero root = false →
        t.trust.sessions = ss.map (fun e => if e.1 = session then (session, true) else e)) ∧
      (code = 0xE5 → ok = false ∨ root ≠ s.pmcRoot → t.trust.sessions = ss) ∧
      (code = 0xEC → t.trust.sessions = ss.filter (fun e => e.1 != session)))) ∧
    Gives (.jtagAccess 0 addr wide v) s { s with out := s.out ++ [.jtag 0] } ∧
    Gives (.jtagAccess 1 addr wide v) s { s with out := s.out ++ [.jtag 0x107163D3] } ∧
    (aligned addr wide = true → debug = true →
      Gives (.jtagAccess 4 addr wide v) s { y with pending := s.pending } ∧
      ∀ w, x.1 = .val w → Gives (.jtagAccess 3 addr wide v) s
        { x.2 with out := x.2.out ++ [.jtag w], pending := s.pending }) ∧
    (debug = false → ∀ op, op = 3 ∨ op = 4 → Completes (.jtagAccess op addr wide v) s (fun t =>
      SameBut [UNIT.EVT.reg DEBUG.base] { s with out := s.out ++ [.jtag 0], links := t.links } t ∧
      (t.reg (UNIT.EVT.reg DEBUG.base)).getLsbD 8 = true))

/-- Port modes (R439, R440): a write that meets both conditions gives the port its mode and REASON REQUEST (1), and the other ports of its lanes
NOT_FITTED (5); MODE 0 gives the port NOT_FITTED again; any other write is ignored with ERROR. -/
def Obligations.PortModes : Prop :=
  ∀ (s : State) (actor p : Nat) (v : Word), p < 8 → MayWrite s actor (PORT.MODE.reg p) →
    let m := getF v 3 0
    let lanes := (List.range (max 1 (modeLanes m))).map (fun k => p + k)
    let ok := modeOk m p = true ∧ (∀ q ∈ lanes, s.cur (PORT.base q) = 2) ∧
      (m = 0 ∨ ∀ q, q < 8 → q ≠ p → s.occupies q p (modeLanes m) = false)
    (ok → Completes (.portModeWrite actor p v) s (fun t =>
      t.g (PORT.MODE.MODE p) = m ∧ t.g (PORT.MODE.IF p) = getF v 4 4 ∧
      t.ownCur (PORT.base p) = 2 ∧ t.g (UNIT.SVC.REASON (PORT.base p)) = (if m = 0 then 5 else 1) ∧
      (∀ q ∈ lanes, q ≠ p → t.ownCur (PORT.base q) = 2 ∧ t.g (UNIT.SVC.REASON (PORT.base q)) = 5) ∧
      SameBut (PORT.MODE.reg p :: UNIT.EVT.reg 0 :: lanes.map (fun q => UNIT.SVC.reg (PORT.base q)))
        { s with links := t.links } t)) ∧
    (¬ ok → Completes (.portModeWrite actor p v) s (fun t =>
      (t.reg (UNIT.EVT.reg (PORT.base p))).getLsbD 6 = true ∧
      SameBut [UNIT.EVT.reg (PORT.base p)] { s with links := t.links } t))

/-- Links, preemption and re-calibration (R445, R449): a port that trains comes up and takes ACTIVE where verification is off; a link that falls is
counted and ends ACTIVE; an attempt of the verification succeeds, or is counted until the third; a re-calibration ends with its result and its time.
No timed packet waits for the port. -/
def Obligations.PortLinks : Prop :=
  ∀ (s : State) (p : Nat), p < 8 → s.beeline = [] →
    let stat := PORT.STAT.reg p
    let pre := PORT.PREEMPT.reg p
    let evt := UNIT.EVT.reg (PORT.base p)
    let en := s.gb (PORT.PREEMPT.EN p)
    let dis := s.gb (PORT.PREEMPT.VERIFY_DIS p)
    let active := s.gb (PORT.PREEMPT.ACTIVE p)
    let link := s.gb (PORT.STAT.LINK p)
    let v := s.portSt p
    let ms := (s.edryn.clk + 1 - v.calClk) / 1_500_000
    (link = false → s.trains p = true → active = false → v.xoffSent = 0 → Completes (.linkUp p) s (fun t =>
      t.gb (PORT.STAT.LINK p) = true ∧ t.g (PORT.STAT.TRAINING p) = 0 ∧ (t.reg evt).getLsbD 8 = true ∧
      t.gb (PORT.PREEMPT.ACTIVE p) = (en && dis) ∧ (en = true → dis = true → (t.reg evt).getLsbD 10 = true) ∧
      t.portSt p = (if en && !dis then { v with verifyTries := 0, verifyClk := s.edryn.clk } else v) ∧
      (∀ q, q ≠ p → t.portSt q = s.portSt q) ∧
      SameBut [stat, pre, evt] { s with links := t.links, port := t.port } t)) ∧
    (link = true → Completes (.linkDown p) s (fun t =>
      t.gb (PORT.STAT.LINK p) = false ∧ t.g (PORT.STAT.TRAINING p) = b2n (s.trains p) ∧
      t.g (PORT.STAT.DOWNS p) = min (s.g (PORT.STAT.DOWNS p) + 1) (2 ^ 32 - 1) ∧ t.gb (PORT.PREEMPT.ACTIVE p) = false ∧
      (t.reg evt).getLsbD 8 = true ∧ (active = true → (t.reg evt).getLsbD 10 = true) ∧
      SameBut [stat, pre, evt] { s with links := t.links } t)) ∧
    (en = true → dis = false → link = true → active = false → v.verifyTries < 3 →
      Completes (.preemptVerify p true) s (fun t => t.gb (PORT.PREEMPT.ACTIVE p) = true ∧
        t.g (PORT.PREEMPT.VERIFY_FAILED p) = 0 ∧ (t.reg evt).getLsbD 10 = true ∧
        SameBut [pre, evt] { s with links := t.links } t) ∧
      (v.verifyClk + 15_000_000 ≤ s.edryn.clk → Completes (.preemptVerify p false) s (fun t =>
        t.portSt p = { v with verifyTries := v.verifyTries + 1, verifyClk := s.edryn.clk } ∧
        (∀ q, q ≠ p → t.portSt q = s.portSt q) ∧ t.gb (PORT.PREEMPT.ACTIVE p) = false ∧
        (v.verifyTries = 2 → t.g (PORT.PREEMPT.VERIFY_FAILED p) = 1) ∧
        SameBut (if v.verifyTries = 2 then [pre] else []) { s with port := t.port } t))) ∧
    (v.calClk ≠ 0 → s.cur (PORT.base p) = svcUpdating ∨ s.cur (PORT.base p) = svcIn → link = true ∨ 40 ≤ ms →
      Completes (.calDone p) s (fun t => t.g (PORT.CAL.RESULT p) = (if link then 1 else 2) ∧
        t.g (PORT.CAL.MS p) = min ms 65535 ∧ (t.reg evt).getLsbD 11 = true ∧
        t.portSt p = { v with calClk := 0 } ∧ (∀ q, q ≠ p → t.portSt q = s.portSt q) ∧
        SameBut [PORT.CAL.reg p, evt] { s with links := t.links, port := t.port } t))

/-- Pause (R256, R444): a PFC frame pauses each enabled class that it names for its quanta of 512 bit times and resumes it with 0, a PAUSE frame all
eight; either is an error of reason 7 while its kind is off; a pause runs out; XOFF is sent again to a class when half the pause time has passed since
its last sending; a pause without a break for WATCHDOG.MS is a storm. No timed packet waits for the port. -/
def Obligations.PortPauses : Prop :=
  ∀ (s : State) (p k : Nat) (vec : Nat) (q : List Nat), p < 8 → k < 8 → s.beeline = [] →
    let v := s.portSt p
    let stat := PORT.STAT.reg p
    let Follows (on : Nat → Bool) (quanta : Nat → Nat) (t : State) : Prop :=
      (∀ j, j < 8 → on j = false → t.isPaused p j = s.isPaused p j) ∧
      (∀ j, j < 8 → on j = true → quanta j = 0 → t.isPaused p j = false) ∧
      (∀ j, j < 8 → on j = true → quanta j ≠ 0 → t.isPaused p j = true ∧
        tget 0 (t.portSt p).pauseEnd j = s.edryn.clk + s.quantaClk p (quanta j)) ∧
      (∀ o, o ≠ p → t.portSt o = s.portSt o) ∧ SameBut [stat] { s with port := t.port } t
    let Refused (t : State) : Prop :=
      t.g (PORT.RX_ERR.COUNT p 7) = min (s.g (PORT.RX_ERR.COUNT p 7) + 1) (2 ^ 48 - 1) ∧
      (t.reg (UNIT.EVT.reg (PORT.base p))).getLsbD 9 = true ∧
      SameBut [PORT.RX_ERR.reg p 7, UNIT.EVT.reg (PORT.base p)] { s with links := t.links } t
    (s.lineRx p = true →
      (s.g (PORT.MAC_CFG.PFC_EN p) ≠ 0 → Completes (.pauseFrameRx p true vec q) s
        (Follows (fun j => bit vec j && s.pfcEn p j) (fun j => q.getD j 0))) ∧
      (s.pauseEn p = true → Completes (.pauseFrameRx p false vec q) s (Follows (fun _ => true) (fun _ => q.headD 0))) ∧
      (s.g (PORT.MAC_CFG.PFC_EN p) = 0 → Completes (.pauseFrameRx p true vec q) s Refused) ∧
      (s.pauseEn p = false → Completes (.pauseFrameRx p false vec q) s Refused)) ∧
    (tget 0 v.pauseEnd k ≤ s.edryn.clk → Completes (.pauseExpire p k) s (Follows (fun j => j == k) (fun _ => 0))) ∧
    (let due (j : Nat) : Bool := bit v.xoffSent j && decide (s.quantaClk p 0xFFFF ≤ 2 * (s.edryn.clk - tget 0 v.xoffClk j))
     s.gb (PORT.STAT.LINK p) = true → s.g (PORT.LOOPBACK.MODE p) = 0 → s.pauseEn p = false →
      Completes (.pfcRefresh p) s (fun t =>
        t.out = s.out ++ ((List.range 8).filter due).map (fun j => .pfc p j 0xFFFF) ∧
        (∀ j, j < 8 → due j = true → tget 0 (t.portSt p).xoffClk j = s.edryn.clk) ∧
        (∀ j, j < 8 → bit (t.portSt p).xoffSent j = bit v.xoffSent j) ∧
        (∀ o, o ≠ p → t.portSt o = s.portSt o) ∧ Same { s with out := t.out, port := t.port } t)) ∧
    (s.isPaused p k = true → tget 0 v.pauseFrom k ≠ 0 → bit v.stormed k = false → s.g COMB.WATCHDOG.MS ≠ 0 →
      s.g COMB.WATCHDOG.MS * 1_500_000 ≤ s.edryn.clk + 1 - tget 0 v.pauseFrom k → Completes (.pauseStorm p k) s (fun t =>
        t.g COMB.WATCHDOG.PORT = p ∧ t.g COMB.WATCHDOG.TC = k ∧ t.g COMB.WATCHDOG.MS = s.g COMB.WATCHDOG.MS ∧
        (t.reg (UNIT.EVT.reg COMB.base)).getLsbD 9 = true ∧ bit (t.portSt p).stormed k = true ∧
        SameBut [COMB.WATCHDOG.reg, UNIT.EVT.reg COMB.base] { s with links := t.links, port := t.port } t))

/-- Frames (R32, R244–R246, R253, R441–R443, R448, R451): each reason to discard a received frame is counted; a good frame takes its cells, a
descriptor and its place in its admission queue, and holds FABRIC while it wakes; one that no rule and no flow matches is punted as a MISS; the end of
a transmission frees the descriptor, and the cells with the last one. `dt` is the class that the frame takes. It rests on the model's choice of
assumption 81. -/
def Obligations.PortFrames : Prop :=
  ∀ (s : State) (p cap : Nat) (b : Bytes) (down fec asm fcs : Bool), p < 8 →
    s.notFitted (PORT.base p) = false → (s.portDoms p).all s.domUp = true →
    let err := UNIT.EVT.reg (PORT.base p)
    let n := b.length + 4
    let up := s.portUp p = true ∧ down = false
    let Discarded (r : Nat) : Prop := Completes (.frameReceive p b cap down fec asm fcs) s (fun t =>
      t.g (PORT.RX_ERR.COUNT p r) = min (s.g (PORT.RX_ERR.COUNT p r) + 1) (2 ^ 48 - 1) ∧
      (t.reg err).getLsbD 9 = true ∧ SameBut [PORT.RX_ERR.reg p r, err] { s with links := t.links } t)
    let dt := s.ingressTc p (parseFrame (s.cfgOf s.seq) b) b
    let a := s.acctOf p dt
    let k := s.serial + 1
    let d := s.serial + 2
    let Stands (t : State) : Prop :=
      t.pkt k = { Pkt.none with bytes := b, cells := ceilDiv b.length 256, refs := 1, acct := some a } ∧
      (t.desc d).pkt = k ∧ (t.desc d).bytes = b ∧ (t.desc d).src = p ∧ (t.desc d).tc = dt ∧
      (t.desc d).ts = s.ingressTime p cap ∧
      t.ag a PA.u = s.ag a PA.u + ceilDiv b.length 256 ∧ t.poolUsed = s.poolUsed + ceilDiv b.length 256
    (s.g (PORT.LOOPBACK.MODE p) = 0 →
      (s.portUp p = false ∨ down = true → Discarded 6) ∧
      (up → fec = true → Discarded 3) ∧
      (up → fec = false → asm = true → Discarded 5) ∧
      (up → fec = false → asm = false → n < 64 → Discarded 1) ∧
      (up → fec = false → asm = false → 64 ≤ n → s.g (PORT.MAC_CFG.MAX_FRAME p) < n → Discarded 2) ∧
      (up → fec = false → asm = false → 64 ≤ n → n ≤ s.g (PORT.MAC_CFG.MAX_FRAME p) → fcs = false → Discarded 0) ∧
      (up → fec = false → asm = false → 64 ≤ n → n ≤ s.g (PORT.MAC_CFG.MAX_FRAME p) → fcs = true → beAt b 12 2 = 0x8808 →
        beAt b 14 2 ≠ 0x0101 → beAt b 14 2 ≠ 0x0001 → Discarded 7) ∧
      (up → fec = false → asm = false → 64 ≤ n → n ≤ s.g (PORT.MAC_CFG.MAX_FRAME p) → fcs = true →
        beAt b 12 2 ≠ 0x8808 → tblWf (fun _ => acctDefault) s.accts = true → s.inXoff a = false → (∀ o, o < 8 → s.xoffClasses o = []) →
        s.g COMB.SHARED_XOFF.XOFF + ceilDiv b.length 256 < s.poolFree → s.ag a PA.u + ceilDiv b.length 256 < 2 ^ 32 →
        s.descs.length < 524288 → (∀ e ∈ s.descs, e.1 ≤ s.serial) → (∀ e ∈ s.pkts, e.1 ≤ s.serial) →
        (∀ e ∈ s.admq, d ∉ e.2) → NoHold s (xferPkt d) →
        let Queued (t : State) : Prop :=
          ∀ x, tget [] t.admq x = (if x = 8 * p + dt then tget [] s.admq x ++ [d] else tget [] s.admq x)
        (s.domState 1 = 9 → Completes (.frameReceive p b cap down fec asm fcs) s (fun t => Stands t ∧ Queued t ∧
          t.pipeWait = s.pipeWait ++ [d] ∧ t.xfer = s.xfer ++ [(1, xferPkt d)] ∧ t.domState 1 = 9 ∧
          bit (t.g (PWR.DOM_STAT.HOLDS 1)) 0 = true ∧
          SameBut [PWR.DOM_STAT.reg 1] { s with
            accts := t.accts, poolUsed := t.poolUsed, pkts := t.pkts, descs := t.descs, gens := t.gens, serial := d,
            free := s.free + 1, pipeWait := t.pipeWait, admq := t.admq, xfer := t.xfer } t)) ∧
        (s.domState 1 = 0 → s.pipeUp = true → s.rules = [] → s.flows = [] → s.pcfg = [] →
          (parseFrame pcfgDefault b).cls = 0 →
          Completes (.frameReceive p b cap down fec asm fcs) s (fun t => Stands t ∧ Queued t ∧ (t.desc d).reason = 0x01 ∧
            (t.desc d).ver = s.seq ∧ (t.desc d).place = .adm (8 * p + dt) ∧
            t.g CLASS.NOMATCH.COUNT = satAdd (CLASS.NOMATCH.COUNT.hi + 1 - CLASS.NOMATCH.COUNT.lo) (s.g CLASS.NOMATCH.COUNT) 1 ∧
            t.g FLOW.LOOKUP.MISS = satAdd (FLOW.LOOKUP.MISS.hi + 1 - FLOW.LOOKUP.MISS.lo) (s.g FLOW.LOOKUP.MISS) 1)))) ∧
    (∀ x, s.onWire p = [x] → s.g (PORT.LOOPBACK.MODE p) = 0 ∨ s.g (PORT.LOOPBACK.MODE p) = 3 →
      (s.pkt (s.desc x).pkt).work = none → (s.desc x).txts = none →
      let c := (s.desc x).pkt
      ((s.pkt c).refs = 1 → Completes (.frameTransmitDone p) s (fun t =>
        t.descs = tdel s.descs x ∧ t.pkts = tdel s.pkts c)) ∧
      (2 ≤ (s.pkt c).refs → Completes (.frameTransmitDone p) s (fun t =>
        t.descs = tdel s.descs x ∧ t.pkt c = { s.pkt c with refs := (s.pkt c).refs - 1 } ∧
        (∀ o, o ≠ c → t.pkt o = s.pkt o) ∧ t.poolUsed = s.poolUsed ∧ t.accts = s.accts))) ∧
    Gives (.ncsiFrameRx b) s { s with ncsi := s.ncsi ++ [b] }
end

