-- ==== Sys2Proof/Laws/Table.lean ====
section
/-! SUPPORT. What the sparse tables do: a read after a write, the canonical form, and memories by byte. -/

namespace Sys2Proof.Machine

variable {α : Type}

@[simp] theorem tget_tins_same (d : α) (t : Tbl α) (k : Nat) (v : α) : tget d (tins k v t) k = v := by
  induction t with
  | nil => simp [tins, tget]
  | cons e r ih =>
    obtain ⟨a, w⟩ := e
    by_cases h1 : k < a
    · simp [tins, h1, tget]
    · by_cases h2 : k = a
      · simp [tins, h2, tget]
      · simp [tins, h1, h2, tget, ih]

theorem tget_tins_ne (d : α) (t : Tbl α) {k j : Nat} (v : α) (h : j ≠ k) : tget d (tins k v t) j = tget d t j := by
  induction t with
  | nil => simp [tins, tget, h]
  | cons e r ih =>
    obtain ⟨a, w⟩ := e
    by_cases h1 : k < a
    · simp [tins, h1, tget, h]
    · by_cases h2 : k = a
      · subst h2; simp [tins, tget, h]
      · simp [tins, h1, h2, tget, ih]

@[simp] theorem tget_tdel_same (d : α) (t : Tbl α) (k : Nat) : tget d (tdel t k) k = d := by
  induction t with
  | nil => rfl
  | cons e r ih =>
    obtain ⟨a, w⟩ := e
    by_cases h : a = k
    · simpa [tdel, h] using ih
    · have h' : ¬ k = a := fun x => h x.symm
      simpa [tdel, h, h', tget] using ih

theorem tget_tdel_ne (d : α) (t : Tbl α) {k j : Nat} (h : j ≠ k) : tget d (tdel t k) j = tget d t j := by
  induction t with
  | nil => rfl
  | cons e r ih =>
    obtain ⟨a, w⟩ := e
    by_cases h1 : a = k
    · have h2 : ¬ j = a := fun x => h (x.trans h1)
      simpa [tdel, h1, tget, h2, h] using ih
    · by_cases h2 : j = a
      · simp [tdel, h1, tget, h2]
      · simpa [tdel, h1, tget, h2] using ih

/-- A read of the key just written gives the value written. -/
@[simp] theorem tget_tset_same [DecidableEq α] (d : α) (t : Tbl α) (k : Nat) (v : α) : tget d (tset d t k v) k = v := by
  by_cases h : v = d
  · simp [tset, h]
  · simp [tset, h]

/-- A write leaves every other key alone. -/
theorem tget_tset_ne [DecidableEq α] (d : α) (t : Tbl α) {k j : Nat} (v : α) (h : j ≠ k) :
    tget d (tset d t k v) j = tget d t j := by
  by_cases hv : v = d
  · simp [tset, hv, tget_tdel_ne d t h]
  · simp [tset, hv, tget_tins_ne d t v h]

/-- Both at once. -/
theorem tget_tset [DecidableEq α] (d : α) (t : Tbl α) (k j : Nat) (v : α) :
    tget d (tset d t k v) j = if j = k then v else tget d t j := by
  by_cases h : j = k
  · subst h; simp
  · simp [h, tget_tset_ne d t v h]

/-! The canonical form. -/

theorem tins_keys (k : Nat) (v : α) (t : Tbl α) (b : Nat) (hb : b < k) (h : t.all (fun e => decide (b < e.1)) = true) :
    (tins k v t).all (fun e => decide (b < e.1)) = true := by
  induction t with
  | nil => simp [tins, hb]
  | cons e r ih =>
    obtain ⟨a, w⟩ := e
    simp only [List.all_cons, Bool.and_eq_true, decide_eq_true_eq] at h
    by_cases h1 : k < a
    · simp only [tins, h1, if_true, List.all_cons, Bool.and_eq_true, decide_eq_true_eq]
      exact ⟨hb, h.1, h.2⟩
    · by_cases h2 : k = a
      · simp only [tins, h2, Nat.lt_irrefl, if_true, if_false, List.all_cons, Bool.and_eq_true, decide_eq_true_eq]
        exact ⟨h.1, h.2⟩
      · simp only [tins, h1, h2, if_false, List.all_cons, Bool.and_eq_true, decide_eq_true_eq]
        exact ⟨h.1, ih h.2⟩

theorem tins_wf [DecidableEq α] (d : Nat → α) (k : Nat) (v : α) (t : Tbl α) (hv : v ≠ d k) (h : tblWf d t = true) :
    tblWf d (tins k v t) = true := by
  induction t with
  | nil => simp [tins, tblWf, hv]
  | cons e r ih =>
    obtain ⟨a, w⟩ := e
    simp only [tblWf, Bool.and_eq_true, decide_eq_true_eq] at h
    obtain ⟨⟨hw, hr⟩, hwf⟩ := h
    by_cases h1 : k < a
    · have hk : tins k v ((a, w) :: r) = (k, v) :: (a, w) :: r := by simp [tins, h1]
      rw [hk]
      simp only [tblWf, List.all_cons, Bool.and_eq_true, decide_eq_true_eq]
      refine ⟨⟨hv, h1, ?_⟩, ⟨hw, hr⟩, hwf⟩
      rw [List.all_eq_true] at hr ⊢
      intro e he
      have := hr e he
      simp only [decide_eq_true_eq] at this ⊢
      omega
    · by_cases h2 : k = a
      · subst h2
        simp only [tins, Nat.lt_irrefl, if_true, if_false, tblWf, Bool.and_eq_true, decide_eq_true_eq]
        exact ⟨⟨hv, hr⟩, hwf⟩
      · simp only [tins, h1, h2, if_false, tblWf, Bool.and_eq_true, decide_eq_true_eq]
        exact ⟨⟨hw, tins_keys k v r a (by omega) hr⟩, ih hwf⟩

theorem tdel_wf [DecidableEq α] (d : Nat → α) (k : Nat) (t : Tbl α) (h : tblWf d t = true) :
    tblWf d (tdel t k) = true := by
  induction t with
  | nil => rfl
  | cons e r ih =>
    obtain ⟨a, w⟩ := e
    simp only [tblWf, Bool.and_eq_true, decide_eq_true_eq] at h
    obtain ⟨⟨hw, hr⟩, hwf⟩ := h
    by_cases h1 : a = k
    · simpa [tdel, h1] using ih hwf
    · have hk : tdel ((a, w) :: r) k = (a, w) :: tdel r k := by simp [tdel, h1]
      rw [hk]
      simp only [tblWf, Bool.and_eq_true, decide_eq_true_eq]
      refine ⟨⟨hw, ?_⟩, ih hwf⟩
      rw [List.all_eq_true] at hr ⊢
      intro e he
      exact hr e (List.mem_filter.mp he).1

/-- A write keeps the canonical form. -/
theorem tset_wf [DecidableEq α] (d : α) (t : Tbl α) (k : Nat) (v : α) (h : tblWf (fun _ => d) t = true) :
    tblWf (fun _ => d) (tset d t k v) = true := by
  by_cases hv : v = d
  · simpa [tset, hv] using tdel_wf (fun _ => d) k t h
  · simpa [tset, hv] using tins_wf (fun _ => d) k v t hv h

/-! Memories by byte. -/

/-- A memory's canonical form: addresses strictly rising, no byte listed that an unlisted address reads as. -/
abbrev memWf (m : Tbl Byte) : Prop := tblWf (fun _ => (0 : Byte)) m = true

theorem mread_length (m : Tbl Byte) (a n : Nat) : (mread m a n).length = n := by
  induction n generalizing a with
  | zero => rfl
  | succ n ih => simp [mread, ih]

/-- Every write of bytes keeps the canonical form. -/
theorem mwrite_wf (m : Tbl Byte) (a : Nat) (bs : Bytes) (h : memWf m) : memWf (mwrite m a bs) := by
  induction bs generalizing m a with
  | nil => exact h
  | cons b r ih => exact ih _ _ (tset_wf 0 m a b h)

/-- A byte outside the bytes written reads as before. -/
theorem mwrite_out (m : Tbl Byte) (a j : Nat) (bs : Bytes) (h : j < a ∨ a + bs.length ≤ j) :
    tget 0 (mwrite m a bs) j = tget 0 m j := by
  induction bs generalizing m a with
  | nil => rfl
  | cons b r ih =>
    simp only [List.length_cons] at h
    rw [mwrite, ih _ _ (by omega), tget_tset_ne _ _ _ (by omega)]

/-- A byte inside them reads as written. -/
theorem mwrite_in (m : Tbl Byte) (a j : Nat) (bs : Bytes) (h : j < bs.length) :
    tget 0 (mwrite m a bs) (a + j) = bs[j] := by
  induction bs generalizing m a j with
  | nil => simp at h
  | cons b r ih =>
    cases j with
    | zero =>
      rw [mwrite, mwrite_out _ _ _ _ (by omega)]
      simp
    | succ n =>
      have := ih (tset 0 m a b) (a + 1) n (by simpa using h)
      simpa [mwrite, Nat.add_assoc, Nat.add_comm 1 n] using this

/-- A read of the bytes just written gives them. -/
theorem mread_mwrite (m : Tbl Byte) (a : Nat) (bs : Bytes) : mread (mwrite m a bs) a bs.length = bs := by
  induction bs generalizing m a with
  | nil => rfl
  | cons b r ih =>
    simp only [List.length_cons, mread, mwrite, ih]
    rw [mwrite_out _ _ _ _ (by omega)]
    simp

/-- A read outside the bytes written reads as before. -/
theorem mread_mwrite_out (m : Tbl Byte) (a j n : Nat) (bs : Bytes) (h : j + n ≤ a ∨ a + bs.length ≤ j) :
    mread (mwrite m a bs) j n = mread m j n := by
  induction n generalizing j with
  | zero => rfl
  | succ n ih => simp only [mread]; rw [ih _ (by omega), mwrite_out _ _ _ _ (by omega)]

end Sys2Proof.Machine
end

