-- ==== Sys2Proof/Laws/Regs.lean ====
section
/-! SUPPORT. What reading a register field gives after a write of it or of another, after an event, and after the
pins have settled. -/

namespace Sys2Proof.Machine

/-- The memories after reset have their canonical form, which `mwrite_wf` keeps. -/
theorem reset_memories : memWf State.reset.hbm ∧ memWf State.reset.store ∧ memWf State.reset.imem := ⟨rfl, rfl, rfl⟩

/-! Bit fields. -/

theorem bits_mod (n h l : Nat) (hl : l ≤ h + 1) : bits n h l = n % 2 ^ (h + 1) / 2 ^ l := by
  have e : 2 ^ (h + 1) = 2 ^ l * 2 ^ (h + 1 - l) := by rw [← Nat.pow_add]; congr 1; omega
  rw [bits, e, Nat.mod_mul_right_div_self]

theorem bits_mod_pow (n h l k : Nat) (hl : l ≤ h + 1) (hk : h < k) : bits (n % 2 ^ k) h l = bits n h l := by
  rw [bits_mod _ _ _ hl, bits_mod _ _ _ hl, Nat.mod_mod_of_dvd _ (Nat.pow_dvd_pow 2 hk)]


/-- A field outside the range of bits of a record of no bits above reads zero. -/
theorem bits_lt (n h l : Nat) : bits n h l < 2 ^ (h + 1 - l) := Nat.mod_lt _ (Nat.two_pow_pos _)

theorem setBits_div (v hi lo x : Nat) (hl : lo ≤ hi + 1) :
    setBits v hi lo x / 2 ^ lo = x % 2 ^ (hi + 1 - lo) + v / 2 ^ (hi + 1) * 2 ^ (hi + 1 - lo) := by
  have e : 2 ^ (hi + 1) = 2 ^ lo * 2 ^ (hi + 1 - lo) := by rw [← Nat.pow_add]; congr 1; omega
  have h0 : v % 2 ^ lo < 2 ^ lo := Nat.mod_lt _ (Nat.two_pow_pos _)
  have h1 : setBits v hi lo x =
      v % 2 ^ lo + 2 ^ lo * (x % 2 ^ (hi + 1 - lo) + v / 2 ^ (hi + 1) * 2 ^ (hi + 1 - lo)) := by
    rw [setBits, Nat.mul_add, Nat.add_assoc]
    congr 1
    rw [Nat.mul_comm (2 ^ lo) (x % _)]
    congr 1
    rw [Nat.mul_left_comm, ← e]
  rw [h1, Nat.add_mul_div_left _ _ (Nat.two_pow_pos _), Nat.div_eq_of_lt h0, Nat.zero_add]

/-- The field written reads what was written. -/
theorem bits_setBits_same (v hi lo x : Nat) (hl : lo ≤ hi + 1) :
    bits (setBits v hi lo x) hi lo = x % 2 ^ (hi + 1 - lo) := by
  rw [bits, setBits_div v hi lo x hl, Nat.add_mul_mod_self_right, Nat.mod_mod]

theorem setBits_mod (v hi lo x : Nat) (hl : lo ≤ hi + 1) : setBits v hi lo x % 2 ^ lo = v % 2 ^ lo := by
  have e : 2 ^ (hi + 1) = 2 ^ lo * 2 ^ (hi + 1 - lo) := by rw [← Nat.pow_add]; congr 1; omega
  have h1 : setBits v hi lo x =
      v % 2 ^ lo + 2 ^ lo * (x % 2 ^ (hi + 1 - lo) + v / 2 ^ (hi + 1) * 2 ^ (hi + 1 - lo)) := by
    rw [setBits, Nat.mul_add, Nat.add_assoc]
    congr 1
    rw [Nat.mul_comm (2 ^ lo) (x % _)]
    congr 1
    rw [Nat.mul_left_comm, ← e]
  rw [h1, Nat.add_mul_mod_self_left, Nat.mod_mod]

/-- A field below the one written reads as before. -/
theorem bits_setBits_low (v hi lo x h l : Nat) (hw : lo ≤ hi + 1) (hl : l ≤ h + 1) (hd : h < lo) :
    bits (setBits v hi lo x) h l = bits v h l := by
  rw [← bits_mod_pow (setBits v hi lo x) h l lo hl hd, setBits_mod v hi lo x hw, bits_mod_pow v h l lo hl hd]

/-- A field above the one written reads as before. -/
theorem bits_setBits_high (v hi lo x h l : Nat) (hw : lo ≤ hi + 1) (hd : hi < l) :
    bits (setBits v hi lo x) h l = bits v h l := by
  have e : 2 ^ l = 2 ^ (hi + 1) * 2 ^ (l - (hi + 1)) := by rw [← Nat.pow_add]; congr 1; omega
  have e2 : 2 ^ (hi + 1) = 2 ^ lo * 2 ^ (hi + 1 - lo) := by rw [← Nat.pow_add]; congr 1; omega
  have h1 : setBits v hi lo x / 2 ^ (hi + 1) = v / 2 ^ (hi + 1) := by
    have hx : x % 2 ^ (hi + 1 - lo) < 2 ^ (hi + 1 - lo) := Nat.mod_lt _ (Nat.two_pow_pos _)
    rw [e2, ← Nat.div_div_eq_div_mul, setBits_div v hi lo x hw, ← e2, Nat.add_mul_div_right _ _ (Nat.two_pow_pos _),
      Nat.div_eq_of_lt hx, Nat.zero_add]
  rw [bits, bits, e, ← Nat.div_div_eq_div_mul, h1, Nat.div_div_eq_div_mul]

/-! Registers. -/

@[simp] theorem reg_setReg_same (s : State) (a : Nat) (v : Word) : (s.setReg a v).reg a = v := by
  simp [State.reg, State.setReg]

theorem reg_setReg_ne (s : State) {a b : Nat} (v : Word) (h : b ≠ a) : (s.setReg a v).reg b = s.reg b := by
  have : ∀ (d e : Word), tget d (tset e s.regs a v) b = tget d s.regs b := by
    intro d e
    by_cases hv : v = e
    · simp [tset, hv, tget_tdel_ne _ _ h]
    · simp [tset, hv, tget_tins_ne _ _ _ h]
  simpa [State.reg, State.setReg] using this _ _

theorem reg_setReg (s : State) (a b : Nat) (v : Word) : (s.setReg a v).reg b = if b = a then v else s.reg b := by
  by_cases h : b = a
  · subst h; simp
  · simp [h, reg_setReg_ne s v h]

theorem reg_p_ne (s : State) (f : Fld) (v b : Nat) (h : b ≠ f.reg) : (s.p f v).reg b = s.reg b :=
  reg_setReg_ne s _ h

/-- A field of another register reads as before. -/
theorem g_setReg_ne (s : State) (a : Nat) (v : Word) (f : Fld) (h : f.reg ≠ a) : (s.setReg a v).g f = s.g f := by
  simp [State.g, reg_setReg_ne s v h]
theorem g_p_reg_ne (s : State) (f k : Fld) (v : Nat) (h : k.reg ≠ f.reg) : (s.p f v).g k = s.g k :=
  g_setReg_ne s _ _ k h

/-- The field written reads what was written. -/
theorem g_p_same (s : State) (f : Fld) (v : Nat) (h1 : f.lo ≤ f.hi + 1) (h2 : f.hi < 64) :
    (s.p f v).g f = v % 2 ^ (f.hi + 1 - f.lo) := by
  simp only [State.g, State.p, reg_setReg_same, putF, getF, BitVec.toNat_ofNat]
  rw [bits_mod_pow _ _ _ _ h1 h2, bits_setBits_same _ _ _ _ h1]

/-- Another field of the same register reads as before. -/
theorem g_p_disjoint (s : State) (f k : Fld) (v : Nat) (hr : k.reg = f.reg) (h1 : f.lo ≤ f.hi + 1) (h2 : k.lo ≤ k.hi + 1)
    (h3 : k.hi < 64) (hd : k.hi < f.lo ∨ f.hi < k.lo) : (s.p f v).g k = s.g k := by
  simp only [State.g, State.p, hr, reg_setReg_same, putF, getF, BitVec.toNat_ofNat]
  rw [bits_mod_pow _ _ _ _ h2 h3]
  rcases hd with hd | hd
  · exact bits_setBits_low _ _ _ _ _ _ h1 h2 hd
  · exact bits_setBits_high _ _ _ _ _ _ h1 hd

/-! Events. -/

/-- What an operation may do to registers and links only. -/
theorem signal_reg (s : State) (l v a : Nat) : (s.signal l v).reg a = s.reg a := by
  unfold State.signal
  split <;> rfl

theorem signalDev_reg (s : State) (a : Nat) : s.signalDev.reg a = s.reg a := by
  have step : ∀ (t : State) (l : Nat), (if t.gb (HOSTLINK.DEV_EVT.EN l) then t.signal l (t.g (HOSTLINK.DEV_EVT.VECTOR l)) else t).reg a = t.reg a := by
    intro t l
    split
    · exact signal_reg _ _ _ _
    · rfl
  simp only [State.signalDev, List.foldl_cons, List.foldl_nil]
  rw [step, step, step, step]

theorem withDevEvent_reg (s t : State) (a : Nat) : (s.withDevEvent t).reg a = t.reg a := by
  unfold State.withDevEvent
  split
  · exact signalDev_reg t a
  · rfl

/-- An event changes one register: its bit is set there. -/
theorem evt_reg (s : State) (u b a : Nat) :
    (s.evt u b).reg a = if a = UNIT.EVT.reg u then s.reg a ||| BitVec.ofNat 64 (2 ^ b) else s.reg a := by
  rw [State.evt, withDevEvent_reg, reg_setReg]
  split
  · rename_i h; rw [h]
  · rfl

/-! The pins settle. -/

theorem settle_reg (s : State) (a : Nat) (h : a ∉ derivedRegs) : s.settle.reg a = s.reg a := by
  simp only [derivedRegs, List.mem_cons, List.not_mem_nil, or_false, not_or] at h
  have h1 : ∀ (t : State) (f : Pins → Pins), (t.withPins f).reg a = t.reg a := fun _ _ => rfl
  simp only [State.settle, State.settleWake, State.settleAlert, h1, State.pb]
  rw [reg_p_ne _ _ _ _ h.2, reg_p_ne _ _ _ _ h.2]
  simp only [h1]
  rw [reg_p_ne _ _ _ _ h.1]

theorem settle_g (s : State) (f : Fld) (h : f.reg ∉ derivedRegs) : s.settle.g f = s.g f := by
  simp [State.g, settle_reg s f.reg h]

end Sys2Proof.Machine
end

