-- ==== Sys2Proof/Laws/Events.lean ====
section
/-! SUPPORT. What a unit event changes: one register, and for a common event the links that it is signalled on. -/

namespace Sys2Proof.Machine

theorem unitAt_base (a : Nat) (i : UnitInfo) (h : unitAt a = some i) : i.base % 256 = 0 ∧ i.parent % 256 = 0 := by
  unfold unitAt at h
  simp only [HIVE.base] at h
  split at h
  · split at h
    all_goals first
      | (cases h; done)
      | (injection h with h; subst h; constructor <;> simp only [] <;> omega)
  · split at h
    · injection h with h; subst h; constructor <;> simp only [] <;> omega
    · split at h
      all_goals first
        | (cases h; done)
        | (injection h with h; subst h; constructor <;> simp only [] <;> omega)
        | (split at h <;> first
            | (cases h; done)
            | (injection h with h; subst h; constructor <;> simp only []))

theorem any_tins {α : Type} (p : Nat × α → Bool) (k : Nat) (v : α) (t : Tbl α) (h : (tins k v t).any p = true) :
    p (k, v) = true ∨ t.any p = true := by
  induction t with
  | nil => simpa [tins] using h
  | cons e r ih =>
    obtain ⟨a, w⟩ := e
    by_cases h1 : k < a
    · simpa [tins, h1, or_assoc] using h
    · by_cases h2 : k = a
      · rw [tins, if_neg h1, if_pos h2, List.any_cons, Bool.or_eq_true] at h
        rcases h with h | h
        · exact .inl h
        · exact .inr (by simp [h])
      · rw [tins, if_neg h1, if_neg h2, List.any_cons, Bool.or_eq_true] at h
        rcases h with h | h
        · exact .inr (by simp [h])
        · rcases ih h with h | h
          · exact .inl h
          · exact .inr (by simp [h])

theorem any_tget {α : Type} (p : Nat × α → Bool) (d : α) (t : Tbl α) (k : Nat) (hd : p (k, d) = false)
    (h : p (k, tget d t k) = true) : t.any p = true := by
  induction t with
  | nil => simp [tget, hd] at h
  | cons e r ih =>
    obtain ⟨a, w⟩ := e
    by_cases h2 : k = a
    · subst h2; rw [tget, if_pos rfl] at h; simp [h]
    · rw [tget, if_neg h2] at h; simp [ih h]

theorem any_tset {α : Type} [DecidableEq α] (p : Nat × α → Bool) (d : α) (k : Nat) (v : α) (t : Tbl α)
    (h : (tset d t k v).any p = true) : p (k, v) = true ∨ t.any p = true := by
  by_cases hv : v = d
  · rw [tset, if_pos hv] at h
    simp only [tdel, List.any_eq_true, List.mem_filter] at h ⊢
    obtain ⟨e, ⟨h1, -⟩, h2⟩ := h
    exact .inr ⟨e, h1, h2⟩
  · rw [tset, if_neg hv] at h
    exact any_tins p k v t h

theorem enChain_congr (s t : State) (h : ∀ v, v % 256 = 0 → t.g (UNIT.EVT_EN.COMMON_EN v) = s.g (UNIT.EVT_EN.COMMON_EN v))
    (a : Nat) (i : UnitInfo) (hi : unitAt a = some i) : t.enChain i.base = s.enChain i.base := by
  have hb := unitAt_base a i hi
  unfold State.enChain
  rw [h _ hb.1, h 0 rfl]
  cases hj : unitAt i.base with
  | none => rfl
  | some j => simp only [h _ (unitAt_base _ _ hj).2]

/-- An event bit of a unit's own (8 to 63) changes no common event, so no device event vector is signalled. -/
theorem evt_own (s : State) (u b : Nat) (hb : 8 ≤ b) (hu : u % 256 = 0) (hr : (regReset (UNIT.EVT.reg u)).toNat % 256 = 0) :
    s.evt u b = s.setReg (UNIT.EVT.reg u) (s.reg (UNIT.EVT.reg u) ||| BitVec.ofNat 64 (2 ^ b)) := by
  have key : ∀ w : Word, w.toNat % 256 = (s.reg (UNIT.EVT.reg u)).toNat % 256 →
      (s.setReg (UNIT.EVT.reg u) w).devCond = true → s.devCond = true := by
    intro w hw h
    have hch := enChain_congr s (s.setReg (UNIT.EVT.reg u) w) (fun v hv => g_setReg_ne s _ _ _ (by
      simp only [UNIT.EVT_EN.COMMON_EN, UNIT.EVT_EN.reg, UNIT.EVT.reg]; omega))
    have hp : (s.setReg (UNIT.EVT.reg u) w).devHit = s.devHit := by
      funext e
      unfold State.devHit
      cases hj : unitAt e.1 with
      | none => rfl
      | some i => simp only [hch _ _ hj]
    unfold State.devCond at h ⊢
    rw [hp] at h
    rcases any_tset _ _ _ _ _ h with h | h
    · refine any_tget _ (regReset (UNIT.EVT.reg u)) _ (UNIT.EVT.reg u) ?_ ?_
      · simp only [State.devHit, hr, Nat.zero_and, bne_self_eq_false, Bool.and_false]
        split <;> rfl
      · simp only [State.devHit, hw] at h
        exact h
    · exact h
  unfold State.evt State.withDevEvent
  split
  · rename_i h
    simp only [Bool.and_eq_true, Bool.not_eq_true'] at h
    have := key _ (by
      rw [BitVec.toNat_or, BitVec.toNat_ofNat]
      apply Nat.eq_of_testBit_eq
      intro j
      have e : (256 : Nat) = 2 ^ 8 := rfl
      rw [e, Nat.testBit_mod_two_pow, Nat.testBit_mod_two_pow]
      by_cases hj : j < 8
      · simp only [hj, decide_true, Bool.true_and, Nat.testBit_or, Nat.testBit_mod_two_pow, Nat.testBit_two_pow]
        have : ¬ b = j := by omega
        simp [this]
      · simp [hj]) h.2
    rw [this] at h; simp at h
  · rfl

/-- A signal changes its link alone. -/
theorem signal_links (s : State) (l v : Nat) : s.signal l v = { s with links := (s.signal l v).links } := by
  unfold State.signal
  split <;> rfl

theorem signalDev_links (s : State) : s.signalDev = { s with links := s.signalDev.links } := by
  have step : ∀ (t : State) (l : Nat), ∃ x,
      (if t.gb (HOSTLINK.DEV_EVT.EN l) then t.signal l (t.g (HOSTLINK.DEV_EVT.VECTOR l)) else t) = { t with links := x } := by
    intro t l
    split
    · exact ⟨_, signal_links _ _ _⟩
    · exact ⟨t.links, rfl⟩
  simp only [State.signalDev, List.foldl_cons, List.foldl_nil]
  obtain ⟨a, ha⟩ := step s 0
  rw [ha]
  obtain ⟨b, hb⟩ := step { s with links := a } 1
  rw [hb]
  obtain ⟨c, hc⟩ := step { s with links := b } 2
  rw [hc]
  obtain ⟨d, hd⟩ := step { s with links := c } 3
  rw [hd]

/-- An event changes registers and links alone. -/
theorem evt_links (s : State) (u b : Nat) :
    s.evt u b = { s with regs := (s.evt u b).regs, links := (s.evt u b).links } := by
  unfold State.evt State.withDevEvent
  split
  · rw [signalDev_links]; rfl
  · rfl

end Sys2Proof.Machine
end

