-- ==== Sys2Proof/Laws/State.lean ====
section
/-! SUPPORT. One lemma per field for each update that the commands are built from: what it leaves alone. -/

namespace Sys2Proof.Machine

/-! setReg. -/
@[simp] theorem setReg_pending (s : State) (a : Nat) (v : Word) : (s.setReg a v).pending = s.pending := rfl
@[simp] theorem setReg_free (s : State) (a : Nat) (v : Word) : (s.setReg a v).free = s.free := rfl
@[simp] theorem setReg_out (s : State) (a : Nat) (v : Word) : (s.setReg a v).out = s.out := rfl
@[simp] theorem setReg_edryn (s : State) (a : Nat) (v : Word) : (s.setReg a v).edryn = s.edryn := rfl
@[simp] theorem setReg_ff (s : State) (a : Nat) (v : Word) : (s.setReg a v).ff = s.ff := rfl
@[simp] theorem setReg_page (s : State) (a : Nat) (v : Word) : (s.setReg a v).page = s.page := rfl
@[simp] theorem setReg_held (s : State) (a : Nat) (v : Word) : (s.setReg a v).held = s.held := rfl
@[simp] theorem setReg_links (s : State) (a : Nat) (v : Word) : (s.setReg a v).links = s.links := rfl
@[simp] theorem setReg_jobs (s : State) (a : Nat) (v : Word) : (s.setReg a v).jobs = s.jobs := rfl
@[simp] theorem setReg_jobN (s : State) (a : Nat) (v : Word) : (s.setReg a v).jobN = s.jobN := rfl
@[simp] theorem setReg_xl (s : State) (a : Nat) (v : Word) : (s.setReg a v).xl = s.xl := rfl
@[simp] theorem setReg_xlDenied (s : State) (a : Nat) (v : Word) : (s.setReg a v).xlDenied = s.xlDenied := rfl
@[simp] theorem setReg_ints (s : State) (a : Nat) (v : Word) : (s.setReg a v).ints = s.ints := rfl
@[simp] theorem setReg_tapBusy (s : State) (a : Nat) (v : Word) : (s.setReg a v).tapBusy = s.tapBusy := rfl
@[simp] theorem setReg_tapClk (s : State) (a : Nat) (v : Word) : (s.setReg a v).tapClk = s.tapClk := rfl
@[simp] theorem setReg_dom (s : State) (a : Nat) (v : Word) : (s.setReg a v).dom = s.dom := rfl
@[simp] theorem setReg_votes (s : State) (a : Nat) (v : Word) : (s.setReg a v).votes = s.votes := rfl
@[simp] theorem setReg_xfer (s : State) (a : Nat) (v : Word) : (s.setReg a v).xfer = s.xfer := rfl
@[simp] theorem setReg_fwc (s : State) (a : Nat) (v : Word) : (s.setReg a v).fwc = s.fwc := rfl
@[simp] theorem setReg_repair (s : State) (a : Nat) (v : Word) : (s.setReg a v).repair = s.repair := rfl
@[simp] theorem setReg_trust (s : State) (a : Nat) (v : Word) : (s.setReg a v).trust = s.trust := rfl
@[simp] theorem setReg_pins (s : State) (a : Nat) (v : Word) : (s.setReg a v).pins = s.pins := rfl
@[simp] theorem setReg_port (s : State) (a : Nat) (v : Word) : (s.setReg a v).port = s.port := rfl
@[simp] theorem setReg_cross (s : State) (a : Nat) (v : Word) : (s.setReg a v).cross = s.cross := rfl
@[simp] theorem setReg_inst (s : State) (a : Nat) (v : Word) : (s.setReg a v).inst = s.inst := rfl
@[simp] theorem setReg_instStaged (s : State) (a : Nat) (v : Word) : (s.setReg a v).instStaged = s.instStaged := rfl
@[simp] theorem setReg_instCmd (s : State) (a : Nat) (v : Word) : (s.setReg a v).instCmd = s.instCmd := rfl
@[simp] theorem setReg_wq (s : State) (a : Nat) (v : Word) : (s.setReg a v).wq = s.wq := rfl
@[simp] theorem setReg_cr (s : State) (a : Nat) (v : Word) : (s.setReg a v).cr = s.cr := rfl
@[simp] theorem setReg_wqx (s : State) (a : Nat) (v : Word) : (s.setReg a v).wqx = s.wqx := rfl
@[simp] theorem setReg_crx (s : State) (a : Nat) (v : Word) : (s.setReg a v).crx = s.crx := rfl
@[simp] theorem setReg_icmd (s : State) (a : Nat) (v : Word) : (s.setReg a v).icmd = s.icmd := rfl
@[simp] theorem setReg_hbm (s : State) (a : Nat) (v : Word) : (s.setReg a v).hbm = s.hbm := rfl
@[simp] theorem setReg_store (s : State) (a : Nat) (v : Word) : (s.setReg a v).store = s.store := rfl
@[simp] theorem setReg_imem (s : State) (a : Nat) (v : Word) : (s.setReg a v).imem = s.imem := rfl
@[simp] theorem setReg_thread (s : State) (a : Nat) (v : Word) : (s.setReg a v).thread = s.thread := rfl
@[simp] theorem setReg_hive (s : State) (a : Nat) (v : Word) : (s.setReg a v).hive = s.hive := rfl
@[simp] theorem setReg_hchan (s : State) (a : Nat) (v : Word) : (s.setReg a v).hchan = s.hchan := rfl
@[simp] theorem setReg_hmsg (s : State) (a : Nat) (v : Word) : (s.setReg a v).hmsg = s.hmsg := rfl
@[simp] theorem setReg_chOpen (s : State) (a : Nat) (v : Word) : (s.setReg a v).chOpen = s.chOpen := rfl
@[simp] theorem setReg_pcfg (s : State) (a : Nat) (v : Word) : (s.setReg a v).pcfg = s.pcfg := rfl
@[simp] theorem setReg_pcfgStaged (s : State) (a : Nat) (v : Word) : (s.setReg a v).pcfgStaged = s.pcfgStaged := rfl
@[simp] theorem setReg_pcount (s : State) (a : Nat) (v : Word) : (s.setReg a v).pcount = s.pcount := rfl
@[simp] theorem setReg_rules (s : State) (a : Nat) (v : Word) : (s.setReg a v).rules = s.rules := rfl
@[simp] theorem setReg_ruleNs (s : State) (a : Nat) (v : Word) : (s.setReg a v).ruleNs = s.ruleNs := rfl
@[simp] theorem setReg_oldest (s : State) (a : Nat) (v : Word) : (s.setReg a v).oldest = s.oldest := rfl
@[simp] theorem setReg_flows (s : State) (a : Nat) (v : Word) : (s.setReg a v).flows = s.flows := rfl
@[simp] theorem setReg_profiles (s : State) (a : Nat) (v : Word) : (s.setReg a v).profiles = s.profiles := rfl
@[simp] theorem setReg_templates (s : State) (a : Nat) (v : Word) : (s.setReg a v).templates = s.templates := rfl
@[simp] theorem setReg_steer (s : State) (a : Nat) (v : Word) : (s.setReg a v).steer = s.steer := rfl
@[simp] theorem setReg_insBuf (s : State) (a : Nat) (v : Word) : (s.setReg a v).insBuf = s.insBuf := rfl
@[simp] theorem setReg_flowHeld (s : State) (a : Nat) (v : Word) : (s.setReg a v).flowHeld = s.flowHeld := rfl
@[simp] theorem setReg_ipId (s : State) (a : Nat) (v : Word) : (s.setReg a v).ipId = s.ipId := rfl
@[simp] theorem setReg_learnClk (s : State) (a : Nat) (v : Word) : (s.setReg a v).learnClk = s.learnClk := rfl
@[simp] theorem setReg_pkts (s : State) (a : Nat) (v : Word) : (s.setReg a v).pkts = s.pkts := rfl
@[simp] theorem setReg_descs (s : State) (a : Nat) (v : Word) : (s.setReg a v).descs = s.descs := rfl
@[simp] theorem setReg_serial (s : State) (a : Nat) (v : Word) : (s.setReg a v).serial = s.serial := rfl
@[simp] theorem setReg_gens (s : State) (a : Nat) (v : Word) : (s.setReg a v).gens = s.gens := rfl
@[simp] theorem setReg_pipeWait (s : State) (a : Nat) (v : Word) : (s.setReg a v).pipeWait = s.pipeWait := rfl
@[simp] theorem setReg_noHive (s : State) (a : Nat) (v : Word) : (s.setReg a v).noHive = s.noHive := rfl
@[simp] theorem setReg_admq (s : State) (a : Nat) (v : Word) : (s.setReg a v).admq = s.admq := rfl
@[simp] theorem setReg_accts (s : State) (a : Nat) (v : Word) : (s.setReg a v).accts = s.accts := rfl
@[simp] theorem setReg_poolUsed (s : State) (a : Nat) (v : Word) : (s.setReg a v).poolUsed = s.poolUsed := rfl
@[simp] theorem setReg_hiveCells (s : State) (a : Nat) (v : Word) : (s.setReg a v).hiveCells = s.hiveCells := rfl
@[simp] theorem setReg_xoffClk (s : State) (a : Nat) (v : Word) : (s.setReg a v).xoffClk = s.xoffClk := rfl
@[simp] theorem setReg_lfsr (s : State) (a : Nat) (v : Word) : (s.setReg a v).lfsr = s.lfsr := rfl
@[simp] theorem setReg_groups (s : State) (a : Nat) (v : Word) : (s.setReg a v).groups = s.groups := rfl
@[simp] theorem setReg_members (s : State) (a : Nat) (v : Word) : (s.setReg a v).members = s.members := rfl
@[simp] theorem setReg_rsvSize (s : State) (a : Nat) (v : Word) : (s.setReg a v).rsvSize = s.rsvSize := rfl
@[simp] theorem setReg_rsvMem (s : State) (a : Nat) (v : Word) : (s.setReg a v).rsvMem = s.rsvMem := rfl
@[simp] theorem setReg_cellWait (s : State) (a : Nat) (v : Word) : (s.setReg a v).cellWait = s.cellWait := rfl
@[simp] theorem setReg_nodes (s : State) (a : Nat) (v : Word) : (s.setReg a v).nodes = s.nodes := rfl
@[simp] theorem setReg_noder (s : State) (a : Nat) (v : Word) : (s.setReg a v).noder = s.noder := rfl
@[simp] theorem setReg_groupV (s : State) (a : Nat) (v : Word) : (s.setReg a v).groupV = s.groupV := rfl
@[simp] theorem setReg_policers (s : State) (a : Nat) (v : Word) : (s.setReg a v).policers = s.policers := rfl
@[simp] theorem setReg_meters (s : State) (a : Nat) (v : Word) : (s.setReg a v).meters = s.meters := rfl
@[simp] theorem setReg_samples (s : State) (a : Nat) (v : Word) : (s.setReg a v).samples = s.samples := rfl
@[simp] theorem setReg_trings (s : State) (a : Nat) (v : Word) : (s.setReg a v).trings = s.trings := rfl
@[simp] theorem setReg_beeline (s : State) (a : Nat) (v : Word) : (s.setReg a v).beeline = s.beeline := rfl
@[simp] theorem setReg_blHold (s : State) (a : Nat) (v : Word) : (s.setReg a v).blHold = s.blHold := rfl
@[simp] theorem setReg_slots (s : State) (a : Nat) (v : Word) : (s.setReg a v).slots = s.slots := rfl
@[simp] theorem setReg_slotPend (s : State) (a : Nat) (v : Word) : (s.setReg a v).slotPend = s.slotPend := rfl
@[simp] theorem setReg_slotHeld (s : State) (a : Nat) (v : Word) : (s.setReg a v).slotHeld = s.slotHeld := rfl
@[simp] theorem setReg_softSeen (s : State) (a : Nat) (v : Word) : (s.setReg a v).softSeen = s.softSeen := rfl
@[simp] theorem setReg_sops (s : State) (a : Nat) (v : Word) : (s.setReg a v).sops = s.sops := rfl
@[simp] theorem setReg_opN (s : State) (a : Nat) (v : Word) : (s.setReg a v).opN = s.opN := rfl
@[simp] theorem setReg_progStage (s : State) (a : Nat) (v : Word) : (s.setReg a v).progStage = s.progStage := rfl
@[simp] theorem setReg_modes (s : State) (a : Nat) (v : Word) : (s.setReg a v).modes = s.modes := rfl
@[simp] theorem setReg_modesStaged (s : State) (a : Nat) (v : Word) : (s.setReg a v).modesStaged = s.modesStaged := rfl
@[simp] theorem setReg_maskSeed (s : State) (a : Nat) (v : Word) : (s.setReg a v).maskSeed = s.maskSeed := rfl
@[simp] theorem setReg_maskClk (s : State) (a : Nat) (v : Word) : (s.setReg a v).maskClk = s.maskClk := rfl
@[simp] theorem setReg_trigLate (s : State) (a : Nat) (v : Word) : (s.setReg a v).trigLate = s.trigLate := rfl
@[simp] theorem setReg_ageClk (s : State) (a : Nat) (v : Word) : (s.setReg a v).ageClk = s.ageClk := rfl
@[simp] theorem setReg_maskBlk (s : State) (a : Nat) (v : Word) : (s.setReg a v).maskBlk = s.maskBlk := rfl
@[simp] theorem setReg_kek (s : State) (a : Nat) (v : Word) : (s.setReg a v).kek = s.kek := rfl
@[simp] theorem setReg_peerWin (s : State) (a : Nat) (v : Word) : (s.setReg a v).peerWin = s.peerWin := rfl
@[simp] theorem setReg_progBusy (s : State) (a : Nat) (v : Word) : (s.setReg a v).progBusy = s.progBusy := rfl
@[simp] theorem setReg_nsRec (s : State) (a : Nat) (v : Word) : (s.setReg a v).nsRec = s.nsRec := rfl
@[simp] theorem setReg_extents (s : State) (a : Nat) (v : Word) : (s.setReg a v).extents = s.extents := rfl
@[simp] theorem setReg_connRec (s : State) (a : Nat) (v : Word) : (s.setReg a v).connRec = s.connRec := rfl
@[simp] theorem setReg_nsHeld (s : State) (a : Nat) (v : Word) : (s.setReg a v).nsHeld = s.nsHeld := rfl
@[simp] theorem setReg_connHeld (s : State) (a : Nat) (v : Word) : (s.setReg a v).connHeld = s.connHeld := rfl
@[simp] theorem setReg_connx (s : State) (a : Nat) (v : Word) : (s.setReg a v).connx = s.connx := rfl
@[simp] theorem setReg_sreqs (s : State) (a : Nat) (v : Word) : (s.setReg a v).sreqs = s.sreqs := rfl
@[simp] theorem setReg_sparts (s : State) (a : Nat) (v : Word) : (s.setReg a v).sparts = s.sparts := rfl
@[simp] theorem setReg_storIn (s : State) (a : Nat) (v : Word) : (s.setReg a v).storIn = s.storIn := rfl
@[simp] theorem setReg_reqN (s : State) (a : Nat) (v : Word) : (s.setReg a v).reqN = s.reqN := rfl
@[simp] theorem setReg_chRec (s : State) (a : Nat) (v : Word) : (s.setReg a v).chRec = s.chRec := rfl
@[simp] theorem setReg_fdescs (s : State) (a : Nat) (v : Word) : (s.setReg a v).fdescs = s.fdescs := rfl
@[simp] theorem setReg_fdescN (s : State) (a : Nat) (v : Word) : (s.setReg a v).fdescN = s.fdescN := rfl
@[simp] theorem setReg_poison (s : State) (a : Nat) (v : Word) : (s.setReg a v).poison = s.poison := rfl
@[simp] theorem setReg_ncsi (s : State) (a : Nat) (v : Word) : (s.setReg a v).ncsi = s.ncsi := rfl
@[simp] theorem setReg_svc (s : State) (a : Nat) (v : Word) : (s.setReg a v).svc = s.svc := rfl
@[simp] theorem setReg_dbWait (s : State) (a : Nat) (v : Word) : (s.setReg a v).dbWait = s.dbWait := rfl
@[simp] theorem setReg_dbN (s : State) (a : Nat) (v : Word) : (s.setReg a v).dbN = s.dbN := rfl
@[simp] theorem setReg_pad (s : State) (a : Nat) (v : Word) : (s.setReg a v).pad = s.pad := rfl

/-! setTh. -/
@[simp] theorem setTh_pending (s : State) (t : Nat) (v : Thread) : (s.setTh t v).pending = s.pending := rfl
@[simp] theorem setTh_regs (s : State) (t : Nat) (v : Thread) : (s.setTh t v).regs = s.regs := rfl
@[simp] theorem setTh_free (s : State) (t : Nat) (v : Thread) : (s.setTh t v).free = s.free := rfl
@[simp] theorem setTh_out (s : State) (t : Nat) (v : Thread) : (s.setTh t v).out = s.out := rfl
@[simp] theorem setTh_edryn (s : State) (t : Nat) (v : Thread) : (s.setTh t v).edryn = s.edryn := rfl
@[simp] theorem setTh_ff (s : State) (t : Nat) (v : Thread) : (s.setTh t v).ff = s.ff := rfl
@[simp] theorem setTh_page (s : State) (t : Nat) (v : Thread) : (s.setTh t v).page = s.page := rfl
@[simp] theorem setTh_held (s : State) (t : Nat) (v : Thread) : (s.setTh t v).held = s.held := rfl
@[simp] theorem setTh_links (s : State) (t : Nat) (v : Thread) : (s.setTh t v).links = s.links := rfl
@[simp] theorem setTh_jobs (s : State) (t : Nat) (v : Thread) : (s.setTh t v).jobs = s.jobs := rfl
@[simp] theorem setTh_jobN (s : State) (t : Nat) (v : Thread) : (s.setTh t v).jobN = s.jobN := rfl
@[simp] theorem setTh_xl (s : State) (t : Nat) (v : Thread) : (s.setTh t v).xl = s.xl := rfl
@[simp] theorem setTh_xlDenied (s : State) (t : Nat) (v : Thread) : (s.setTh t v).xlDenied = s.xlDenied := rfl
@[simp] theorem setTh_ints (s : State) (t : Nat) (v : Thread) : (s.setTh t v).ints = s.ints := rfl
@[simp] theorem setTh_tapBusy (s : State) (t : Nat) (v : Thread) : (s.setTh t v).tapBusy = s.tapBusy := rfl
@[simp] theorem setTh_tapClk (s : State) (t : Nat) (v : Thread) : (s.setTh t v).tapClk = s.tapClk := rfl
@[simp] theorem setTh_dom (s : State) (t : Nat) (v : Thread) : (s.setTh t v).dom = s.dom := rfl
@[simp] theorem setTh_votes (s : State) (t : Nat) (v : Thread) : (s.setTh t v).votes = s.votes := rfl
@[simp] theorem setTh_xfer (s : State) (t : Nat) (v : Thread) : (s.setTh t v).xfer = s.xfer := rfl
@[simp] theorem setTh_fwc (s : State) (t : Nat) (v : Thread) : (s.setTh t v).fwc = s.fwc := rfl
@[simp] theorem setTh_repair (s : State) (t : Nat) (v : Thread) : (s.setTh t v).repair = s.repair := rfl
@[simp] theorem setTh_trust (s : State) (t : Nat) (v : Thread) : (s.setTh t v).trust = s.trust := rfl
@[simp] theorem setTh_pins (s : State) (t : Nat) (v : Thread) : (s.setTh t v).pins = s.pins := rfl
@[simp] theorem setTh_port (s : State) (t : Nat) (v : Thread) : (s.setTh t v).port = s.port := rfl
@[simp] theorem setTh_cross (s : State) (t : Nat) (v : Thread) : (s.setTh t v).cross = s.cross := rfl
@[simp] theorem setTh_inst (s : State) (t : Nat) (v : Thread) : (s.setTh t v).inst = s.inst := rfl
@[simp] theorem setTh_instStaged (s : State) (t : Nat) (v : Thread) : (s.setTh t v).instStaged = s.instStaged := rfl
@[simp] theorem setTh_instCmd (s : State) (t : Nat) (v : Thread) : (s.setTh t v).instCmd = s.instCmd := rfl
@[simp] theorem setTh_wq (s : State) (t : Nat) (v : Thread) : (s.setTh t v).wq = s.wq := rfl
@[simp] theorem setTh_cr (s : State) (t : Nat) (v : Thread) : (s.setTh t v).cr = s.cr := rfl
@[simp] theorem setTh_wqx (s : State) (t : Nat) (v : Thread) : (s.setTh t v).wqx = s.wqx := rfl
@[simp] theorem setTh_crx (s : State) (t : Nat) (v : Thread) : (s.setTh t v).crx = s.crx := rfl
@[simp] theorem setTh_icmd (s : State) (t : Nat) (v : Thread) : (s.setTh t v).icmd = s.icmd := rfl
@[simp] theorem setTh_hbm (s : State) (t : Nat) (v : Thread) : (s.setTh t v).hbm = s.hbm := rfl
@[simp] theorem setTh_store (s : State) (t : Nat) (v : Thread) : (s.setTh t v).store = s.store := rfl
@[simp] theorem setTh_imem (s : State) (t : Nat) (v : Thread) : (s.setTh t v).imem = s.imem := rfl
@[simp] theorem setTh_hive (s : State) (t : Nat) (v : Thread) : (s.setTh t v).hive = s.hive := rfl
@[simp] theorem setTh_hchan (s : State) (t : Nat) (v : Thread) : (s.setTh t v).hchan = s.hchan := rfl
@[simp] theorem setTh_hmsg (s : State) (t : Nat) (v : Thread) : (s.setTh t v).hmsg = s.hmsg := rfl
@[simp] theorem setTh_chOpen (s : State) (t : Nat) (v : Thread) : (s.setTh t v).chOpen = s.chOpen := rfl
@[simp] theorem setTh_pcfg (s : State) (t : Nat) (v : Thread) : (s.setTh t v).pcfg = s.pcfg := rfl
@[simp] theorem setTh_pcfgStaged (s : State) (t : Nat) (v : Thread) : (s.setTh t v).pcfgStaged = s.pcfgStaged := rfl
@[simp] theorem setTh_pcount (s : State) (t : Nat) (v : Thread) : (s.setTh t v).pcount = s.pcount := rfl
@[simp] theorem setTh_rules (s : State) (t : Nat) (v : Thread) : (s.setTh t v).rules = s.rules := rfl
@[simp] theorem setTh_ruleNs (s : State) (t : Nat) (v : Thread) : (s.setTh t v).ruleNs = s.ruleNs := rfl
@[simp] theorem setTh_oldest (s : State) (t : Nat) (v : Thread) : (s.setTh t v).oldest = s.oldest := rfl
@[simp] theorem setTh_flows (s : State) (t : Nat) (v : Thread) : (s.setTh t v).flows = s.flows := rfl
@[simp] theorem setTh_profiles (s : State) (t : Nat) (v : Thread) : (s.setTh t v).profiles = s.profiles := rfl
@[simp] theorem setTh_templates (s : State) (t : Nat) (v : Thread) : (s.setTh t v).templates = s.templates := rfl
@[simp] theorem setTh_steer (s : State) (t : Nat) (v : Thread) : (s.setTh t v).steer = s.steer := rfl
@[simp] theorem setTh_insBuf (s : State) (t : Nat) (v : Thread) : (s.setTh t v).insBuf = s.insBuf := rfl
@[simp] theorem setTh_flowHeld (s : State) (t : Nat) (v : Thread) : (s.setTh t v).flowHeld = s.flowHeld := rfl
@[simp] theorem setTh_ipId (s : State) (t : Nat) (v : Thread) : (s.setTh t v).ipId = s.ipId := rfl
@[simp] theorem setTh_learnClk (s : State) (t : Nat) (v : Thread) : (s.setTh t v).learnClk = s.learnClk := rfl
@[simp] theorem setTh_pkts (s : State) (t : Nat) (v : Thread) : (s.setTh t v).pkts = s.pkts := rfl
@[simp] theorem setTh_descs (s : State) (t : Nat) (v : Thread) : (s.setTh t v).descs = s.descs := rfl
@[simp] theorem setTh_serial (s : State) (t : Nat) (v : Thread) : (s.setTh t v).serial = s.serial := rfl
@[simp] theorem setTh_gens (s : State) (t : Nat) (v : Thread) : (s.setTh t v).gens = s.gens := rfl
@[simp] theorem setTh_pipeWait (s : State) (t : Nat) (v : Thread) : (s.setTh t v).pipeWait = s.pipeWait := rfl
@[simp] theorem setTh_noHive (s : State) (t : Nat) (v : Thread) : (s.setTh t v).noHive = s.noHive := rfl
@[simp] theorem setTh_admq (s : State) (t : Nat) (v : Thread) : (s.setTh t v).admq = s.admq := rfl
@[simp] theorem setTh_accts (s : State) (t : Nat) (v : Thread) : (s.setTh t v).accts = s.accts := rfl
@[simp] theorem setTh_poolUsed (s : State) (t : Nat) (v : Thread) : (s.setTh t v).poolUsed = s.poolUsed := rfl
@[simp] theorem setTh_hiveCells (s : State) (t : Nat) (v : Thread) : (s.setTh t v).hiveCells = s.hiveCells := rfl
@[simp] theorem setTh_xoffClk (s : State) (t : Nat) (v : Thread) : (s.setTh t v).xoffClk = s.xoffClk := rfl
@[simp] theorem setTh_lfsr (s : State) (t : Nat) (v : Thread) : (s.setTh t v).lfsr = s.lfsr := rfl
@[simp] theorem setTh_groups (s : State) (t : Nat) (v : Thread) : (s.setTh t v).groups = s.groups := rfl
@[simp] theorem setTh_members (s : State) (t : Nat) (v : Thread) : (s.setTh t v).members = s.members := rfl
@[simp] theorem setTh_rsvSize (s : State) (t : Nat) (v : Thread) : (s.setTh t v).rsvSize = s.rsvSize := rfl
@[simp] theorem setTh_rsvMem (s : State) (t : Nat) (v : Thread) : (s.setTh t v).rsvMem = s.rsvMem := rfl
@[simp] theorem setTh_cellWait (s : State) (t : Nat) (v : Thread) : (s.setTh t v).cellWait = s.cellWait := rfl
@[simp] theorem setTh_nodes (s : State) (t : Nat) (v : Thread) : (s.setTh t v).nodes = s.nodes := rfl
@[simp] theorem setTh_noder (s : State) (t : Nat) (v : Thread) : (s.setTh t v).noder = s.noder := rfl
@[simp] theorem setTh_groupV (s : State) (t : Nat) (v : Thread) : (s.setTh t v).groupV = s.groupV := rfl
@[simp] theorem setTh_policers (s : State) (t : Nat) (v : Thread) : (s.setTh t v).policers = s.policers := rfl
@[simp] theorem setTh_meters (s : State) (t : Nat) (v : Thread) : (s.setTh t v).meters = s.meters := rfl
@[simp] theorem setTh_samples (s : State) (t : Nat) (v : Thread) : (s.setTh t v).samples = s.samples := rfl
@[simp] theorem setTh_trings (s : State) (t : Nat) (v : Thread) : (s.setTh t v).trings = s.trings := rfl
@[simp] theorem setTh_beeline (s : State) (t : Nat) (v : Thread) : (s.setTh t v).beeline = s.beeline := rfl
@[simp] theorem setTh_blHold (s : State) (t : Nat) (v : Thread) : (s.setTh t v).blHold = s.blHold := rfl
@[simp] theorem setTh_slots (s : State) (t : Nat) (v : Thread) : (s.setTh t v).slots = s.slots := rfl
@[simp] theorem setTh_slotPend (s : State) (t : Nat) (v : Thread) : (s.setTh t v).slotPend = s.slotPend := rfl
@[simp] theorem setTh_slotHeld (s : State) (t : Nat) (v : Thread) : (s.setTh t v).slotHeld = s.slotHeld := rfl
@[simp] theorem setTh_softSeen (s : State) (t : Nat) (v : Thread) : (s.setTh t v).softSeen = s.softSeen := rfl
@[simp] theorem setTh_sops (s : State) (t : Nat) (v : Thread) : (s.setTh t v).sops = s.sops := rfl
@[simp] theorem setTh_opN (s : State) (t : Nat) (v : Thread) : (s.setTh t v).opN = s.opN := rfl
@[simp] theorem setTh_progStage (s : State) (t : Nat) (v : Thread) : (s.setTh t v).progStage = s.progStage := rfl
@[simp] theorem setTh_modes (s : State) (t : Nat) (v : Thread) : (s.setTh t v).modes = s.modes := rfl
@[simp] theorem setTh_modesStaged (s : State) (t : Nat) (v : Thread) : (s.setTh t v).modesStaged = s.modesStaged := rfl
@[simp] theorem setTh_maskSeed (s : State) (t : Nat) (v : Thread) : (s.setTh t v).maskSeed = s.maskSeed := rfl
@[simp] theorem setTh_maskClk (s : State) (t : Nat) (v : Thread) : (s.setTh t v).maskClk = s.maskClk := rfl
@[simp] theorem setTh_trigLate (s : State) (t : Nat) (v : Thread) : (s.setTh t v).trigLate = s.trigLate := rfl
@[simp] theorem setTh_ageClk (s : State) (t : Nat) (v : Thread) : (s.setTh t v).ageClk = s.ageClk := rfl
@[simp] theorem setTh_maskBlk (s : State) (t : Nat) (v : Thread) : (s.setTh t v).maskBlk = s.maskBlk := rfl
@[simp] theorem setTh_kek (s : State) (t : Nat) (v : Thread) : (s.setTh t v).kek = s.kek := rfl
@[simp] theorem setTh_peerWin (s : State) (t : Nat) (v : Thread) : (s.setTh t v).peerWin = s.peerWin := rfl
@[simp] theorem setTh_progBusy (s : State) (t : Nat) (v : Thread) : (s.setTh t v).progBusy = s.progBusy := rfl
@[simp] theorem setTh_nsRec (s : State) (t : Nat) (v : Thread) : (s.setTh t v).nsRec = s.nsRec := rfl
@[simp] theorem setTh_extents (s : State) (t : Nat) (v : Thread) : (s.setTh t v).extents = s.extents := rfl
@[simp] theorem setTh_connRec (s : State) (t : Nat) (v : Thread) : (s.setTh t v).connRec = s.connRec := rfl
@[simp] theorem setTh_nsHeld (s : State) (t : Nat) (v : Thread) : (s.setTh t v).nsHeld = s.nsHeld := rfl
@[simp] theorem setTh_connHeld (s : State) (t : Nat) (v : Thread) : (s.setTh t v).connHeld = s.connHeld := rfl
@[simp] theorem setTh_connx (s : State) (t : Nat) (v : Thread) : (s.setTh t v).connx = s.connx := rfl
@[simp] theorem setTh_sreqs (s : State) (t : Nat) (v : Thread) : (s.setTh t v).sreqs = s.sreqs := rfl
@[simp] theorem setTh_sparts (s : State) (t : Nat) (v : Thread) : (s.setTh t v).sparts = s.sparts := rfl
@[simp] theorem setTh_storIn (s : State) (t : Nat) (v : Thread) : (s.setTh t v).storIn = s.storIn := rfl
@[simp] theorem setTh_reqN (s : State) (t : Nat) (v : Thread) : (s.setTh t v).reqN = s.reqN := rfl
@[simp] theorem setTh_chRec (s : State) (t : Nat) (v : Thread) : (s.setTh t v).chRec = s.chRec := rfl
@[simp] theorem setTh_fdescs (s : State) (t : Nat) (v : Thread) : (s.setTh t v).fdescs = s.fdescs := rfl
@[simp] theorem setTh_fdescN (s : State) (t : Nat) (v : Thread) : (s.setTh t v).fdescN = s.fdescN := rfl
@[simp] theorem setTh_poison (s : State) (t : Nat) (v : Thread) : (s.setTh t v).poison = s.poison := rfl
@[simp] theorem setTh_ncsi (s : State) (t : Nat) (v : Thread) : (s.setTh t v).ncsi = s.ncsi := rfl
@[simp] theorem setTh_svc (s : State) (t : Nat) (v : Thread) : (s.setTh t v).svc = s.svc := rfl
@[simp] theorem setTh_dbWait (s : State) (t : Nat) (v : Thread) : (s.setTh t v).dbWait = s.dbWait := rfl
@[simp] theorem setTh_dbN (s : State) (t : Nat) (v : Thread) : (s.setTh t v).dbN = s.dbN := rfl
@[simp] theorem setTh_pad (s : State) (t : Nat) (v : Thread) : (s.setTh t v).pad = s.pad := rfl

/-! setHv. -/
@[simp] theorem setHv_pending (s : State) (h : Nat) (v : HiveSt) : (s.setHv h v).pending = s.pending := rfl
@[simp] theorem setHv_regs (s : State) (h : Nat) (v : HiveSt) : (s.setHv h v).regs = s.regs := rfl
@[simp] theorem setHv_free (s : State) (h : Nat) (v : HiveSt) : (s.setHv h v).free = s.free := rfl
@[simp] theorem setHv_out (s : State) (h : Nat) (v : HiveSt) : (s.setHv h v).out = s.out := rfl
@[simp] theorem setHv_edryn (s : State) (h : Nat) (v : HiveSt) : (s.setHv h v).edryn = s.edryn := rfl
@[simp] theorem setHv_ff (s : State) (h : Nat) (v : HiveSt) : (s.setHv h v).ff = s.ff := rfl
@[simp] theorem setHv_page (s : State) (h : Nat) (v : HiveSt) : (s.setHv h v).page = s.page := rfl
@[simp] theorem setHv_held (s : State) (h : Nat) (v : HiveSt) : (s.setHv h v).held = s.held := rfl
@[simp] theorem setHv_links (s : State) (h : Nat) (v : HiveSt) : (s.setHv h v).links = s.links := rfl
@[simp] theorem setHv_jobs (s : State) (h : Nat) (v : HiveSt) : (s.setHv h v).jobs = s.jobs := rfl
@[simp] theorem setHv_jobN (s : State) (h : Nat) (v : HiveSt) : (s.setHv h v).jobN = s.jobN := rfl
@[simp] theorem setHv_xl (s : State) (h : Nat) (v : HiveSt) : (s.setHv h v).xl = s.xl := rfl
@[simp] theorem setHv_xlDenied (s : State) (h : Nat) (v : HiveSt) : (s.setHv h v).xlDenied = s.xlDenied := rfl
@[simp] theorem setHv_ints (s : State) (h : Nat) (v : HiveSt) : (s.setHv h v).ints = s.ints := rfl
@[simp] theorem setHv_tapBusy (s : State) (h : Nat) (v : HiveSt) : (s.setHv h v).tapBusy = s.tapBusy := rfl
@[simp] theorem setHv_tapClk (s : State) (h : Nat) (v : HiveSt) : (s.setHv h v).tapClk = s.tapClk := rfl
@[simp] theorem setHv_dom (s : State) (h : Nat) (v : HiveSt) : (s.setHv h v).dom = s.dom := rfl
@[simp] theorem setHv_votes (s : State) (h : Nat) (v : HiveSt) : (s.setHv h v).votes = s.votes := rfl
@[simp] theorem setHv_xfer (s : State) (h : Nat) (v : HiveSt) : (s.setHv h v).xfer = s.xfer := rfl
@[simp] theorem setHv_fwc (s : State) (h : Nat) (v : HiveSt) : (s.setHv h v).fwc = s.fwc := rfl
@[simp] theorem setHv_repair (s : State) (h : Nat) (v : HiveSt) : (s.setHv h v).repair = s.repair := rfl
@[simp] theorem setHv_trust (s : State) (h : Nat) (v : HiveSt) : (s.setHv h v).trust = s.trust := rfl
@[simp] theorem setHv_pins (s : State) (h : Nat) (v : HiveSt) : (s.setHv h v).pins = s.pins := rfl
@[simp] theorem setHv_port (s : State) (h : Nat) (v : HiveSt) : (s.setHv h v).port = s.port := rfl
@[simp] theorem setHv_cross (s : State) (h : Nat) (v : HiveSt) : (s.setHv h v).cross = s.cross := rfl
@[simp] theorem setHv_inst (s : State) (h : Nat) (v : HiveSt) : (s.setHv h v).inst = s.inst := rfl
@[simp] theorem setHv_instStaged (s : State) (h : Nat) (v : HiveSt) : (s.setHv h v).instStaged = s.instStaged := rfl
@[simp] theorem setHv_instCmd (s : State) (h : Nat) (v : HiveSt) : (s.setHv h v).instCmd = s.instCmd := rfl
@[simp] theorem setHv_wq (s : State) (h : Nat) (v : HiveSt) : (s.setHv h v).wq = s.wq := rfl
@[simp] theorem setHv_cr (s : State) (h : Nat) (v : HiveSt) : (s.setHv h v).cr = s.cr := rfl
@[simp] theorem setHv_wqx (s : State) (h : Nat) (v : HiveSt) : (s.setHv h v).wqx = s.wqx := rfl
@[simp] theorem setHv_crx (s : State) (h : Nat) (v : HiveSt) : (s.setHv h v).crx = s.crx := rfl
@[simp] theorem setHv_icmd (s : State) (h : Nat) (v : HiveSt) : (s.setHv h v).icmd = s.icmd := rfl
@[simp] theorem setHv_hbm (s : State) (h : Nat) (v : HiveSt) : (s.setHv h v).hbm = s.hbm := rfl
@[simp] theorem setHv_store (s : State) (h : Nat) (v : HiveSt) : (s.setHv h v).store = s.store := rfl
@[simp] theorem setHv_imem (s : State) (h : Nat) (v : HiveSt) : (s.setHv h v).imem = s.imem := rfl
@[simp] theorem setHv_thread (s : State) (h : Nat) (v : HiveSt) : (s.setHv h v).thread = s.thread := rfl
@[simp] theorem setHv_hchan (s : State) (h : Nat) (v : HiveSt) : (s.setHv h v).hchan = s.hchan := rfl
@[simp] theorem setHv_hmsg (s : State) (h : Nat) (v : HiveSt) : (s.setHv h v).hmsg = s.hmsg := rfl
@[simp] theorem setHv_chOpen (s : State) (h : Nat) (v : HiveSt) : (s.setHv h v).chOpen = s.chOpen := rfl
@[simp] theorem setHv_pcfg (s : State) (h : Nat) (v : HiveSt) : (s.setHv h v).pcfg = s.pcfg := rfl
@[simp] theorem setHv_pcfgStaged (s : State) (h : Nat) (v : HiveSt) : (s.setHv h v).pcfgStaged = s.pcfgStaged := rfl
@[simp] theorem setHv_pcount (s : State) (h : Nat) (v : HiveSt) : (s.setHv h v).pcount = s.pcount := rfl
@[simp] theorem setHv_rules (s : State) (h : Nat) (v : HiveSt) : (s.setHv h v).rules = s.rules := rfl
@[simp] theorem setHv_ruleNs (s : State) (h : Nat) (v : HiveSt) : (s.setHv h v).ruleNs = s.ruleNs := rfl
@[simp] theorem setHv_oldest (s : State) (h : Nat) (v : HiveSt) : (s.setHv h v).oldest = s.oldest := rfl
@[simp] theorem setHv_flows (s : State) (h : Nat) (v : HiveSt) : (s.setHv h v).flows = s.flows := rfl
@[simp] theorem setHv_profiles (s : State) (h : Nat) (v : HiveSt) : (s.setHv h v).profiles = s.profiles := rfl
@[simp] theorem setHv_templates (s : State) (h : Nat) (v : HiveSt) : (s.setHv h v).templates = s.templates := rfl
@[simp] theorem setHv_steer (s : State) (h : Nat) (v : HiveSt) : (s.setHv h v).steer = s.steer := rfl
@[simp] theorem setHv_insBuf (s : State) (h : Nat) (v : HiveSt) : (s.setHv h v).insBuf = s.insBuf := rfl
@[simp] theorem setHv_flowHeld (s : State) (h : Nat) (v : HiveSt) : (s.setHv h v).flowHeld = s.flowHeld := rfl
@[simp] theorem setHv_ipId (s : State) (h : Nat) (v : HiveSt) : (s.setHv h v).ipId = s.ipId := rfl
@[simp] theorem setHv_learnClk (s : State) (h : Nat) (v : HiveSt) : (s.setHv h v).learnClk = s.learnClk := rfl
@[simp] theorem setHv_pkts (s : State) (h : Nat) (v : HiveSt) : (s.setHv h v).pkts = s.pkts := rfl
@[simp] theorem setHv_descs (s : State) (h : Nat) (v : HiveSt) : (s.setHv h v).descs = s.descs := rfl
@[simp] theorem setHv_serial (s : State) (h : Nat) (v : HiveSt) : (s.setHv h v).serial = s.serial := rfl
@[simp] theorem setHv_gens (s : State) (h : Nat) (v : HiveSt) : (s.setHv h v).gens = s.gens := rfl
@[simp] theorem setHv_pipeWait (s : State) (h : Nat) (v : HiveSt) : (s.setHv h v).pipeWait = s.pipeWait := rfl
@[simp] theorem setHv_noHive (s : State) (h : Nat) (v : HiveSt) : (s.setHv h v).noHive = s.noHive := rfl
@[simp] theorem setHv_admq (s : State) (h : Nat) (v : HiveSt) : (s.setHv h v).admq = s.admq := rfl
@[simp] theorem setHv_accts (s : State) (h : Nat) (v : HiveSt) : (s.setHv h v).accts = s.accts := rfl
@[simp] theorem setHv_poolUsed (s : State) (h : Nat) (v : HiveSt) : (s.setHv h v).poolUsed = s.poolUsed := rfl
@[simp] theorem setHv_hiveCells (s : State) (h : Nat) (v : HiveSt) : (s.setHv h v).hiveCells = s.hiveCells := rfl
@[simp] theorem setHv_xoffClk (s : State) (h : Nat) (v : HiveSt) : (s.setHv h v).xoffClk = s.xoffClk := rfl
@[simp] theorem setHv_lfsr (s : State) (h : Nat) (v : HiveSt) : (s.setHv h v).lfsr = s.lfsr := rfl
@[simp] theorem setHv_groups (s : State) (h : Nat) (v : HiveSt) : (s.setHv h v).groups = s.groups := rfl
@[simp] theorem setHv_members (s : State) (h : Nat) (v : HiveSt) : (s.setHv h v).members = s.members := rfl
@[simp] theorem setHv_rsvSize (s : State) (h : Nat) (v : HiveSt) : (s.setHv h v).rsvSize = s.rsvSize := rfl
@[simp] theorem setHv_rsvMem (s : State) (h : Nat) (v : HiveSt) : (s.setHv h v).rsvMem = s.rsvMem := rfl
@[simp] theorem setHv_cellWait (s : State) (h : Nat) (v : HiveSt) : (s.setHv h v).cellWait = s.cellWait := rfl
@[simp] theorem setHv_nodes (s : State) (h : Nat) (v : HiveSt) : (s.setHv h v).nodes = s.nodes := rfl
@[simp] theorem setHv_noder (s : State) (h : Nat) (v : HiveSt) : (s.setHv h v).noder = s.noder := rfl
@[simp] theorem setHv_groupV (s : State) (h : Nat) (v : HiveSt) : (s.setHv h v).groupV = s.groupV := rfl
@[simp] theorem setHv_policers (s : State) (h : Nat) (v : HiveSt) : (s.setHv h v).policers = s.policers := rfl
@[simp] theorem setHv_meters (s : State) (h : Nat) (v : HiveSt) : (s.setHv h v).meters = s.meters := rfl
@[simp] theorem setHv_samples (s : State) (h : Nat) (v : HiveSt) : (s.setHv h v).samples = s.samples := rfl
@[simp] theorem setHv_trings (s : State) (h : Nat) (v : HiveSt) : (s.setHv h v).trings = s.trings := rfl
@[simp] theorem setHv_beeline (s : State) (h : Nat) (v : HiveSt) : (s.setHv h v).beeline = s.beeline := rfl
@[simp] theorem setHv_blHold (s : State) (h : Nat) (v : HiveSt) : (s.setHv h v).blHold = s.blHold := rfl
@[simp] theorem setHv_slots (s : State) (h : Nat) (v : HiveSt) : (s.setHv h v).slots = s.slots := rfl
@[simp] theorem setHv_slotPend (s : State) (h : Nat) (v : HiveSt) : (s.setHv h v).slotPend = s.slotPend := rfl
@[simp] theorem setHv_slotHeld (s : State) (h : Nat) (v : HiveSt) : (s.setHv h v).slotHeld = s.slotHeld := rfl
@[simp] theorem setHv_softSeen (s : State) (h : Nat) (v : HiveSt) : (s.setHv h v).softSeen = s.softSeen := rfl
@[simp] theorem setHv_sops (s : State) (h : Nat) (v : HiveSt) : (s.setHv h v).sops = s.sops := rfl
@[simp] theorem setHv_opN (s : State) (h : Nat) (v : HiveSt) : (s.setHv h v).opN = s.opN := rfl
@[simp] theorem setHv_progStage (s : State) (h : Nat) (v : HiveSt) : (s.setHv h v).progStage = s.progStage := rfl
@[simp] theorem setHv_modes (s : State) (h : Nat) (v : HiveSt) : (s.setHv h v).modes = s.modes := rfl
@[simp] theorem setHv_modesStaged (s : State) (h : Nat) (v : HiveSt) : (s.setHv h v).modesStaged = s.modesStaged := rfl
@[simp] theorem setHv_maskSeed (s : State) (h : Nat) (v : HiveSt) : (s.setHv h v).maskSeed = s.maskSeed := rfl
@[simp] theorem setHv_maskClk (s : State) (h : Nat) (v : HiveSt) : (s.setHv h v).maskClk = s.maskClk := rfl
@[simp] theorem setHv_trigLate (s : State) (h : Nat) (v : HiveSt) : (s.setHv h v).trigLate = s.trigLate := rfl
@[simp] theorem setHv_ageClk (s : State) (h : Nat) (v : HiveSt) : (s.setHv h v).ageClk = s.ageClk := rfl
@[simp] theorem setHv_maskBlk (s : State) (h : Nat) (v : HiveSt) : (s.setHv h v).maskBlk = s.maskBlk := rfl
@[simp] theorem setHv_kek (s : State) (h : Nat) (v : HiveSt) : (s.setHv h v).kek = s.kek := rfl
@[simp] theorem setHv_peerWin (s : State) (h : Nat) (v : HiveSt) : (s.setHv h v).peerWin = s.peerWin := rfl
@[simp] theorem setHv_progBusy (s : State) (h : Nat) (v : HiveSt) : (s.setHv h v).progBusy = s.progBusy := rfl
@[simp] theorem setHv_nsRec (s : State) (h : Nat) (v : HiveSt) : (s.setHv h v).nsRec = s.nsRec := rfl
@[simp] theorem setHv_extents (s : State) (h : Nat) (v : HiveSt) : (s.setHv h v).extents = s.extents := rfl
@[simp] theorem setHv_connRec (s : State) (h : Nat) (v : HiveSt) : (s.setHv h v).connRec = s.connRec := rfl
@[simp] theorem setHv_nsHeld (s : State) (h : Nat) (v : HiveSt) : (s.setHv h v).nsHeld = s.nsHeld := rfl
@[simp] theorem setHv_connHeld (s : State) (h : Nat) (v : HiveSt) : (s.setHv h v).connHeld = s.connHeld := rfl
@[simp] theorem setHv_connx (s : State) (h : Nat) (v : HiveSt) : (s.setHv h v).connx = s.connx := rfl
@[simp] theorem setHv_sreqs (s : State) (h : Nat) (v : HiveSt) : (s.setHv h v).sreqs = s.sreqs := rfl
@[simp] theorem setHv_sparts (s : State) (h : Nat) (v : HiveSt) : (s.setHv h v).sparts = s.sparts := rfl
@[simp] theorem setHv_storIn (s : State) (h : Nat) (v : HiveSt) : (s.setHv h v).storIn = s.storIn := rfl
@[simp] theorem setHv_reqN (s : State) (h : Nat) (v : HiveSt) : (s.setHv h v).reqN = s.reqN := rfl
@[simp] theorem setHv_chRec (s : State) (h : Nat) (v : HiveSt) : (s.setHv h v).chRec = s.chRec := rfl
@[simp] theorem setHv_fdescs (s : State) (h : Nat) (v : HiveSt) : (s.setHv h v).fdescs = s.fdescs := rfl
@[simp] theorem setHv_fdescN (s : State) (h : Nat) (v : HiveSt) : (s.setHv h v).fdescN = s.fdescN := rfl
@[simp] theorem setHv_poison (s : State) (h : Nat) (v : HiveSt) : (s.setHv h v).poison = s.poison := rfl
@[simp] theorem setHv_ncsi (s : State) (h : Nat) (v : HiveSt) : (s.setHv h v).ncsi = s.ncsi := rfl
@[simp] theorem setHv_svc (s : State) (h : Nat) (v : HiveSt) : (s.setHv h v).svc = s.svc := rfl
@[simp] theorem setHv_dbWait (s : State) (h : Nat) (v : HiveSt) : (s.setHv h v).dbWait = s.dbWait := rfl
@[simp] theorem setHv_dbN (s : State) (h : Nat) (v : HiveSt) : (s.setHv h v).dbN = s.dbN := rfl
@[simp] theorem setHv_pad (s : State) (h : Nat) (v : HiveSt) : (s.setHv h v).pad = s.pad := rfl

/-! setLink. -/
@[simp] theorem setLink_pending (s : State) (l : Nat) (v : Link) : (s.setLink l v).pending = s.pending := rfl
@[simp] theorem setLink_regs (s : State) (l : Nat) (v : Link) : (s.setLink l v).regs = s.regs := rfl
@[simp] theorem setLink_free (s : State) (l : Nat) (v : Link) : (s.setLink l v).free = s.free := rfl
@[simp] theorem setLink_out (s : State) (l : Nat) (v : Link) : (s.setLink l v).out = s.out := rfl
@[simp] theorem setLink_edryn (s : State) (l : Nat) (v : Link) : (s.setLink l v).edryn = s.edryn := rfl
@[simp] theorem setLink_ff (s : State) (l : Nat) (v : Link) : (s.setLink l v).ff = s.ff := rfl
@[simp] theorem setLink_page (s : State) (l : Nat) (v : Link) : (s.setLink l v).page = s.page := rfl
@[simp] theorem setLink_held (s : State) (l : Nat) (v : Link) : (s.setLink l v).held = s.held := rfl
@[simp] theorem setLink_jobs (s : State) (l : Nat) (v : Link) : (s.setLink l v).jobs = s.jobs := rfl
@[simp] theorem setLink_jobN (s : State) (l : Nat) (v : Link) : (s.setLink l v).jobN = s.jobN := rfl
@[simp] theorem setLink_xl (s : State) (l : Nat) (v : Link) : (s.setLink l v).xl = s.xl := rfl
@[simp] theorem setLink_xlDenied (s : State) (l : Nat) (v : Link) : (s.setLink l v).xlDenied = s.xlDenied := rfl
@[simp] theorem setLink_ints (s : State) (l : Nat) (v : Link) : (s.setLink l v).ints = s.ints := rfl
@[simp] theorem setLink_tapBusy (s : State) (l : Nat) (v : Link) : (s.setLink l v).tapBusy = s.tapBusy := rfl
@[simp] theorem setLink_tapClk (s : State) (l : Nat) (v : Link) : (s.setLink l v).tapClk = s.tapClk := rfl
@[simp] theorem setLink_dom (s : State) (l : Nat) (v : Link) : (s.setLink l v).dom = s.dom := rfl
@[simp] theorem setLink_votes (s : State) (l : Nat) (v : Link) : (s.setLink l v).votes = s.votes := rfl
@[simp] theorem setLink_xfer (s : State) (l : Nat) (v : Link) : (s.setLink l v).xfer = s.xfer := rfl
@[simp] theorem setLink_fwc (s : State) (l : Nat) (v : Link) : (s.setLink l v).fwc = s.fwc := rfl
@[simp] theorem setLink_repair (s : State) (l : Nat) (v : Link) : (s.setLink l v).repair = s.repair := rfl
@[simp] theorem setLink_trust (s : State) (l : Nat) (v : Link) : (s.setLink l v).trust = s.trust := rfl
@[simp] theorem setLink_pins (s : State) (l : Nat) (v : Link) : (s.setLink l v).pins = s.pins := rfl
@[simp] theorem setLink_port (s : State) (l : Nat) (v : Link) : (s.setLink l v).port = s.port := rfl
@[simp] theorem setLink_cross (s : State) (l : Nat) (v : Link) : (s.setLink l v).cross = s.cross := rfl
@[simp] theorem setLink_inst (s : State) (l : Nat) (v : Link) : (s.setLink l v).inst = s.inst := rfl
@[simp] theorem setLink_instStaged (s : State) (l : Nat) (v : Link) : (s.setLink l v).instStaged = s.instStaged := rfl
@[simp] theorem setLink_instCmd (s : State) (l : Nat) (v : Link) : (s.setLink l v).instCmd = s.instCmd := rfl
@[simp] theorem setLink_wq (s : State) (l : Nat) (v : Link) : (s.setLink l v).wq = s.wq := rfl
@[simp] theorem setLink_cr (s : State) (l : Nat) (v : Link) : (s.setLink l v).cr = s.cr := rfl
@[simp] theorem setLink_wqx (s : State) (l : Nat) (v : Link) : (s.setLink l v).wqx = s.wqx := rfl
@[simp] theorem setLink_crx (s : State) (l : Nat) (v : Link) : (s.setLink l v).crx = s.crx := rfl
@[simp] theorem setLink_icmd (s : State) (l : Nat) (v : Link) : (s.setLink l v).icmd = s.icmd := rfl
@[simp] theorem setLink_hbm (s : State) (l : Nat) (v : Link) : (s.setLink l v).hbm = s.hbm := rfl
@[simp] theorem setLink_store (s : State) (l : Nat) (v : Link) : (s.setLink l v).store = s.store := rfl
@[simp] theorem setLink_imem (s : State) (l : Nat) (v : Link) : (s.setLink l v).imem = s.imem := rfl
@[simp] theorem setLink_thread (s : State) (l : Nat) (v : Link) : (s.setLink l v).thread = s.thread := rfl
@[simp] theorem setLink_hive (s : State) (l : Nat) (v : Link) : (s.setLink l v).hive = s.hive := rfl
@[simp] theorem setLink_hchan (s : State) (l : Nat) (v : Link) : (s.setLink l v).hchan = s.hchan := rfl
@[simp] theorem setLink_hmsg (s : State) (l : Nat) (v : Link) : (s.setLink l v).hmsg = s.hmsg := rfl
@[simp] theorem setLink_chOpen (s : State) (l : Nat) (v : Link) : (s.setLink l v).chOpen = s.chOpen := rfl
@[simp] theorem setLink_pcfg (s : State) (l : Nat) (v : Link) : (s.setLink l v).pcfg = s.pcfg := rfl
@[simp] theorem setLink_pcfgStaged (s : State) (l : Nat) (v : Link) : (s.setLink l v).pcfgStaged = s.pcfgStaged := rfl
@[simp] theorem setLink_pcount (s : State) (l : Nat) (v : Link) : (s.setLink l v).pcount = s.pcount := rfl
@[simp] theorem setLink_rules (s : State) (l : Nat) (v : Link) : (s.setLink l v).rules = s.rules := rfl
@[simp] theorem setLink_ruleNs (s : State) (l : Nat) (v : Link) : (s.setLink l v).ruleNs = s.ruleNs := rfl
@[simp] theorem setLink_oldest (s : State) (l : Nat) (v : Link) : (s.setLink l v).oldest = s.oldest := rfl
@[simp] theorem setLink_flows (s : State) (l : Nat) (v : Link) : (s.setLink l v).flows = s.flows := rfl
@[simp] theorem setLink_profiles (s : State) (l : Nat) (v : Link) : (s.setLink l v).profiles = s.profiles := rfl
@[simp] theorem setLink_templates (s : State) (l : Nat) (v : Link) : (s.setLink l v).templates = s.templates := rfl
@[simp] theorem setLink_steer (s : State) (l : Nat) (v : Link) : (s.setLink l v).steer = s.steer := rfl
@[simp] theorem setLink_insBuf (s : State) (l : Nat) (v : Link) : (s.setLink l v).insBuf = s.insBuf := rfl
@[simp] theorem setLink_flowHeld (s : State) (l : Nat) (v : Link) : (s.setLink l v).flowHeld = s.flowHeld := rfl
@[simp] theorem setLink_ipId (s : State) (l : Nat) (v : Link) : (s.setLink l v).ipId = s.ipId := rfl
@[simp] theorem setLink_learnClk (s : State) (l : Nat) (v : Link) : (s.setLink l v).learnClk = s.learnClk := rfl
@[simp] theorem setLink_pkts (s : State) (l : Nat) (v : Link) : (s.setLink l v).pkts = s.pkts := rfl
@[simp] theorem setLink_descs (s : State) (l : Nat) (v : Link) : (s.setLink l v).descs = s.descs := rfl
@[simp] theorem setLink_serial (s : State) (l : Nat) (v : Link) : (s.setLink l v).serial = s.serial := rfl
@[simp] theorem setLink_gens (s : State) (l : Nat) (v : Link) : (s.setLink l v).gens = s.gens := rfl
@[simp] theorem setLink_pipeWait (s : State) (l : Nat) (v : Link) : (s.setLink l v).pipeWait = s.pipeWait := rfl
@[simp] theorem setLink_noHive (s : State) (l : Nat) (v : Link) : (s.setLink l v).noHive = s.noHive := rfl
@[simp] theorem setLink_admq (s : State) (l : Nat) (v : Link) : (s.setLink l v).admq = s.admq := rfl
@[simp] theorem setLink_accts (s : State) (l : Nat) (v : Link) : (s.setLink l v).accts = s.accts := rfl
@[simp] theorem setLink_poolUsed (s : State) (l : Nat) (v : Link) : (s.setLink l v).poolUsed = s.poolUsed := rfl
@[simp] theorem setLink_hiveCells (s : State) (l : Nat) (v : Link) : (s.setLink l v).hiveCells = s.hiveCells := rfl
@[simp] theorem setLink_xoffClk (s : State) (l : Nat) (v : Link) : (s.setLink l v).xoffClk = s.xoffClk := rfl
@[simp] theorem setLink_lfsr (s : State) (l : Nat) (v : Link) : (s.setLink l v).lfsr = s.lfsr := rfl
@[simp] theorem setLink_groups (s : State) (l : Nat) (v : Link) : (s.setLink l v).groups = s.groups := rfl
@[simp] theorem setLink_members (s : State) (l : Nat) (v : Link) : (s.setLink l v).members = s.members := rfl
@[simp] theorem setLink_rsvSize (s : State) (l : Nat) (v : Link) : (s.setLink l v).rsvSize = s.rsvSize := rfl
@[simp] theorem setLink_rsvMem (s : State) (l : Nat) (v : Link) : (s.setLink l v).rsvMem = s.rsvMem := rfl
@[simp] theorem setLink_cellWait (s : State) (l : Nat) (v : Link) : (s.setLink l v).cellWait = s.cellWait := rfl
@[simp] theorem setLink_nodes (s : State) (l : Nat) (v : Link) : (s.setLink l v).nodes = s.nodes := rfl
@[simp] theorem setLink_noder (s : State) (l : Nat) (v : Link) : (s.setLink l v).noder = s.noder := rfl
@[simp] theorem setLink_groupV (s : State) (l : Nat) (v : Link) : (s.setLink l v).groupV = s.groupV := rfl
@[simp] theorem setLink_policers (s : State) (l : Nat) (v : Link) : (s.setLink l v).policers = s.policers := rfl
@[simp] theorem setLink_meters (s : State) (l : Nat) (v : Link) : (s.setLink l v).meters = s.meters := rfl
@[simp] theorem setLink_samples (s : State) (l : Nat) (v : Link) : (s.setLink l v).samples = s.samples := rfl
@[simp] theorem setLink_trings (s : State) (l : Nat) (v : Link) : (s.setLink l v).trings = s.trings := rfl
@[simp] theorem setLink_beeline (s : State) (l : Nat) (v : Link) : (s.setLink l v).beeline = s.beeline := rfl
@[simp] theorem setLink_blHold (s : State) (l : Nat) (v : Link) : (s.setLink l v).blHold = s.blHold := rfl
@[simp] theorem setLink_slots (s : State) (l : Nat) (v : Link) : (s.setLink l v).slots = s.slots := rfl
@[simp] theorem setLink_slotPend (s : State) (l : Nat) (v : Link) : (s.setLink l v).slotPend = s.slotPend := rfl
@[simp] theorem setLink_slotHeld (s : State) (l : Nat) (v : Link) : (s.setLink l v).slotHeld = s.slotHeld := rfl
@[simp] theorem setLink_softSeen (s : State) (l : Nat) (v : Link) : (s.setLink l v).softSeen = s.softSeen := rfl
@[simp] theorem setLink_sops (s : State) (l : Nat) (v : Link) : (s.setLink l v).sops = s.sops := rfl
@[simp] theorem setLink_opN (s : State) (l : Nat) (v : Link) : (s.setLink l v).opN = s.opN := rfl
@[simp] theorem setLink_progStage (s : State) (l : Nat) (v : Link) : (s.setLink l v).progStage = s.progStage := rfl
@[simp] theorem setLink_modes (s : State) (l : Nat) (v : Link) : (s.setLink l v).modes = s.modes := rfl
@[simp] theorem setLink_modesStaged (s : State) (l : Nat) (v : Link) : (s.setLink l v).modesStaged = s.modesStaged := rfl
@[simp] theorem setLink_maskSeed (s : State) (l : Nat) (v : Link) : (s.setLink l v).maskSeed = s.maskSeed := rfl
@[simp] theorem setLink_maskClk (s : State) (l : Nat) (v : Link) : (s.setLink l v).maskClk = s.maskClk := rfl
@[simp] theorem setLink_trigLate (s : State) (l : Nat) (v : Link) : (s.setLink l v).trigLate = s.trigLate := rfl
@[simp] theorem setLink_ageClk (s : State) (l : Nat) (v : Link) : (s.setLink l v).ageClk = s.ageClk := rfl
@[simp] theorem setLink_maskBlk (s : State) (l : Nat) (v : Link) : (s.setLink l v).maskBlk = s.maskBlk := rfl
@[simp] theorem setLink_kek (s : State) (l : Nat) (v : Link) : (s.setLink l v).kek = s.kek := rfl
@[simp] theorem setLink_peerWin (s : State) (l : Nat) (v : Link) : (s.setLink l v).peerWin = s.peerWin := rfl
@[simp] theorem setLink_progBusy (s : State) (l : Nat) (v : Link) : (s.setLink l v).progBusy = s.progBusy := rfl
@[simp] theorem setLink_nsRec (s : State) (l : Nat) (v : Link) : (s.setLink l v).nsRec = s.nsRec := rfl
@[simp] theorem setLink_extents (s : State) (l : Nat) (v : Link) : (s.setLink l v).extents = s.extents := rfl
@[simp] theorem setLink_connRec (s : State) (l : Nat) (v : Link) : (s.setLink l v).connRec = s.connRec := rfl
@[simp] theorem setLink_nsHeld (s : State) (l : Nat) (v : Link) : (s.setLink l v).nsHeld = s.nsHeld := rfl
@[simp] theorem setLink_connHeld (s : State) (l : Nat) (v : Link) : (s.setLink l v).connHeld = s.connHeld := rfl
@[simp] theorem setLink_connx (s : State) (l : Nat) (v : Link) : (s.setLink l v).connx = s.connx := rfl
@[simp] theorem setLink_sreqs (s : State) (l : Nat) (v : Link) : (s.setLink l v).sreqs = s.sreqs := rfl
@[simp] theorem setLink_sparts (s : State) (l : Nat) (v : Link) : (s.setLink l v).sparts = s.sparts := rfl
@[simp] theorem setLink_storIn (s : State) (l : Nat) (v : Link) : (s.setLink l v).storIn = s.storIn := rfl
@[simp] theorem setLink_reqN (s : State) (l : Nat) (v : Link) : (s.setLink l v).reqN = s.reqN := rfl
@[simp] theorem setLink_chRec (s : State) (l : Nat) (v : Link) : (s.setLink l v).chRec = s.chRec := rfl
@[simp] theorem setLink_fdescs (s : State) (l : Nat) (v : Link) : (s.setLink l v).fdescs = s.fdescs := rfl
@[simp] theorem setLink_fdescN (s : State) (l : Nat) (v : Link) : (s.setLink l v).fdescN = s.fdescN := rfl
@[simp] theorem setLink_poison (s : State) (l : Nat) (v : Link) : (s.setLink l v).poison = s.poison := rfl
@[simp] theorem setLink_ncsi (s : State) (l : Nat) (v : Link) : (s.setLink l v).ncsi = s.ncsi := rfl
@[simp] theorem setLink_svc (s : State) (l : Nat) (v : Link) : (s.setLink l v).svc = s.svc := rfl
@[simp] theorem setLink_dbWait (s : State) (l : Nat) (v : Link) : (s.setLink l v).dbWait = s.dbWait := rfl
@[simp] theorem setLink_dbN (s : State) (l : Nat) (v : Link) : (s.setLink l v).dbN = s.dbN := rfl
@[simp] theorem setLink_pad (s : State) (l : Nat) (v : Link) : (s.setLink l v).pad = s.pad := rfl

/-! modEdryn. -/
@[simp] theorem modEdryn_pending (s : State) (f : Edryn → Edryn) : (s.modEdryn f).pending = s.pending := rfl
@[simp] theorem modEdryn_regs (s : State) (f : Edryn → Edryn) : (s.modEdryn f).regs = s.regs := rfl
@[simp] theorem modEdryn_free (s : State) (f : Edryn → Edryn) : (s.modEdryn f).free = s.free := rfl
@[simp] theorem modEdryn_out (s : State) (f : Edryn → Edryn) : (s.modEdryn f).out = s.out := rfl
@[simp] theorem modEdryn_ff (s : State) (f : Edryn → Edryn) : (s.modEdryn f).ff = s.ff := rfl
@[simp] theorem modEdryn_page (s : State) (f : Edryn → Edryn) : (s.modEdryn f).page = s.page := rfl
@[simp] theorem modEdryn_held (s : State) (f : Edryn → Edryn) : (s.modEdryn f).held = s.held := rfl
@[simp] theorem modEdryn_links (s : State) (f : Edryn → Edryn) : (s.modEdryn f).links = s.links := rfl
@[simp] theorem modEdryn_jobs (s : State) (f : Edryn → Edryn) : (s.modEdryn f).jobs = s.jobs := rfl
@[simp] theorem modEdryn_jobN (s : State) (f : Edryn → Edryn) : (s.modEdryn f).jobN = s.jobN := rfl
@[simp] theorem modEdryn_xl (s : State) (f : Edryn → Edryn) : (s.modEdryn f).xl = s.xl := rfl
@[simp] theorem modEdryn_xlDenied (s : State) (f : Edryn → Edryn) : (s.modEdryn f).xlDenied = s.xlDenied := rfl
@[simp] theorem modEdryn_ints (s : State) (f : Edryn → Edryn) : (s.modEdryn f).ints = s.ints := rfl
@[simp] theorem modEdryn_tapBusy (s : State) (f : Edryn → Edryn) : (s.modEdryn f).tapBusy = s.tapBusy := rfl
@[simp] theorem modEdryn_tapClk (s : State) (f : Edryn → Edryn) : (s.modEdryn f).tapClk = s.tapClk := rfl
@[simp] theorem modEdryn_dom (s : State) (f : Edryn → Edryn) : (s.modEdryn f).dom = s.dom := rfl
@[simp] theorem modEdryn_votes (s : State) (f : Edryn → Edryn) : (s.modEdryn f).votes = s.votes := rfl
@[simp] theorem modEdryn_xfer (s : State) (f : Edryn → Edryn) : (s.modEdryn f).xfer = s.xfer := rfl
@[simp] theorem modEdryn_fwc (s : State) (f : Edryn → Edryn) : (s.modEdryn f).fwc = s.fwc := rfl
@[simp] theorem modEdryn_repair (s : State) (f : Edryn → Edryn) : (s.modEdryn f).repair = s.repair := rfl
@[simp] theorem modEdryn_trust (s : State) (f : Edryn → Edryn) : (s.modEdryn f).trust = s.trust := rfl
@[simp] theorem modEdryn_pins (s : State) (f : Edryn → Edryn) : (s.modEdryn f).pins = s.pins := rfl
@[simp] theorem modEdryn_port (s : State) (f : Edryn → Edryn) : (s.modEdryn f).port = s.port := rfl
@[simp] theorem modEdryn_cross (s : State) (f : Edryn → Edryn) : (s.modEdryn f).cross = s.cross := rfl
@[simp] theorem modEdryn_inst (s : State) (f : Edryn → Edryn) : (s.modEdryn f).inst = s.inst := rfl
@[simp] theorem modEdryn_instStaged (s : State) (f : Edryn → Edryn) : (s.modEdryn f).instStaged = s.instStaged := rfl
@[simp] theorem modEdryn_instCmd (s : State) (f : Edryn → Edryn) : (s.modEdryn f).instCmd = s.instCmd := rfl
@[simp] theorem modEdryn_wq (s : State) (f : Edryn → Edryn) : (s.modEdryn f).wq = s.wq := rfl
@[simp] theorem modEdryn_cr (s : State) (f : Edryn → Edryn) : (s.modEdryn f).cr = s.cr := rfl
@[simp] theorem modEdryn_wqx (s : State) (f : Edryn → Edryn) : (s.modEdryn f).wqx = s.wqx := rfl
@[simp] theorem modEdryn_crx (s : State) (f : Edryn → Edryn) : (s.modEdryn f).crx = s.crx := rfl
@[simp] theorem modEdryn_icmd (s : State) (f : Edryn → Edryn) : (s.modEdryn f).icmd = s.icmd := rfl
@[simp] theorem modEdryn_hbm (s : State) (f : Edryn → Edryn) : (s.modEdryn f).hbm = s.hbm := rfl
@[simp] theorem modEdryn_store (s : State) (f : Edryn → Edryn) : (s.modEdryn f).store = s.store := rfl
@[simp] theorem modEdryn_imem (s : State) (f : Edryn → Edryn) : (s.modEdryn f).imem = s.imem := rfl
@[simp] theorem modEdryn_thread (s : State) (f : Edryn → Edryn) : (s.modEdryn f).thread = s.thread := rfl
@[simp] theorem modEdryn_hive (s : State) (f : Edryn → Edryn) : (s.modEdryn f).hive = s.hive := rfl
@[simp] theorem modEdryn_hchan (s : State) (f : Edryn → Edryn) : (s.modEdryn f).hchan = s.hchan := rfl
@[simp] theorem modEdryn_hmsg (s : State) (f : Edryn → Edryn) : (s.modEdryn f).hmsg = s.hmsg := rfl
@[simp] theorem modEdryn_chOpen (s : State) (f : Edryn → Edryn) : (s.modEdryn f).chOpen = s.chOpen := rfl
@[simp] theorem modEdryn_pcfg (s : State) (f : Edryn → Edryn) : (s.modEdryn f).pcfg = s.pcfg := rfl
@[simp] theorem modEdryn_pcfgStaged (s : State) (f : Edryn → Edryn) : (s.modEdryn f).pcfgStaged = s.pcfgStaged := rfl
@[simp] theorem modEdryn_pcount (s : State) (f : Edryn → Edryn) : (s.modEdryn f).pcount = s.pcount := rfl
@[simp] theorem modEdryn_rules (s : State) (f : Edryn → Edryn) : (s.modEdryn f).rules = s.rules := rfl
@[simp] theorem modEdryn_ruleNs (s : State) (f : Edryn → Edryn) : (s.modEdryn f).ruleNs = s.ruleNs := rfl
@[simp] theorem modEdryn_oldest (s : State) (f : Edryn → Edryn) : (s.modEdryn f).oldest = s.oldest := rfl
@[simp] theorem modEdryn_flows (s : State) (f : Edryn → Edryn) : (s.modEdryn f).flows = s.flows := rfl
@[simp] theorem modEdryn_profiles (s : State) (f : Edryn → Edryn) : (s.modEdryn f).profiles = s.profiles := rfl
@[simp] theorem modEdryn_templates (s : State) (f : Edryn → Edryn) : (s.modEdryn f).templates = s.templates := rfl
@[simp] theorem modEdryn_steer (s : State) (f : Edryn → Edryn) : (s.modEdryn f).steer = s.steer := rfl
@[simp] theorem modEdryn_insBuf (s : State) (f : Edryn → Edryn) : (s.modEdryn f).insBuf = s.insBuf := rfl
@[simp] theorem modEdryn_flowHeld (s : State) (f : Edryn → Edryn) : (s.modEdryn f).flowHeld = s.flowHeld := rfl
@[simp] theorem modEdryn_ipId (s : State) (f : Edryn → Edryn) : (s.modEdryn f).ipId = s.ipId := rfl
@[simp] theorem modEdryn_learnClk (s : State) (f : Edryn → Edryn) : (s.modEdryn f).learnClk = s.learnClk := rfl
@[simp] theorem modEdryn_pkts (s : State) (f : Edryn → Edryn) : (s.modEdryn f).pkts = s.pkts := rfl
@[simp] theorem modEdryn_descs (s : State) (f : Edryn → Edryn) : (s.modEdryn f).descs = s.descs := rfl
@[simp] theorem modEdryn_serial (s : State) (f : Edryn → Edryn) : (s.modEdryn f).serial = s.serial := rfl
@[simp] theorem modEdryn_gens (s : State) (f : Edryn → Edryn) : (s.modEdryn f).gens = s.gens := rfl
@[simp] theorem modEdryn_pipeWait (s : State) (f : Edryn → Edryn) : (s.modEdryn f).pipeWait = s.pipeWait := rfl
@[simp] theorem modEdryn_noHive (s : State) (f : Edryn → Edryn) : (s.modEdryn f).noHive = s.noHive := rfl
@[simp] theorem modEdryn_admq (s : State) (f : Edryn → Edryn) : (s.modEdryn f).admq = s.admq := rfl
@[simp] theorem modEdryn_accts (s : State) (f : Edryn → Edryn) : (s.modEdryn f).accts = s.accts := rfl
@[simp] theorem modEdryn_poolUsed (s : State) (f : Edryn → Edryn) : (s.modEdryn f).poolUsed = s.poolUsed := rfl
@[simp] theorem modEdryn_hiveCells (s : State) (f : Edryn → Edryn) : (s.modEdryn f).hiveCells = s.hiveCells := rfl
@[simp] theorem modEdryn_xoffClk (s : State) (f : Edryn → Edryn) : (s.modEdryn f).xoffClk = s.xoffClk := rfl
@[simp] theorem modEdryn_lfsr (s : State) (f : Edryn → Edryn) : (s.modEdryn f).lfsr = s.lfsr := rfl
@[simp] theorem modEdryn_groups (s : State) (f : Edryn → Edryn) : (s.modEdryn f).groups = s.groups := rfl
@[simp] theorem modEdryn_members (s : State) (f : Edryn → Edryn) : (s.modEdryn f).members = s.members := rfl
@[simp] theorem modEdryn_rsvSize (s : State) (f : Edryn → Edryn) : (s.modEdryn f).rsvSize = s.rsvSize := rfl
@[simp] theorem modEdryn_rsvMem (s : State) (f : Edryn → Edryn) : (s.modEdryn f).rsvMem = s.rsvMem := rfl
@[simp] theorem modEdryn_cellWait (s : State) (f : Edryn → Edryn) : (s.modEdryn f).cellWait = s.cellWait := rfl
@[simp] theorem modEdryn_nodes (s : State) (f : Edryn → Edryn) : (s.modEdryn f).nodes = s.nodes := rfl
@[simp] theorem modEdryn_noder (s : State) (f : Edryn → Edryn) : (s.modEdryn f).noder = s.noder := rfl
@[simp] theorem modEdryn_groupV (s : State) (f : Edryn → Edryn) : (s.modEdryn f).groupV = s.groupV := rfl
@[simp] theorem modEdryn_policers (s : State) (f : Edryn → Edryn) : (s.modEdryn f).policers = s.policers := rfl
@[simp] theorem modEdryn_meters (s : State) (f : Edryn → Edryn) : (s.modEdryn f).meters = s.meters := rfl
@[simp] theorem modEdryn_samples (s : State) (f : Edryn → Edryn) : (s.modEdryn f).samples = s.samples := rfl
@[simp] theorem modEdryn_trings (s : State) (f : Edryn → Edryn) : (s.modEdryn f).trings = s.trings := rfl
@[simp] theorem modEdryn_beeline (s : State) (f : Edryn → Edryn) : (s.modEdryn f).beeline = s.beeline := rfl
@[simp] theorem modEdryn_blHold (s : State) (f : Edryn → Edryn) : (s.modEdryn f).blHold = s.blHold := rfl
@[simp] theorem modEdryn_slots (s : State) (f : Edryn → Edryn) : (s.modEdryn f).slots = s.slots := rfl
@[simp] theorem modEdryn_slotPend (s : State) (f : Edryn → Edryn) : (s.modEdryn f).slotPend = s.slotPend := rfl
@[simp] theorem modEdryn_slotHeld (s : State) (f : Edryn → Edryn) : (s.modEdryn f).slotHeld = s.slotHeld := rfl
@[simp] theorem modEdryn_softSeen (s : State) (f : Edryn → Edryn) : (s.modEdryn f).softSeen = s.softSeen := rfl
@[simp] theorem modEdryn_sops (s : State) (f : Edryn → Edryn) : (s.modEdryn f).sops = s.sops := rfl
@[simp] theorem modEdryn_opN (s : State) (f : Edryn → Edryn) : (s.modEdryn f).opN = s.opN := rfl
@[simp] theorem modEdryn_progStage (s : State) (f : Edryn → Edryn) : (s.modEdryn f).progStage = s.progStage := rfl
@[simp] theorem modEdryn_modes (s : State) (f : Edryn → Edryn) : (s.modEdryn f).modes = s.modes := rfl
@[simp] theorem modEdryn_modesStaged (s : State) (f : Edryn → Edryn) : (s.modEdryn f).modesStaged = s.modesStaged := rfl
@[simp] theorem modEdryn_maskSeed (s : State) (f : Edryn → Edryn) : (s.modEdryn f).maskSeed = s.maskSeed := rfl
@[simp] theorem modEdryn_maskClk (s : State) (f : Edryn → Edryn) : (s.modEdryn f).maskClk = s.maskClk := rfl
@[simp] theorem modEdryn_trigLate (s : State) (f : Edryn → Edryn) : (s.modEdryn f).trigLate = s.trigLate := rfl
@[simp] theorem modEdryn_ageClk (s : State) (f : Edryn → Edryn) : (s.modEdryn f).ageClk = s.ageClk := rfl
@[simp] theorem modEdryn_maskBlk (s : State) (f : Edryn → Edryn) : (s.modEdryn f).maskBlk = s.maskBlk := rfl
@[simp] theorem modEdryn_kek (s : State) (f : Edryn → Edryn) : (s.modEdryn f).kek = s.kek := rfl
@[simp] theorem modEdryn_peerWin (s : State) (f : Edryn → Edryn) : (s.modEdryn f).peerWin = s.peerWin := rfl
@[simp] theorem modEdryn_progBusy (s : State) (f : Edryn → Edryn) : (s.modEdryn f).progBusy = s.progBusy := rfl
@[simp] theorem modEdryn_nsRec (s : State) (f : Edryn → Edryn) : (s.modEdryn f).nsRec = s.nsRec := rfl
@[simp] theorem modEdryn_extents (s : State) (f : Edryn → Edryn) : (s.modEdryn f).extents = s.extents := rfl
@[simp] theorem modEdryn_connRec (s : State) (f : Edryn → Edryn) : (s.modEdryn f).connRec = s.connRec := rfl
@[simp] theorem modEdryn_nsHeld (s : State) (f : Edryn → Edryn) : (s.modEdryn f).nsHeld = s.nsHeld := rfl
@[simp] theorem modEdryn_connHeld (s : State) (f : Edryn → Edryn) : (s.modEdryn f).connHeld = s.connHeld := rfl
@[simp] theorem modEdryn_connx (s : State) (f : Edryn → Edryn) : (s.modEdryn f).connx = s.connx := rfl
@[simp] theorem modEdryn_sreqs (s : State) (f : Edryn → Edryn) : (s.modEdryn f).sreqs = s.sreqs := rfl
@[simp] theorem modEdryn_sparts (s : State) (f : Edryn → Edryn) : (s.modEdryn f).sparts = s.sparts := rfl
@[simp] theorem modEdryn_storIn (s : State) (f : Edryn → Edryn) : (s.modEdryn f).storIn = s.storIn := rfl
@[simp] theorem modEdryn_reqN (s : State) (f : Edryn → Edryn) : (s.modEdryn f).reqN = s.reqN := rfl
@[simp] theorem modEdryn_chRec (s : State) (f : Edryn → Edryn) : (s.modEdryn f).chRec = s.chRec := rfl
@[simp] theorem modEdryn_fdescs (s : State) (f : Edryn → Edryn) : (s.modEdryn f).fdescs = s.fdescs := rfl
@[simp] theorem modEdryn_fdescN (s : State) (f : Edryn → Edryn) : (s.modEdryn f).fdescN = s.fdescN := rfl
@[simp] theorem modEdryn_poison (s : State) (f : Edryn → Edryn) : (s.modEdryn f).poison = s.poison := rfl
@[simp] theorem modEdryn_ncsi (s : State) (f : Edryn → Edryn) : (s.modEdryn f).ncsi = s.ncsi := rfl
@[simp] theorem modEdryn_svc (s : State) (f : Edryn → Edryn) : (s.modEdryn f).svc = s.svc := rfl
@[simp] theorem modEdryn_dbWait (s : State) (f : Edryn → Edryn) : (s.modEdryn f).dbWait = s.dbWait := rfl
@[simp] theorem modEdryn_dbN (s : State) (f : Edryn → Edryn) : (s.modEdryn f).dbN = s.dbN := rfl
@[simp] theorem modEdryn_pad (s : State) (f : Edryn → Edryn) : (s.modEdryn f).pad = s.pad := rfl

/-! emit. -/
@[simp] theorem emit_pending (s : State) (o : Out) : (s.emit o).pending = s.pending := rfl
@[simp] theorem emit_regs (s : State) (o : Out) : (s.emit o).regs = s.regs := rfl
@[simp] theorem emit_free (s : State) (o : Out) : (s.emit o).free = s.free := rfl
@[simp] theorem emit_edryn (s : State) (o : Out) : (s.emit o).edryn = s.edryn := rfl
@[simp] theorem emit_ff (s : State) (o : Out) : (s.emit o).ff = s.ff := rfl
@[simp] theorem emit_page (s : State) (o : Out) : (s.emit o).page = s.page := rfl
@[simp] theorem emit_held (s : State) (o : Out) : (s.emit o).held = s.held := rfl
@[simp] theorem emit_links (s : State) (o : Out) : (s.emit o).links = s.links := rfl
@[simp] theorem emit_jobs (s : State) (o : Out) : (s.emit o).jobs = s.jobs := rfl
@[simp] theorem emit_jobN (s : State) (o : Out) : (s.emit o).jobN = s.jobN := rfl
@[simp] theorem emit_xl (s : State) (o : Out) : (s.emit o).xl = s.xl := rfl
@[simp] theorem emit_xlDenied (s : State) (o : Out) : (s.emit o).xlDenied = s.xlDenied := rfl
@[simp] theorem emit_ints (s : State) (o : Out) : (s.emit o).ints = s.ints := rfl
@[simp] theorem emit_tapBusy (s : State) (o : Out) : (s.emit o).tapBusy = s.tapBusy := rfl
@[simp] theorem emit_tapClk (s : State) (o : Out) : (s.emit o).tapClk = s.tapClk := rfl
@[simp] theorem emit_dom (s : State) (o : Out) : (s.emit o).dom = s.dom := rfl
@[simp] theorem emit_votes (s : State) (o : Out) : (s.emit o).votes = s.votes := rfl
@[simp] theorem emit_xfer (s : State) (o : Out) : (s.emit o).xfer = s.xfer := rfl
@[simp] theorem emit_fwc (s : State) (o : Out) : (s.emit o).fwc = s.fwc := rfl
@[simp] theorem emit_repair (s : State) (o : Out) : (s.emit o).repair = s.repair := rfl
@[simp] theorem emit_trust (s : State) (o : Out) : (s.emit o).trust = s.trust := rfl
@[simp] theorem emit_pins (s : State) (o : Out) : (s.emit o).pins = s.pins := rfl
@[simp] theorem emit_port (s : State) (o : Out) : (s.emit o).port = s.port := rfl
@[simp] theorem emit_cross (s : State) (o : Out) : (s.emit o).cross = s.cross := rfl
@[simp] theorem emit_inst (s : State) (o : Out) : (s.emit o).inst = s.inst := rfl
@[simp] theorem emit_instStaged (s : State) (o : Out) : (s.emit o).instStaged = s.instStaged := rfl
@[simp] theorem emit_instCmd (s : State) (o : Out) : (s.emit o).instCmd = s.instCmd := rfl
@[simp] theorem emit_wq (s : State) (o : Out) : (s.emit o).wq = s.wq := rfl
@[simp] theorem emit_cr (s : State) (o : Out) : (s.emit o).cr = s.cr := rfl
@[simp] theorem emit_wqx (s : State) (o : Out) : (s.emit o).wqx = s.wqx := rfl
@[simp] theorem emit_crx (s : State) (o : Out) : (s.emit o).crx = s.crx := rfl
@[simp] theorem emit_icmd (s : State) (o : Out) : (s.emit o).icmd = s.icmd := rfl
@[simp] theorem emit_hbm (s : State) (o : Out) : (s.emit o).hbm = s.hbm := rfl
@[simp] theorem emit_store (s : State) (o : Out) : (s.emit o).store = s.store := rfl
@[simp] theorem emit_imem (s : State) (o : Out) : (s.emit o).imem = s.imem := rfl
@[simp] theorem emit_thread (s : State) (o : Out) : (s.emit o).thread = s.thread := rfl
@[simp] theorem emit_hive (s : State) (o : Out) : (s.emit o).hive = s.hive := rfl
@[simp] theorem emit_hchan (s : State) (o : Out) : (s.emit o).hchan = s.hchan := rfl
@[simp] theorem emit_hmsg (s : State) (o : Out) : (s.emit o).hmsg = s.hmsg := rfl
@[simp] theorem emit_chOpen (s : State) (o : Out) : (s.emit o).chOpen = s.chOpen := rfl
@[simp] theorem emit_pcfg (s : State) (o : Out) : (s.emit o).pcfg = s.pcfg := rfl
@[simp] theorem emit_pcfgStaged (s : State) (o : Out) : (s.emit o).pcfgStaged = s.pcfgStaged := rfl
@[simp] theorem emit_pcount (s : State) (o : Out) : (s.emit o).pcount = s.pcount := rfl
@[simp] theorem emit_rules (s : State) (o : Out) : (s.emit o).rules = s.rules := rfl
@[simp] theorem emit_ruleNs (s : State) (o : Out) : (s.emit o).ruleNs = s.ruleNs := rfl
@[simp] theorem emit_oldest (s : State) (o : Out) : (s.emit o).oldest = s.oldest := rfl
@[simp] theorem emit_flows (s : State) (o : Out) : (s.emit o).flows = s.flows := rfl
@[simp] theorem emit_profiles (s : State) (o : Out) : (s.emit o).profiles = s.profiles := rfl
@[simp] theorem emit_templates (s : State) (o : Out) : (s.emit o).templates = s.templates := rfl
@[simp] theorem emit_steer (s : State) (o : Out) : (s.emit o).steer = s.steer := rfl
@[simp] theorem emit_insBuf (s : State) (o : Out) : (s.emit o).insBuf = s.insBuf := rfl
@[simp] theorem emit_flowHeld (s : State) (o : Out) : (s.emit o).flowHeld = s.flowHeld := rfl
@[simp] theorem emit_ipId (s : State) (o : Out) : (s.emit o).ipId = s.ipId := rfl
@[simp] theorem emit_learnClk (s : State) (o : Out) : (s.emit o).learnClk = s.learnClk := rfl
@[simp] theorem emit_pkts (s : State) (o : Out) : (s.emit o).pkts = s.pkts := rfl
@[simp] theorem emit_descs (s : State) (o : Out) : (s.emit o).descs = s.descs := rfl
@[simp] theorem emit_serial (s : State) (o : Out) : (s.emit o).serial = s.serial := rfl
@[simp] theorem emit_gens (s : State) (o : Out) : (s.emit o).gens = s.gens := rfl
@[simp] theorem emit_pipeWait (s : State) (o : Out) : (s.emit o).pipeWait = s.pipeWait := rfl
@[simp] theorem emit_noHive (s : State) (o : Out) : (s.emit o).noHive = s.noHive := rfl
@[simp] theorem emit_admq (s : State) (o : Out) : (s.emit o).admq = s.admq := rfl
@[simp] theorem emit_accts (s : State) (o : Out) : (s.emit o).accts = s.accts := rfl
@[simp] theorem emit_poolUsed (s : State) (o : Out) : (s.emit o).poolUsed = s.poolUsed := rfl
@[simp] theorem emit_hiveCells (s : State) (o : Out) : (s.emit o).hiveCells = s.hiveCells := rfl
@[simp] theorem emit_xoffClk (s : State) (o : Out) : (s.emit o).xoffClk = s.xoffClk := rfl
@[simp] theorem emit_lfsr (s : State) (o : Out) : (s.emit o).lfsr = s.lfsr := rfl
@[simp] theorem emit_groups (s : State) (o : Out) : (s.emit o).groups = s.groups := rfl
@[simp] theorem emit_members (s : State) (o : Out) : (s.emit o).members = s.members := rfl
@[simp] theorem emit_rsvSize (s : State) (o : Out) : (s.emit o).rsvSize = s.rsvSize := rfl
@[simp] theorem emit_rsvMem (s : State) (o : Out) : (s.emit o).rsvMem = s.rsvMem := rfl
@[simp] theorem emit_cellWait (s : State) (o : Out) : (s.emit o).cellWait = s.cellWait := rfl
@[simp] theorem emit_nodes (s : State) (o : Out) : (s.emit o).nodes = s.nodes := rfl
@[simp] theorem emit_noder (s : State) (o : Out) : (s.emit o).noder = s.noder := rfl
@[simp] theorem emit_groupV (s : State) (o : Out) : (s.emit o).groupV = s.groupV := rfl
@[simp] theorem emit_policers (s : State) (o : Out) : (s.emit o).policers = s.policers := rfl
@[simp] theorem emit_meters (s : State) (o : Out) : (s.emit o).meters = s.meters := rfl
@[simp] theorem emit_samples (s : State) (o : Out) : (s.emit o).samples = s.samples := rfl
@[simp] theorem emit_trings (s : State) (o : Out) : (s.emit o).trings = s.trings := rfl
@[simp] theorem emit_beeline (s : State) (o : Out) : (s.emit o).beeline = s.beeline := rfl
@[simp] theorem emit_blHold (s : State) (o : Out) : (s.emit o).blHold = s.blHold := rfl
@[simp] theorem emit_slots (s : State) (o : Out) : (s.emit o).slots = s.slots := rfl
@[simp] theorem emit_slotPend (s : State) (o : Out) : (s.emit o).slotPend = s.slotPend := rfl
@[simp] theorem emit_slotHeld (s : State) (o : Out) : (s.emit o).slotHeld = s.slotHeld := rfl
@[simp] theorem emit_softSeen (s : State) (o : Out) : (s.emit o).softSeen = s.softSeen := rfl
@[simp] theorem emit_sops (s : State) (o : Out) : (s.emit o).sops = s.sops := rfl
@[simp] theorem emit_opN (s : State) (o : Out) : (s.emit o).opN = s.opN := rfl
@[simp] theorem emit_progStage (s : State) (o : Out) : (s.emit o).progStage = s.progStage := rfl
@[simp] theorem emit_modes (s : State) (o : Out) : (s.emit o).modes = s.modes := rfl
@[simp] theorem emit_modesStaged (s : State) (o : Out) : (s.emit o).modesStaged = s.modesStaged := rfl
@[simp] theorem emit_maskSeed (s : State) (o : Out) : (s.emit o).maskSeed = s.maskSeed := rfl
@[simp] theorem emit_maskClk (s : State) (o : Out) : (s.emit o).maskClk = s.maskClk := rfl
@[simp] theorem emit_trigLate (s : State) (o : Out) : (s.emit o).trigLate = s.trigLate := rfl
@[simp] theorem emit_ageClk (s : State) (o : Out) : (s.emit o).ageClk = s.ageClk := rfl
@[simp] theorem emit_maskBlk (s : State) (o : Out) : (s.emit o).maskBlk = s.maskBlk := rfl
@[simp] theorem emit_kek (s : State) (o : Out) : (s.emit o).kek = s.kek := rfl
@[simp] theorem emit_peerWin (s : State) (o : Out) : (s.emit o).peerWin = s.peerWin := rfl
@[simp] theorem emit_progBusy (s : State) (o : Out) : (s.emit o).progBusy = s.progBusy := rfl
@[simp] theorem emit_nsRec (s : State) (o : Out) : (s.emit o).nsRec = s.nsRec := rfl
@[simp] theorem emit_extents (s : State) (o : Out) : (s.emit o).extents = s.extents := rfl
@[simp] theorem emit_connRec (s : State) (o : Out) : (s.emit o).connRec = s.connRec := rfl
@[simp] theorem emit_nsHeld (s : State) (o : Out) : (s.emit o).nsHeld = s.nsHeld := rfl
@[simp] theorem emit_connHeld (s : State) (o : Out) : (s.emit o).connHeld = s.connHeld := rfl
@[simp] theorem emit_connx (s : State) (o : Out) : (s.emit o).connx = s.connx := rfl
@[simp] theorem emit_sreqs (s : State) (o : Out) : (s.emit o).sreqs = s.sreqs := rfl
@[simp] theorem emit_sparts (s : State) (o : Out) : (s.emit o).sparts = s.sparts := rfl
@[simp] theorem emit_storIn (s : State) (o : Out) : (s.emit o).storIn = s.storIn := rfl
@[simp] theorem emit_reqN (s : State) (o : Out) : (s.emit o).reqN = s.reqN := rfl
@[simp] theorem emit_chRec (s : State) (o : Out) : (s.emit o).chRec = s.chRec := rfl
@[simp] theorem emit_fdescs (s : State) (o : Out) : (s.emit o).fdescs = s.fdescs := rfl
@[simp] theorem emit_fdescN (s : State) (o : Out) : (s.emit o).fdescN = s.fdescN := rfl
@[simp] theorem emit_poison (s : State) (o : Out) : (s.emit o).poison = s.poison := rfl
@[simp] theorem emit_ncsi (s : State) (o : Out) : (s.emit o).ncsi = s.ncsi := rfl
@[simp] theorem emit_svc (s : State) (o : Out) : (s.emit o).svc = s.svc := rfl
@[simp] theorem emit_dbWait (s : State) (o : Out) : (s.emit o).dbWait = s.dbWait := rfl
@[simp] theorem emit_dbN (s : State) (o : Out) : (s.emit o).dbN = s.dbN := rfl
@[simp] theorem emit_pad (s : State) (o : Out) : (s.emit o).pad = s.pad := rfl

/-! settle. -/
@[simp] theorem settle_pending (s : State) : (s.settle).pending = s.pending := rfl
@[simp] theorem settle_free (s : State) : (s.settle).free = s.free := rfl
@[simp] theorem settle_out (s : State) : (s.settle).out = s.out := rfl
@[simp] theorem settle_edryn (s : State) : (s.settle).edryn = s.edryn := rfl
@[simp] theorem settle_ff (s : State) : (s.settle).ff = s.ff := rfl
@[simp] theorem settle_page (s : State) : (s.settle).page = s.page := rfl
@[simp] theorem settle_held (s : State) : (s.settle).held = s.held := rfl
@[simp] theorem settle_links (s : State) : (s.settle).links = s.links := rfl
@[simp] theorem settle_jobs (s : State) : (s.settle).jobs = s.jobs := rfl
@[simp] theorem settle_jobN (s : State) : (s.settle).jobN = s.jobN := rfl
@[simp] theorem settle_xl (s : State) : (s.settle).xl = s.xl := rfl
@[simp] theorem settle_xlDenied (s : State) : (s.settle).xlDenied = s.xlDenied := rfl
@[simp] theorem settle_ints (s : State) : (s.settle).ints = s.ints := rfl
@[simp] theorem settle_tapBusy (s : State) : (s.settle).tapBusy = s.tapBusy := rfl
@[simp] theorem settle_tapClk (s : State) : (s.settle).tapClk = s.tapClk := rfl
@[simp] theorem settle_dom (s : State) : (s.settle).dom = s.dom := rfl
@[simp] theorem settle_votes (s : State) : (s.settle).votes = s.votes := rfl
@[simp] theorem settle_xfer (s : State) : (s.settle).xfer = s.xfer := rfl
@[simp] theorem settle_fwc (s : State) : (s.settle).fwc = s.fwc := rfl
@[simp] theorem settle_repair (s : State) : (s.settle).repair = s.repair := rfl
@[simp] theorem settle_trust (s : State) : (s.settle).trust = s.trust := rfl
@[simp] theorem settle_port (s : State) : (s.settle).port = s.port := rfl
@[simp] theorem settle_cross (s : State) : (s.settle).cross = s.cross := rfl
@[simp] theorem settle_inst (s : State) : (s.settle).inst = s.inst := rfl
@[simp] theorem settle_instStaged (s : State) : (s.settle).instStaged = s.instStaged := rfl
@[simp] theorem settle_instCmd (s : State) : (s.settle).instCmd = s.instCmd := rfl
@[simp] theorem settle_wq (s : State) : (s.settle).wq = s.wq := rfl
@[simp] theorem settle_cr (s : State) : (s.settle).cr = s.cr := rfl
@[simp] theorem settle_wqx (s : State) : (s.settle).wqx = s.wqx := rfl
@[simp] theorem settle_crx (s : State) : (s.settle).crx = s.crx := rfl
@[simp] theorem settle_icmd (s : State) : (s.settle).icmd = s.icmd := rfl
@[simp] theorem settle_hbm (s : State) : (s.settle).hbm = s.hbm := rfl
@[simp] theorem settle_store (s : State) : (s.settle).store = s.store := rfl
@[simp] theorem settle_imem (s : State) : (s.settle).imem = s.imem := rfl
@[simp] theorem settle_thread (s : State) : (s.settle).thread = s.thread := rfl
@[simp] theorem settle_hive (s : State) : (s.settle).hive = s.hive := rfl
@[simp] theorem settle_hchan (s : State) : (s.settle).hchan = s.hchan := rfl
@[simp] theorem settle_hmsg (s : State) : (s.settle).hmsg = s.hmsg := rfl
@[simp] theorem settle_chOpen (s : State) : (s.settle).chOpen = s.chOpen := rfl
@[simp] theorem settle_pcfg (s : State) : (s.settle).pcfg = s.pcfg := rfl
@[simp] theorem settle_pcfgStaged (s : State) : (s.settle).pcfgStaged = s.pcfgStaged := rfl
@[simp] theorem settle_pcount (s : State) : (s.settle).pcount = s.pcount := rfl
@[simp] theorem settle_rules (s : State) : (s.settle).rules = s.rules := rfl
@[simp] theorem settle_ruleNs (s : State) : (s.settle).ruleNs = s.ruleNs := rfl
@[simp] theorem settle_oldest (s : State) : (s.settle).oldest = s.oldest := rfl
@[simp] theorem settle_flows (s : State) : (s.settle).flows = s.flows := rfl
@[simp] theorem settle_profiles (s : State) : (s.settle).profiles = s.profiles := rfl
@[simp] theorem settle_templates (s : State) : (s.settle).templates = s.templates := rfl
@[simp] theorem settle_steer (s : State) : (s.settle).steer = s.steer := rfl
@[simp] theorem settle_insBuf (s : State) : (s.settle).insBuf = s.insBuf := rfl
@[simp] theorem settle_flowHeld (s : State) : (s.settle).flowHeld = s.flowHeld := rfl
@[simp] theorem settle_ipId (s : State) : (s.settle).ipId = s.ipId := rfl
@[simp] theorem settle_learnClk (s : State) : (s.settle).learnClk = s.learnClk := rfl
@[simp] theorem settle_pkts (s : State) : (s.settle).pkts = s.pkts := rfl
@[simp] theorem settle_descs (s : State) : (s.settle).descs = s.descs := rfl
@[simp] theorem settle_serial (s : State) : (s.settle).serial = s.serial := rfl
@[simp] theorem settle_gens (s : State) : (s.settle).gens = s.gens := rfl
@[simp] theorem settle_pipeWait (s : State) : (s.settle).pipeWait = s.pipeWait := rfl
@[simp] theorem settle_noHive (s : State) : (s.settle).noHive = s.noHive := rfl
@[simp] theorem settle_admq (s : State) : (s.settle).admq = s.admq := rfl
@[simp] theorem settle_accts (s : State) : (s.settle).accts = s.accts := rfl
@[simp] theorem settle_poolUsed (s : State) : (s.settle).poolUsed = s.poolUsed := rfl
@[simp] theorem settle_hiveCells (s : State) : (s.settle).hiveCells = s.hiveCells := rfl
@[simp] theorem settle_xoffClk (s : State) : (s.settle).xoffClk = s.xoffClk := rfl
@[simp] theorem settle_lfsr (s : State) : (s.settle).lfsr = s.lfsr := rfl
@[simp] theorem settle_groups (s : State) : (s.settle).groups = s.groups := rfl
@[simp] theorem settle_members (s : State) : (s.settle).members = s.members := rfl
@[simp] theorem settle_rsvSize (s : State) : (s.settle).rsvSize = s.rsvSize := rfl
@[simp] theorem settle_rsvMem (s : State) : (s.settle).rsvMem = s.rsvMem := rfl
@[simp] theorem settle_cellWait (s : State) : (s.settle).cellWait = s.cellWait := rfl
@[simp] theorem settle_nodes (s : State) : (s.settle).nodes = s.nodes := rfl
@[simp] theorem settle_noder (s : State) : (s.settle).noder = s.noder := rfl
@[simp] theorem settle_groupV (s : State) : (s.settle).groupV = s.groupV := rfl
@[simp] theorem settle_policers (s : State) : (s.settle).policers = s.policers := rfl
@[simp] theorem settle_meters (s : State) : (s.settle).meters = s.meters := rfl
@[simp] theorem settle_samples (s : State) : (s.settle).samples = s.samples := rfl
@[simp] theorem settle_trings (s : State) : (s.settle).trings = s.trings := rfl
@[simp] theorem settle_beeline (s : State) : (s.settle).beeline = s.beeline := rfl
@[simp] theorem settle_blHold (s : State) : (s.settle).blHold = s.blHold := rfl
@[simp] theorem settle_slots (s : State) : (s.settle).slots = s.slots := rfl
@[simp] theorem settle_slotPend (s : State) : (s.settle).slotPend = s.slotPend := rfl
@[simp] theorem settle_slotHeld (s : State) : (s.settle).slotHeld = s.slotHeld := rfl
@[simp] theorem settle_softSeen (s : State) : (s.settle).softSeen = s.softSeen := rfl
@[simp] theorem settle_sops (s : State) : (s.settle).sops = s.sops := rfl
@[simp] theorem settle_opN (s : State) : (s.settle).opN = s.opN := rfl
@[simp] theorem settle_progStage (s : State) : (s.settle).progStage = s.progStage := rfl
@[simp] theorem settle_modes (s : State) : (s.settle).modes = s.modes := rfl
@[simp] theorem settle_modesStaged (s : State) : (s.settle).modesStaged = s.modesStaged := rfl
@[simp] theorem settle_maskSeed (s : State) : (s.settle).maskSeed = s.maskSeed := rfl
@[simp] theorem settle_maskClk (s : State) : (s.settle).maskClk = s.maskClk := rfl
@[simp] theorem settle_trigLate (s : State) : (s.settle).trigLate = s.trigLate := rfl
@[simp] theorem settle_ageClk (s : State) : (s.settle).ageClk = s.ageClk := rfl
@[simp] theorem settle_maskBlk (s : State) : (s.settle).maskBlk = s.maskBlk := rfl
@[simp] theorem settle_kek (s : State) : (s.settle).kek = s.kek := rfl
@[simp] theorem settle_peerWin (s : State) : (s.settle).peerWin = s.peerWin := rfl
@[simp] theorem settle_progBusy (s : State) : (s.settle).progBusy = s.progBusy := rfl
@[simp] theorem settle_nsRec (s : State) : (s.settle).nsRec = s.nsRec := rfl
@[simp] theorem settle_extents (s : State) : (s.settle).extents = s.extents := rfl
@[simp] theorem settle_connRec (s : State) : (s.settle).connRec = s.connRec := rfl
@[simp] theorem settle_nsHeld (s : State) : (s.settle).nsHeld = s.nsHeld := rfl
@[simp] theorem settle_connHeld (s : State) : (s.settle).connHeld = s.connHeld := rfl
@[simp] theorem settle_connx (s : State) : (s.settle).connx = s.connx := rfl
@[simp] theorem settle_sreqs (s : State) : (s.settle).sreqs = s.sreqs := rfl
@[simp] theorem settle_sparts (s : State) : (s.settle).sparts = s.sparts := rfl
@[simp] theorem settle_storIn (s : State) : (s.settle).storIn = s.storIn := rfl
@[simp] theorem settle_reqN (s : State) : (s.settle).reqN = s.reqN := rfl
@[simp] theorem settle_chRec (s : State) : (s.settle).chRec = s.chRec := rfl
@[simp] theorem settle_fdescs (s : State) : (s.settle).fdescs = s.fdescs := rfl
@[simp] theorem settle_fdescN (s : State) : (s.settle).fdescN = s.fdescN := rfl
@[simp] theorem settle_poison (s : State) : (s.settle).poison = s.poison := rfl
@[simp] theorem settle_ncsi (s : State) : (s.settle).ncsi = s.ncsi := rfl
@[simp] theorem settle_svc (s : State) : (s.settle).svc = s.svc := rfl
@[simp] theorem settle_dbWait (s : State) : (s.settle).dbWait = s.dbWait := rfl
@[simp] theorem settle_dbN (s : State) : (s.settle).dbN = s.dbN := rfl
@[simp] theorem settle_pad (s : State) : (s.settle).pad = s.pad := rfl

end Sys2Proof.Machine
end

