-- ==== Sys2Proof/Laws/Claims.lean ====
section
/-! SUPPORT. What the end of a command does, and the checks before it: the lemmas that a statement of completion is
proved from. -/

namespace Sys2Proof

open Machine

theorem settle_same (u : State) : Same u u.settle :=
  ⟨rfl, fun a _ h => settle_reg u a h⟩

/-- A command whose meaning ends in `done s u` gives `u`. -/
theorem done_same {s u : State} (h : u.pending = s.pending) : ∃ t, done s u = .next t ∧ Same u t := by
  refine ⟨_, rfl, ?_⟩
  have e : ({ u.settle with pending := s.pending } : State) = u.settle := by rw [← h]; rfl
  rw [e]
  exact settle_same u

theorem completes_of {c : Instr} {s u : State} {P : State → Prop} (he : exec c s = done s u)
    (hp : u.pending = s.pending) (h : ∀ t, Same u t → P t) : Completes c s P := by
  obtain ⟨t, h1, h2⟩ := done_same hp
  exact ⟨t, he.trans h1, h t h2⟩

theorem gives_of {c : Instr} {s u : State} (he : exec c s = done s u) (hp : u.pending = s.pending) : Gives c s u :=
  completes_of he hp (fun _ h => h)

/-- What a command can end in: `done` always goes on; only an actor ID that R17 reserves stops it. -/
theorem done_next {s u t : State} : done s u = .next t ↔ t = { u.settle with pending := s.pending } := by
  simp only [done, Host.Outcome.next.injEq]; exact eq_comm

theorem act_next {s u t : State} {actor : Nat} :
    act s actor u = .next t ↔ actorOk actor = true ∧ t = { u.settle with pending := s.pending } := by
  unfold act; split <;> simp_all [done_next]

theorem onUnit_next {s u t : State} {a : Nat} :
    onUnit s a u = .next t ↔ t = { (if isUnit a then u else s).settle with pending := s.pending } := by
  unfold onUnit; exact done_next

theorem onInfo_next {s t : State} {a : Nat} {f : UnitInfo → State} :
    onInfo s a f = .next t ↔ t = { (((unitInfo a).map f).getD s).settle with pending := s.pending } := by
  unfold onInfo; split <;> simp_all [done_next]

theorem actInfo_next {s t : State} {actor a : Nat} {f : UnitInfo → State} : actInfo s actor a f = .next t ↔
    actorOk actor = true ∧ t = { (((unitInfo a).map f).getD s).settle with pending := s.pending } := by
  unfold actInfo; split <;> simp_all [onInfo_next]

theorem act_eq {s : State} {actor : Nat} (t : State) (h : actorOk actor = true) : act s actor t = done s t := by
  simp [act, h]

theorem gated_eq {s : State} {actor a : Nat} (f : State → State) (h : s.writeGate actor a = none) :
    s.gated actor a f = f s := by simp [State.gated, h]

theorem act_gated {s : State} {actor a : Nat} (f : State → State) (h : MayWrite s actor a) :
    act s actor (s.gated actor a f) = done s (f s) := by rw [act_eq _ h.1, gated_eq f h.2]

theorem onLink_eq {s : State} {l : Nat} (t : State) (h : OnLink s l) : onLink s l t = done s t := by
  simp [onLink, h.1, h.2]

theorem same_reg {u t : State} (h : Same u t) {a : Nat} (ha : a ∉ derivedRegs) : t.reg a = u.reg a :=
  h.2 a (by simp) ha

/-- What does not look at registers and pins. -/
theorem same_view {α : Type} {u t : State} (h : Same u t) (f : State → α)
    (hf : ∀ (s : State) r p, f { s with regs := r, pins := p } = f s) : f t = f u := by
  rw [h.1]; exact hf _ _ _

theorem same_g {u t : State} (h : Same u t) {f : Fld} (ha : f.reg ∉ derivedRegs) : t.g f = u.g f := by
  simp [State.g, same_reg h ha]

/-- A smaller frame is a larger one. -/
theorem sameBut_of {s u t : State} {l : List Nat} (h : Same u t)
    (h1 : u = { s with regs := u.regs }) (h2 : ∀ a, a ∉ l → u.reg a = s.reg a) : SameBut l s t := by
  refine ⟨?_, fun a ha hd => by rw [same_reg h hd, h2 a ha]⟩
  have := h.1
  rw [this, h1]

end Sys2Proof
end

