-- ==== Sys2Proof/Laws/Frames.lean ====
section
/-! SUPPORT. How long the frames are that a storage connection sends, whatever the bytes that the spec leaves open. -/

open Sys2Proof Sys2Proof.Machine

namespace Sys2Proof.Laws

theorem length_overlay (b : Bytes) (o : Nat) (n : Bytes) : (overlay b o n).length ≤ max b.length o := by
  simp only [overlay, List.length_append, List.length_take, List.length_drop]; omega

theorem length_leBytes (n v : Nat) : (leBytes n v).length = n := by
  induction n generalizing v with
  | zero => rfl
  | succ n h => simp [leBytes, h]

theorem length_beBytes (n v : Nat) : (beBytes n v).length = n := by
  simp [beBytes, length_leBytes]

theorem length_connFree (s : State) (c n k : Nat) : (s.connFree c n k).length = n := by
  simp [State.connFree]

theorem length_connHead (s : State) (c p l : Nat) : (s.connHead c p l).length ≤ 54 := by
  unfold State.connHead sumIp4
  split
  · simp [length_beBytes, length_connFree]
  · refine Nat.le_trans (length_overlay _ _ _) (Nat.max_le.mpr ⟨Nat.le_trans (length_overlay _ _ _) ?_, by omega⟩)
    simp [length_beBytes, length_connFree]

/-- A TCP segment's frame: at most 54 bytes before the TCP header, which has at most 32. -/
theorem length_tcpFrame (s : State) (c q a w fl ts : Nat) (d : Bytes) :
    (s.tcpFrame c q a w fl ts d).length ≤ d.length + 86 := by
  unfold State.tcpFrame sumL4
  extract_lets opt h ip g ps x
  have ho : opt.length ≤ 12 := by
    simp only [opt]; split <;> simp [length_beBytes]
  have hh : h.length = 20 + opt.length := by simp [h, length_beBytes, length_connFree]; omega
  have hi : ip.length ≤ 54 := length_connHead _ _ _ _
  refine Nat.le_trans (length_overlay _ _ _) (Nat.max_le.mpr ⟨Nat.le_trans (length_overlay _ _ _) (Nat.max_le.mpr ⟨?_, ?_⟩), ?_⟩)
  · simp only [List.length_append]; omega
  all_goals omega

theorem cellsOf_mono {a b : Nat} (h : a ≤ b) : cellsOf a ≤ cellsOf b :=
  Nat.div_le_div_right (by omega)

end Sys2Proof.Laws
end

