-- ==== Sys2Proof/Laws/Operands.lean ====
section
/-! SUPPORT. What the arithmetic of the operands computes: bit counts, bytes of numbers and reversed bytes. -/

namespace Sys2Proof.Machine

theorem bit_eq_testBit (x i : Nat) : bit x i = x.testBit i := by
  simp only [bit, Nat.testBit, Nat.shiftRight_eq_div_pow, Nat.one_and_eq_mod_two]
  have := Nat.mod_two_eq_zero_or_one (x / 2 ^ i)
  rcases this with h | h <;> simp [h]

theorem clz_spec (x : Nat) (k : Nat) (h : x < 2 ^ k) :
    clzFrom x k ≤ k ∧ x < 2 ^ (k - clzFrom x k) ∧ (clzFrom x k < k → 2 ^ (k - 1 - clzFrom x k) ≤ x) := by
  induction k with
  | zero => simp [clzFrom] at *; exact h
  | succ k ih =>
    unfold clzFrom
    split
    · rename_i hb
      refine ⟨by omega, h, fun _ => ?_⟩
      rw [bit_eq_testBit] at hb
      exact Nat.ge_two_pow_of_testBit hb
    · rename_i hb
      have hx : x < 2 ^ k := by
        rw [bit_eq_testBit] at hb
        apply Nat.lt_pow_two_of_testBit
        intro i hi
        by_cases e : i = k
        · subst e; simpa using hb
        · exact Nat.testBit_lt_two_pow (Nat.lt_of_lt_of_le h (Nat.pow_le_pow_right (by decide) (by omega)))
      obtain ⟨a, b, c⟩ := ih hx
      refine ⟨by omega, ?_, fun hh => ?_⟩
      · rw [show k + 1 - (clzFrom x k + 1) = k - clzFrom x k by omega]; exact b
      · rw [show k + 1 - 1 - (clzFrom x k + 1) = k - 1 - clzFrom x k by omega]; exact c (by omega)

theorem ctz_spec (x : Nat) (k : Nat) :
    ctzFrom x k ≤ k ∧ (∀ j, j < ctzFrom x k → x.testBit j = false) ∧ (ctzFrom x k < k → x.testBit (ctzFrom x k) = true) := by
  induction k generalizing x with
  | zero => simp [ctzFrom]
  | succ k ih =>
    unfold ctzFrom
    split
    · rename_i hb
      rw [bit_eq_testBit] at hb
      exact ⟨by omega, by simp, fun _ => hb⟩
    · rename_i hb
      rw [bit_eq_testBit] at hb
      obtain ⟨a, b, c⟩ := ih (x / 2)
      refine ⟨by omega, fun j hj => ?_, fun h => ?_⟩
      · cases j with
        | zero => simpa using hb
        | succ j => rw [Nat.testBit_succ]; exact b j (by omega)
      · rw [Nat.testBit_succ]; exact c (by omega)

theorem popc_spec (x k : Nat) : popcount x k = ((List.range k).filter x.testBit).length := by
  induction k generalizing x with
  | zero => rfl
  | succ k ih =>
    rw [popcount, ih, List.range_succ_eq_map, List.filter_cons, List.filter_map]
    have : (List.filter (x.testBit ∘ Nat.succ) (List.range k)) = List.filter (x / 2).testBit (List.range k) := by
      congr 1; funext j; simp [Nat.testBit_succ]
    have e : x.testBit 0 = decide (x % 2 = 1) := Nat.testBit_zero x
    have m2 := Nat.mod_two_eq_zero_or_one x
    split
    · rename_i hh
      rw [e] at hh
      have : x % 2 = 1 := by simpa using hh
      simp [*, Nat.add_comm]
    · rename_i hh
      rw [e] at hh
      have : x % 2 = 0 := by have : ¬ x % 2 = 1 := by simpa using hh
                             omega
      simp [*]

theorem leNat_le (n v : Nat) : leNat (leBytes n v) = v % 2 ^ (8 * n) := by
  induction n generalizing v with
  | zero => simp [leBytes, leNat, Nat.mod_one]
  | succ n ih =>
    have : leNat (leBytes (n + 1) v) = v % 256 + 256 * leNat (leBytes n (v / 256)) := by simp [leBytes, leNat]
    rw [this, ih, show 8 * (n + 1) = 8 + 8 * n by omega, Nat.pow_add, Nat.mod_mul]

theorem leNat_lt (bs : Bytes) : leNat bs < 2 ^ (8 * bs.length) := by
  induction bs with
  | nil => simp [leNat]
  | cons b r ih =>
    have : b.toNat < 256 := b.isLt
    simp only [leNat, List.length_cons]
    rw [show 8 * (r.length + 1) = 8 + 8 * r.length by omega, Nat.pow_add]
    omega

theorem leNat_byte (bs : Bytes) (k : Nat) : bits (leNat bs) (8 * k + 7) (8 * k) = ((bs[k]?).map BitVec.toNat).getD 0 := by
  induction bs generalizing k with
  | nil => simp [leNat, bits]
  | cons b r ih =>
    have hb : b.toNat < 256 := b.isLt
    cases k with
    | zero => simp [leNat, bits]; omega
    | succ k =>
      have := ih k
      simp only [List.getElem?_cons_succ]
      rw [← this]
      simp only [bits, leNat]
      rw [show 8 * (k + 1) = 8 + 8 * k by omega, Nat.pow_add, ← Nat.div_div_eq_div_mul,
        show 8 + 8 * k + 7 + 1 - (8 + 8 * k) = 8 by omega, show 8 * k + 7 + 1 - 8 * k = 8 by omega]
      congr 2; omega

theorem leBytes_len (n v : Nat) : (leBytes n v).length = n := by
  induction n generalizing v with
  | zero => rfl
  | succ n ih => simp [leBytes, ih]

theorem leBytes_get (n v k : Nat) (h : k < n) : (leBytes n v)[k]? = some (BitVec.ofNat 8 (v / 2 ^ (8 * k))) := by
  induction n generalizing v k with
  | zero => omega
  | succ n ih =>
    cases k with
    | zero => simp [leBytes]
    | succ k => simp only [leBytes, List.getElem?_cons_succ]; rw [ih _ _ (by omega), Nat.div_div_eq_div_mul]
                rw [show 8 * (k + 1) = 8 + 8 * k by omega, Nat.pow_add]

theorem bswap_spec (n : Nat) (hn : n ≤ 8) (x : Word) :
    (∀ k, k < n → bits (bswapW n x).toNat (8 * k + 7) (8 * k) = bits x.toNat (8 * (n - 1 - k) + 7) (8 * (n - 1 - k))) ∧
    (bswapW n x).toNat < 2 ^ (8 * n) := by
  have hl : (beBytes n (x.toNat % 2 ^ (8 * n))).length = n := by simp [beBytes, leBytes_len]
  have hv := leNat_lt (beBytes n (x.toNat % 2 ^ (8 * n)))
  rw [hl] at hv
  have h64 : leNat (beBytes n (x.toNat % 2 ^ (8 * n))) < 2 ^ 64 :=
    Nat.lt_of_lt_of_le hv (Nat.pow_le_pow_right (by decide) (by omega))
  have e : (bswapW n x).toNat = leNat (beBytes n (x.toNat % 2 ^ (8 * n))) := by
    simp only [bswapW, BitVec.toNat_ofNat]; exact Nat.mod_eq_of_lt h64
  rw [e]
  refine ⟨fun k hk => ?_, hv⟩
  rw [leNat_byte, beBytes, List.getElem?_reverse (by rw [leBytes_len]; exact hk), leBytes_len, leBytes_get _ _ _ (by omega)]
  simp only [Option.map_some, Option.getD_some, BitVec.toNat_ofNat, bits]
  rw [show 8 * (n - 1 - k) + 7 + 1 - 8 * (n - 1 - k) = 8 by omega]
  have e2 : 8 * n = 8 * (n - 1 - k) + 8 * (k + 1) := by omega
  rw [e2, Nat.pow_add, Nat.mod_mul_right_div_self, Nat.mod_mod_of_dvd]
  exact Nat.pow_dvd_pow 2 (by omega)

theorem testBit_setBits (v hi lo x k : Nat) (h : lo ≤ hi) :
    (setBits v hi lo x).testBit k = if lo ≤ k ∧ k ≤ hi then x.testBit (k - lo) else v.testBit k := by
  by_cases h1 : k < lo
  · have := setBits_mod v hi lo x (by omega)
    have e := congrArg (fun n => n.testBit k) this
    simp only [Nat.testBit_mod_two_pow, h1, decide_true, Bool.true_and] at e
    rw [e, if_neg (by omega)]
  · have hd := setBits_div v hi lo x (by omega)
    have e := congrArg (fun n => n.testBit (k - lo)) hd
    simp only [Nat.testBit_div_two_pow] at e
    rw [show k - lo + lo = k by omega] at e
    rw [e, Nat.add_comm, Nat.mul_comm, Nat.two_pow_add_eq_or_of_lt (Nat.mod_lt _ (Nat.two_pow_pos _))]
    rw [Nat.testBit_or, Nat.testBit_two_pow_mul, Nat.testBit_mod_two_pow]
    by_cases h2 : k ≤ hi
    · have : ¬ (k - lo ≥ hi + 1 - lo) := by omega
      have : k - lo < hi + 1 - lo := by omega
      simp [*]
    · have : (k - lo ≥ hi + 1 - lo) := by omega
      have : ¬ k - lo < hi + 1 - lo := by omega
      simp [*, Nat.testBit_div_two_pow]
      have : k - lo - (hi + 1 - lo) + (hi + 1) = k := by omega
      rw [this]

theorem sshiftRight_eq_div (a : Word) (n : Nat) : a.sshiftRight n = BitVec.ofInt 64 (a.toInt / 2 ^ n) := by
  rw [BitVec.sshiftRight, Int.shiftRight_eq_div_pow]; rfl

end Sys2Proof.Machine
end

