-- ==== Sys2Proof/Laws/Pump.lean ====
section
/-! SUPPORT. Where nothing waits for a unit, a unit's return to service moves nothing. -/

namespace Sys2Proof.Laws

open Machine

theorem foldl_id {α β : Type} (l : List α) (f : β → α → β) (b : β) (h : ∀ a ∈ l, f b a = b) : l.foldl f b = b := by
  induction l with
  | nil => rfl
  | cons a r ih =>
    rw [List.foldl_cons, h a (by simp)]
    exact ih (fun x hx => h x (by simp [hx]))

theorem hivesLeft_empty (s : State) (h : s.noder = []) : s.hivesLeft = s := by
  unfold State.hivesLeft
  apply foldl_id
  intro a _
  simp [State.queuedOn, h]

theorem svcPump_noWork (s : State) (h : NoWork s) : s.svcPump = s := by
  obtain ⟨h1, h2, h3, h4, h5, h6, _⟩ := h
  have e2 : s.resumePunts = s := by
    unfold State.resumePunts
    cases s; simp_all
  have e3 : s.resumePipe = s := by
    unfold State.resumePipe
    split
    · rfl
    · cases s; simp_all
  have e4 : s.pumpOps = s := by unfold State.pumpOps; split <;> simp [h4]
  have e5 : s.storPump = s := by simp [State.storPump, h5, tkeys]
  have e6 : s.foragerPump = s := by unfold State.foragerPump; split <;> simp [h6, tkeys]
  simp [State.svcPump, hivesLeft_empty s h1, e2, e3, e4, e5, e6]

end Sys2Proof.Laws
end

