-- ==== Sys2Proof/Laws/Queron.lean ====
section
/-! SUPPORT. What issue and completion of a Queron instruction do to the thread, once for all instructions. -/

namespace Sys2Proof

open Machine

theorem tins_tins {α : Type} (k : Nat) (v w : α) (t : Tbl α) : tins k v (tins k w t) = tins k v t := by
  induction t with
  | nil => simp [tins]
  | cons e r ih =>
    obtain ⟨a, x⟩ := e
    by_cases h1 : k < a
    · simp [tins, h1]
    · by_cases h2 : k = a
      · simp [tins, h2]
      · simp [tins, h1, h2, ih]

theorem th_setTh_same (s : State) (t : Nat) (v : Thread) : (s.setTh t v).th t = v := by
  simp [State.th, State.setTh]

theorem th_setTh_ne (s : State) {t k : Nat} (v : Thread) (h : k ≠ t) : (s.setTh t v).th k = s.th k := by
  simp [State.th, State.setTh, tget_tset_ne _ _ _ h]

/-- A thread that is not as after reset: the second of two writes counts. -/
theorem setTh_setTh (s : State) (t : Nat) {v w : Thread} (hv : v ≠ Thread.reset) (hw : w ≠ Thread.reset) :
    (s.setTh t v).setTh t w = s.setTh t w := by
  simp [State.setTh, tset, hv, hw, tins_tins]

theorem run_ne_reset {v : Thread} (h : v.state = thRun) : v ≠ Thread.reset := by
  intro e; rw [e] at h; simp [Thread.reset, thRun] at h

/-- A thread that issues acts at once. -/
theorem issue_eq {s : State} {t : Nat} (f : State → State) (h : Issues s t) : s.issue t f = f s := by
  obtain ⟨h1, h2, h3, h4, h5⟩ := h
  have hi : s.issues t = true := by
    simp [State.issues, thOk, h1, h2, State.hiveIssues, State.domUp, h3]
  have hp : ¬ ((s.hv (t / 64)).imgLen ≤ (s.th t).pc ∨ (s.th t).pc % 4 ≠ 0) := by omega
  simp [State.issue, hi, h3, hp]

theorem qIns_eq {s : State} {t : Nat} (f : State → State) (h : Issues s t) : s.qIns t true f = f s := by
  simp [State.qIns, issue_eq _ h]

theorem qIns_illegal {s : State} {t : Nat} (f : State → State) (h : Issues s t) :
    s.qIns t false f = s.qFault t fltIllegal 0 := by
  simp [State.qIns, issue_eq _ h]

theorem same_th {u t : State} (h : Same u t) (k : Nat) : t.th k = u.th k :=
  same_view h (fun s => s.th k) (fun _ _ _ => rfl)

theorem qNext_ran {s : State} {t : Nat} (pc : Nat) : s.qNext t pc = Ran s t 0 0 pc := by
  simp [State.qNext, State.modTh, Ran, regsWith]

/-- Completion with a result: the thread alone changes. -/
theorem qw_qNext {s : State} {t : Nat} (rd : Nat) (v : Word) (pc : Nat) (h : (s.th t).state = thRun) :
    (s.qw t rd v).qNext t pc = Ran s t rd v pc := by
  by_cases hr : rd = 0 ∨ 32 ≤ rd
  · simp [State.qw, hr, State.qNext, State.modTh, Ran, regsWith]
  · have e1 : ({ s.th t with q := tset 0 (s.th t).q rd v } : Thread) ≠ Thread.reset := run_ne_reset h
    have e2 : ({ s.th t with q := tset 0 (s.th t).q rd v, pc := pc, retired := (s.th t).retired + 1 } : Thread) ≠ Thread.reset :=
      run_ne_reset h
    simp only [State.qw, hr, if_false, State.qNext, State.modTh, Ran, regsWith, th_setTh_same]
    rw [setTh_setTh _ _ e1 e2]

theorem qw_th_pc (s : State) (t rd : Nat) (v : Word) : ((s.qw t rd v).th t).pc = (s.th t).pc := by
  unfold State.qw
  split
  · rfl
  · simp [State.modTh, th_setTh_same]

theorem qDone_ran {s : State} {t : Nat} (rd : Nat) (v : Word) (h : (s.th t).state = thRun) :
    s.qDone t rd v = Ran s t rd v (nextPc s t) := by
  simp [State.qDone, State.qStep, qw_th_pc, qw_qNext _ _ _ h, nextPc]

theorem qStep_ran {s : State} {t : Nat} : s.qStep t = Ran s t 0 0 (nextPc s t) := by
  simp [State.qStep, qNext_ran, nextPc]

@[simp] theorem Ran_pending (s : State) (t rd : Nat) (v : Word) (pc : Nat) : (Ran s t rd v pc).pending = s.pending := rfl

/-- An instruction whose fields are legal and that gives RD a value. -/
theorem gives_alu {c : Instr} {s : State} {th rd : Nat} {w : Word} {f : State → State} (hi : Issues s th)
    (he : exec c s = done s (s.qIns th true f)) (hf : f s = s.qDone th rd w) :
    Gives c s (Ran s th rd w (nextPc s th)) := by
  refine gives_of ?_ rfl
  rw [he, qIns_eq _ hi, hf, qDone_ran _ _ hi.2.1]

theorem sgn_toInt (n v : Nat) (hn : 0 < n) : (BitVec.ofNat n v).toInt = sgn n v := by
  have e : 2 ^ n = 2 * 2 ^ (n - 1) := by rw [← Nat.pow_succ']; congr 1; omega
  rw [BitVec.toInt_eq_toNat_cond, BitVec.toNat_ofNat, sgn]
  have c : ((v % 2 ^ n : Nat) : Int) = (v : Int) % 2 ^ n := by push_cast; rfl
  by_cases h : v % 2 ^ n < 2 ^ (n - 1)
  · rw [if_pos (by omega), if_pos h, c]
  · rw [if_neg (by omega), if_neg h, c]; push_cast; rfl

theorem sextW_eq (n v : Nat) (hn : 0 < n) : sextW n v = sx n v := by
  rw [sextW, BitVec.signExtend, sgn_toInt n v hn, sx]

theorem sx_toInt (v : Nat) : (sx 16 v).toInt = sgn 16 v := by
  rw [sx, BitVec.toInt_ofInt]
  have h1 : -(32768:Int) ≤ sgn 16 v ∧ sgn 16 v < 32768 := by
    unfold sgn; split <;> omega
  rw [Int.bmod_eq_of_le] <;> omega

theorem zextW_eq (n v : Nat) (h : v < 2 ^ n): zextW n v = BitVec.ofNat 64 v := by
  apply BitVec.eq_of_toNat_eq
  simp only [zextW, BitVec.toNat_setWidth, BitVec.toNat_ofNat, Nat.mod_eq_of_lt h]

/-- Completion after a change of the thread that leaves state, registers, pc and count alone. -/
theorem modTh_qDone {s : State} {th rd : Nat} {w : Word} (f : Thread → Thread) (hr : (s.th th).state = thRun)
    (h1 : (f (s.th th)).state = (s.th th).state) (h2 : (f (s.th th)).q = (s.th th).q)
    (h3 : (f (s.th th)).pc = (s.th th).pc) (h4 : (f (s.th th)).retired = (s.th th).retired) :
    (s.modTh th f).qDone th rd w = s.setTh th { f (s.th th) with
      q := regsWith (s.th th) rd w, pc := nextPc s th, retired := (s.th th).retired + 1 } := by
  have a1 : (f (s.th th)) ≠ Thread.reset := run_ne_reset (by rw [h1]; exact hr)
  rw [qDone_ran _ _ (by simp [State.modTh, th_setTh_same, h1, hr])]
  simp only [Ran, State.modTh, th_setTh_same, nextPc, h3, h4]
  rw [setTh_setTh _ _ a1 (run_ne_reset (by simp [h1, hr]))]
  simp [regsWith, h2]

/-- An event of a thread that does not wait for one is kept pending. -/
theorem thEvent_awake {s : State} {t : Nat} (b : Nat) (h : (s.th t).state ≠ thWfe) :
    s.thEvent t b = s.modTh t (fun v => { v with pending := v.pending ||| 2 ^ b }) := by
  simp [State.thEvent, State.wakeTh, State.modTh, th_setTh_same, h]

/-- An enabled event ends a wait. -/
theorem wakeTh_wfe {s : State} {t : Nat} (h : (s.th t).state = thWfe) (hw : (s.th t).wakes = true) :
    (s.wakeTh t).th t = { s.th t with state := thRun, pc := (s.th t).pc + 4, retired := (s.th t).retired + 1,
                                      clk := s.edryn.clk } := by
  have e : ∀ (u : State) (k : Nat) (f : HiveSt → HiveSt) (j : Nat), (u.modHv k f).th j = u.th j := fun _ _ _ _ => rfl
  simp [State.wakeTh, h, hw, State.setThState, State.modTh, th_setTh_same, e]

theorem thEvent_wfe {s : State} {t : Nat} (b : Nat) (h : (s.th t).state = thWfe)
    (hw : Thread.wakes { s.th t with pending := (s.th t).pending ||| 2 ^ b } = true) :
    (s.thEvent t b).th t = { s.th t with pending := (s.th t).pending ||| 2 ^ b, state := thRun, pc := (s.th t).pc + 4,
                                         retired := (s.th t).retired + 1, clk := s.edryn.clk } := by
  rw [State.thEvent, wakeTh_wfe (by simp [State.modTh, th_setTh_same, h]) (by simpa [State.modTh, th_setTh_same] using hw)]
  simp [State.modTh, th_setTh_same]

/-- A thread's change of state, and an event, change threads and Hives alone. -/
theorem setThState_frame (s : State) (t c : Nat) :
    s.setThState t c = { s with thread := (s.setThState t c).thread, hive := (s.setThState t c).hive } := by
  unfold State.setThState
  by_cases h : c = thRun
  · rw [if_pos h]; rfl
  · rw [if_neg h]; rfl

theorem wakeTh_frame (s : State) (t : Nat) :
    s.wakeTh t = { s with thread := (s.wakeTh t).thread, hive := (s.wakeTh t).hive } := by
  by_cases c : ((s.th t).state == thWfe && (s.th t).wakes) = true
  · have e : s.wakeTh t = (s.setTh t { s.th t with pc := (s.th t).pc + 4, retired := (s.th t).retired + 1 }).setThState t thRun :=
      if_pos c
    rw [e]; exact setThState_frame _ _ _
  · have e : s.wakeTh t = s := if_neg c
    rw [e]

theorem thEvent_frame (s : State) (t b : Nat) :
    s.thEvent t b = { s with thread := (s.thEvent t b).thread, hive := (s.thEvent t b).hive } :=
  wakeTh_frame (s.modTh t (fun v => { v with pending := v.pending ||| 2 ^ b })) t

theorem setThState_th_ne {s : State} {t k : Nat} (c : Nat) (h : k ≠ t) : (s.setThState t c).th k = s.th k := by
  have e : ∀ (u : State) (k : Nat) (f : HiveSt → HiveSt) (j : Nat), (u.modHv k f).th j = u.th j := fun _ _ _ _ => rfl
  unfold State.setThState
  split <;> simp [e, State.modTh, th_setTh_ne _ _ h]

/-- An event of one thread leaves the others alone. -/
theorem thEvent_th_ne {s : State} {t k : Nat} (b : Nat) (h : k ≠ t) : (s.thEvent t b).th k = s.th k := by
  have w : ∀ u : State, (u.wakeTh t).th k = u.th k := by
    intro u
    show (if ((u.th t).state == thWfe && (u.th t).wakes) = true then _ else u).th k = _
    by_cases c : ((u.th t).state == thWfe && (u.th t).wakes) = true
    · rw [if_pos c, setThState_th_ne _ h, th_setTh_ne _ _ h]
    · rw [if_neg c]
  rw [State.thEvent, w, State.modTh, th_setTh_ne _ _ h]

/-- An event of a thread leaves its registers and staging alone. -/
theorem thEvent_keeps (s : State) (t b k : Nat) :
    ((s.thEvent t b).th k).q = (s.th k).q ∧ ((s.thEvent t b).th k).staging = (s.th k).staging ∧
    ((s.th k).state ≠ thWfe → ((s.thEvent t b).th k).pc = (s.th k).pc) ∧ ((s.thEvent t b).th t).pending.testBit b = true := by
  by_cases hw : (s.th t).state = thWfe ∧ Thread.wakes { s.th t with pending := (s.th t).pending ||| 2 ^ b } = true
  · have := thEvent_wfe b hw.1 hw.2
    by_cases hk : k = t
    · subst hk; rw [this]; refine ⟨rfl, rfl, fun h => absurd hw.1 h, by simp⟩
    · rw [thEvent_th_ne _ hk, this]; exact ⟨rfl, rfl, fun _ => rfl, by simp⟩
  · have e : s.thEvent t b = s.modTh t (fun v => { v with pending := v.pending ||| 2 ^ b }) := by
      simp only [State.thEvent]
      unfold State.wakeTh
      refine if_neg ?_
      simp only [State.modTh, th_setTh_same]
      intro h
      simp only [Bool.and_eq_true] at h
      exact hw ⟨of_decide_eq_true h.1, h.2⟩
    rw [e]
    by_cases hk : k = t
    · subst hk; simp [State.modTh, th_setTh_same]
    · simp [State.modTh, th_setTh_same, th_setTh_ne _ _ hk]

/-- A channel's messages after a write of a channel's. -/
theorem msgs_setMsgs (s : State) (h c a b : Nat) (m : List (List Word)) (hc : c < 256) (hb : b < 256) :
    (s.setMsgs h c m).msgs a b = if (a, b) = (h, c) then m else s.msgs a b := by
  by_cases e : (a, b) = (h, c)
  · simp only [Prod.mk.injEq] at e; obtain ⟨rfl, rfl⟩ := e
    simp [State.setMsgs, State.msgs]
  · rw [if_neg e]
    have : a * 256 + b ≠ h * 256 + c := by
      intro h'; apply e; simp only [Prod.mk.injEq]; omega
    simp [State.setMsgs, State.msgs, tget_tset_ne _ _ _ this]

end Sys2Proof
end

