-- ==== Sys2Proof/Laws/Steps.lean ====
section
/-! SUPPORT. What a command can do, once: where it goes on, the pins that follow the state settle at its end, and the
queue is as it was. -/

namespace Sys2Proof

open Machine

/-- A state that a command leaves: some effect, the derived pins settled after it, the queue as it was. -/
abbrev Ended (s t : State) : Prop := ∃ u, t = { State.settle u with pending := s.pending }

theorem of_done {s u t : State} (h : done s u = .next t) : Ended s t := ⟨u, done_next.mp h⟩
theorem of_act {s u t : State} {a : Nat} (h : act s a u = .next t) : Ended s t := ⟨u, (act_next.mp h).2⟩
theorem of_onUnit {s u t : State} {a : Nat} (h : onUnit s a u = .next t) : Ended s t := ⟨_, onUnit_next.mp h⟩
theorem of_onInfo {s t : State} {a : Nat} {f : UnitInfo → State} (h : onInfo s a f = .next t) : Ended s t :=
  ⟨_, onInfo_next.mp h⟩
theorem of_actInfo {s t : State} {x a : Nat} {f : UnitInfo → State} (h : actInfo s x a f = .next t) : Ended s t :=
  ⟨_, (actInfo_next.mp h).2⟩

theorem execMailboxWrite_next {s t : State} {a w c m : Nat} {v : Word} (h : execMailboxWrite a w c m v s = .next t) :
    Ended s t := by
  unfold execMailboxWrite at h
  split at h
  · cases h
  split at h
  · exact of_done h
  split at h <;> exact of_done h
theorem execMailboxRead_next {s t : State} {a w c m : Nat} {b : Bool} (h : execMailboxRead a w c m b s = .next t) :
    Ended s t := by
  unfold execMailboxRead at h
  split at h
  · cases h
  split at h
  · exact of_done h
  split at h <;> exact of_done h
theorem execLockRead_next {s t : State} {a w k : Nat} {b : Bool} (h : execLockRead a w k b s = .next t) : Ended s t := by
  unfold execLockRead at h
  split at h
  · cases h
  split at h
  · exact of_done h
  split at h <;> exact of_done h
theorem execFaultEvent_next {s t : State} {a b c d e f : Nat} (h : execFaultEvent a b c d e f s = .next t) : Ended s t := by
  unfold execFaultEvent at h
  split at h
  case h_1 => exact of_onUnit h
  case h_6 => exact of_onUnit h
  all_goals exact of_done h

/-- Every command that goes on. -/
theorem exec_next {c : Instr} {s t : State} (h : exec c s = .next t) : Ended s t := by
  cases c <;> first
    | exact of_done h
    | exact of_act h
    | exact of_actInfo h
    | exact of_onInfo h
    | exact of_onUnit h
    | exact execMailboxWrite_next h
    | exact execMailboxRead_next h
    | exact execLockRead_next h
    | exact execFaultEvent_next h

end Sys2Proof
end

