-- ==== Sys2Proof/Tests/Slice0.lean ====
section
/-! SUPPORT. Tests: for each statement that has hypotheses, states and operands that meet those of its clauses
(`meets_…`); the checks of WellFormed; and single steps whose results come from the spec. -/

set_option Elab.async false

open Sys2Proof Sys2Proof.Machine

namespace Sys2Proof.Tests

/-! Small states. -/

/-- HIVE0 with an image of 4,096 bytes; thread n in RUN at PC 8, q1 = a, q2 = b. -/
def hive0 : State := State.reset.setHv 0 { State.reset.hv 0 with imgLen := 4096 }
def runs (n a b : Nat) : State :=
  hive0.setTh n { hive0.th n with state := thRun, q := [(1, BitVec.ofNat 64 a), (2, BitVec.ofNat 64 b)], pc := 8 }
/-- Thread 3 of HIVE0, which receives channel c; q1 names channel c, q2 = b; its staging and the channel's messages. -/
def chan (c b : Nat) (st : List Word) (ms : List (List Word)) : State :=
  let s := runs 3 c b
  { s.modTh 3 (fun v => { v with staging := st }) with
      hchan := [(c, 0x43)], hmsg := if ms.isEmpty then [] else [(c, ms)] }
/-- The same with a field of a register set. -/
def withF (s : State) (f : Fld) (v : Nat) : State := s.p f v
def parks (n a b : Nat) : State := (runs n a b).pb (HIVE.CFG.FAULT_MODE 0) true
/-- Thread 3 of HIVE0 holds packet 5 under handle 7; q1 = 7 and q2 = b. -/
def holds (b : Nat) : State :=
  { runs 3 7 b with
      pkts := [(1, { Pkt.none with bytes := List.replicate 60 1, cells := 1, refs := 1 })],
      descs := [(5, { Desc.empty with pkt := 1, handle := 7, place := .held 0 })], serial := 5 }
/-- A send record in the Hive store at 0x40: bytes of the frame at 0x100. -/
def sendRec (len kind : Nat) : State :=
  let s := runs 3 0x40 0
  { s with store := mwrite (mwrite [] 0x40 (leBytes 4 0x100 ++ leBytes 2 len ++ [0, 3, BitVec.ofNat 8 kind, 0])) 0x100 [1, 2, 3] }
/-- The device up: start-up is over. -/
def live : State := { State.reset with trust := { Trust.reset with phase := 2 } }
/-- The same with a part of the time base set. -/
def timed (f : Edryn → Edryn) : State := { live with edryn := f live.edryn }
/-- Instance 0 in RUNNING on link 0. -/
def inst0 (s : State) : State := s.wi 0 IR.state 1
/-- Link l is up. -/
def linkUp (s : State) (l : Nat) : State := s.pb (HOSTLINK.LINK_STAT.DL_UP l) true
/-- A valid time-of-day message for second 7, after the PPS edge of pin 0. -/
def todMsg (sec : Nat) : Bytes :=
  let b : Bytes := [0x4B, 0x54, 0x01, 18] ++ ([0, 0, 0, 0, 0, BitVec.ofNat 8 sec] : Bytes) ++ List.replicate 12 0
  b ++ [BitVec.ofNat 8 (crc16 (b.drop 2) / 256), BitVec.ofNat 8 (crc16 (b.drop 2))]
def tod0 : State :=
  ((timed (fun e => { e with clk := 10_000_000, ppsClk := [(0, 5_000_001)] })).pb EDRYN.TOD_CTL.RX_EN true).p EDRYN.SRC.PHASE 2
/-- Channel c of WAGGLE w with its ends. -/
def chEnds (s : State) (w c a b : Nat) : State :=
  (s.p (CH.CFG.A_ACTOR (chBlock w c)) a).p (CH.CFG.B_ACTOR (chBlock w c)) b
/-- What the unit map says of a unit. -/
def unitOf (u : Nat) : UnitInfo := (unitInfo u).getD ⟨0, .root, 0, 0, 0, 0⟩
/-- A change record of one entry that clears bit 1 of word 4, with its digest. -/
def recBody (epoch : Nat) : Bytes :=
  leBytes 2 1 ++ leBytes 2 1 ++ leBytes 4 0 ++ leBytes 8 epoch ++ leBytes 8 0 ++ leBytes 8 0 ++
  leBytes 4 4 ++ leBytes 4 0 ++ leBytes 8 0 ++ leBytes 8 2
def chRec1 (epoch : Nat) : Bytes := recBody epoch ++ sha384 (recBody epoch)
/-- The record staged by Party H, a Party P session, and a pending submission. -/
def party (epoch : Nat) (pend : Option (Nat × Bytes × Nat)) : State :=
  let b := chRec1 epoch
  live.modTrust (fun t => { t with
    stagedH := [(0, packBytes 512 (b.take 64)), (1, packBytes 512 (b.drop 64))], pend := pend, sessions := [(9, true)] })
def phased (k : Nat) : State := { State.reset with trust := { Trust.reset with phase := k } }
/-- Instance 7 in RUNNING on link 0 with WQs 0 and 1 and CR 0, whose records are given. -/
def rings (s : State) (w : List (RF × Nat)) (c : List (RF × Nat)) : State :=
  let s := [(IR.state, 1), (IR.nwq, 2), (IR.ncr, 1), (IR.nint, 1), (IR.nleaf, 1)].foldl (fun s e => s.wi 7 e.1 e.2) s
  let s := w.foldl (fun s e => s.wqp 1 e.1 e.2) s
  c.foldl (fun s e => s.crp 0 e.1 e.2) s
/-- A link that is up, with its registers set. -/
def linked (l : Nat) (fs : List (Fld × Nat)) : State := fs.foldl (fun s e => s.p e.1 e.2) (linkUp live l)
/-- Port p in mode m, IN_SERVICE, its link up. -/
def portOn (s : State) (p m : Nat) : State :=
  (((s.p (PORT.MODE.MODE p) m).p (UNIT.SVC.CUR (PORT.base p)) 0).p (UNIT.SVC.REASON (PORT.base p)) 1).pb (PORT.STAT.LINK p) true
/-- Every Hive QUIESCING. -/
def noHives (s : State) : State := (List.range 12).foldl (fun s h => s.p (UNIT.SVC.CUR (HIVE.base h)) 1) s
/-- A descriptor d of packet 1, on its own. -/
def packet (s : State) (d : Nat) (v : Desc) : State :=
  { s with pkts := [(1, { Pkt.none with bytes := v.bytes, cells := 1, refs := 1 })], descs := [(d, { v with pkt := 1 })], serial := d }
/-- A Scarab operation on sequencer 5 that a use waits for. -/
def sop (u : SUse) (slot fail : Nat) (m : BitVec 1024) (req : Bytes) : SOp :=
  { use := u, seq := some 5, dir := 0, slot := slot, gen := 0, mat := m, count := 0, fail := fail, blocks := 1, inst := 2048,
    retried := false, req := req }
/-- A slot's record: state, use, mode, flags, owner, key. -/
def slotOf (l : List (RF × Nat)) : BitVec 1024 := l.foldl (fun r e => rput r e.1 e.2) 0
/-- A key of mode 5 for lookaside operations of no instance. -/
def macKey : BitVec 1024 :=
  slotOf [(KS.state, 1), (KS.mode, 5), (KS.enc, 1), (KS.dec, 1), (KS.owner, 0xFFFF), (KS.hard, 9), (KS.key1, 77)]
/-- A CMAC verification of the two bytes after the result, its tag of four bytes after them. -/
def macReq (src dst tag_ : Nat) : BitVec 512 :=
  [(EN.opcode, 4), (CE.slot, 5), (CE.tagLen, 4), (CE.src, src), (CE.len, 2), (CE.dst, dst), (CE.tag, tag_)].foldl
    (fun r e => rput r e.1 e.2) 0
def bytes512 (r : BitVec 512) : Bytes := leBytes 64 r.toNat
/-- An inline TLS receive on packet 1 of descriptor 9. -/
def tlsDesc : Desc :=
  let v := { Desc.empty with bytes := List.replicate 60 0x60, dk := 2, dest := 7, src := 3, op := some 4, place := .pipe }
  { v with prec := { PRec.empty with hdrs := [(0x08, 14), (0x0D, 34)], ol3 := 0, ol4 := 1 } }
def tlsIn (fail : Nat) : State :=
  let m := slotOf [(KS.state, 1), (KS.use, 3), (KS.mode, 1), (KS.dec, 1)]
  { packet live 9 tlsDesc with sops := [(4, sop (.inline 9) 5 fail m (leBytes 8 (2 * 2 ^ 40)))] }
/-- A storage connection of a transport, with its record's fields. -/
def conn (s : State) (c : Nat) (fs : List (RF × Nat)) : State := fs.foldl (fun s e => s.cnp c e.1 e.2) s
/-- Connection 7 is UP, and STOR has one request r of two parts, of which part 3 has ended. -/
def up7 (s : State) (tr : Nat) (l : List (RF × Nat)) : State :=
  conn s 7 ([(CN.state, 1), (CN.transport, tr), (CN.qdepth, 4), (CN.rxFlow, 20), (CN.owner, 0xFFFF), (CN.mss, 1024), (CN.timeout, 2)] ++ l)
def sreq (ps : List Nat) : SReq :=
  { wq := 1, index := 5, inst := 7, ns := 1, raw := 0, ranges := [], nsr := 0, parts := ps, squash := false, host := 0, start := 0 }
def spart (cmd phase cid : Nat) : SPart :=
  { SPart.none with req := 9, cmd := cmd, conn := 7, ext := 1, phase := phase, cid := cid, rnsid := 5, rlba := 77, nlb := 8 }
/-- COMB of domain 1 waits to be woken. -/
def asleep (s : State) : State := s.p (PWR.DOM_STAT.STATE 1) 9
/-- A RoCEv2 SEND with a completion of remote CID i, from the target, as descriptor 9. -/
def roceIn (s : State) (psn i : Nat) : State :=
  let b : Bytes := List.replicate 38 (0 : Byte) ++ [0, 40, 0, 0] ++ [4, 0, 0, 0, 0, 0, 0, 0, 0] ++ beBytes 3 psn ++
    List.replicate 12 (0 : Byte) ++ leBytes 2 i ++ [0, 0, 0, 0, 0, 0]
  let v := { Desc.empty with bytes := b, flowIdx := 20, place := .stor, src := 3 }
  let v := { v with prec := { PRec.empty with hdrs := [(0x0E, 34), (0x16, 42)] } }
  { packet s 9 v with storIn := [9] }
/-- Channel c of FORAGER, fed from a ring at 0x100 of HIVE3's store, with its record's fields. -/
def forager (s : State) (c : Nat) (l : List (RF × Nat)) : State :=
  let fs := [(FR.feed, 1), (FR.group, 7), (FR.owner, 0xFFFF), (FR.base, 0x100), (FR.log2, 6), (FR.rspace, 2), (FR.rhive, 3)] ++ l
  fs.foldl (fun s e => s.chp c e.1 e.2) s
/-- A FILL of 64 bytes at the start of Hive data in HBM. -/
def fillD (l : List (RF × Nat)) : BitVec 512 :=
  ([(FD.opcode, 2), (FD.dst, hbmHiveFrom), (FD.len, 64), (FD.dstSpace, 1), (FD.pattern, 0x0102030405060708)] ++ l).foldl
    (fun r e => rput r e.1 e.2) 0
def fdesc (c phase : Nat) (raw : BitVec 512) : FDesc := { FDesc.none with ch := c, index := 63, raw := raw, phase := phase }

/-! Hypotheses that something meets. -/

theorem meets_queronArithmetic :
    (let s : State := runs 3 5 0x8000000000000003
    let th : Nat := 3
    Issues s th) ∧
    (let s : State := runs 3 5 0
    let th : Nat := 3
    let imm : Nat := 0xFFFF
    let cnt : Nat := 63
    let k : Nat := 0x1FFFFF
    Issues s th ∧
    imm < 65536 ∧
    cnt < 64 ∧
    k < 2 ^ 21) := by
  refine ⟨?_, ?_⟩ <;> (try dsimp only [MayWrite, Issues, OnLink, OwnRange, OwnStore, Holds, UnitTakes, NoHold, NoWork, PinsFollow]) <;> decide +kernel

theorem meets_queronBitOps :
    (let s : State := runs 3 5 0x0102030405060708
    let th : Nat := 3
    Issues s th) ∧
    (let s : State := runs 3 5 0xF000000000000001
    let th : Nat := 3
    let pos : Nat := 60
    let len : Nat := 4
    Issues s th ∧
    1 ≤ len ∧
    pos + len ≤ 64) ∧
    (let s : State := runs 3 0x3FFFF0 16
    let th : Nat := 3
    let rs1 : Nat := 1
    let rs2 : Nat := 2
    let a : Word := s.qr th rs1
    let b : Word := s.qr th rs2
    Issues s th ∧
    0 < BitVec.toNat b ∧
    BitVec.toNat b ≤ 16384 ∧
    BitVec.toNat a + BitVec.toNat b ≤ hsSize ∧
    (s.secThread th = true ∨ BitVec.toNat a + BitVec.toNat b ≤ s.secureFrom (th / 64))) := by
  refine ⟨?_, ?_, ?_⟩ <;> (try dsimp only [MayWrite, Issues, OnLink, OwnRange, OwnStore, Holds, UnitTakes, NoHold, NoWork, PinsFollow]) <;> decide +kernel

theorem meets_queronBranches :
    let s : State := runs 3 5 6
    let th : Nat := 3
    Issues s th := by
  try dsimp only [MayWrite, Issues, OnLink, OwnRange, OwnStore, Holds, UnitTakes, NoHold, NoWork, PinsFollow]
  decide +kernel

theorem meets_queronControlEvents :
    (let s : State := runs 3 5 6
    let th : Nat := 3
    Issues s th) ∧
    (let s : State := (runs 3 3 0).modTh 3 (fun v => { v with pending := 0x100 })
    let th : Nat := 3
    let v : Thread := s.th th
    let rs1 : Nat := 1
    let k : Nat := th / 64 * 64 + BitVec.toNat (s.qr th rs1)
    Issues s th ∧
    v.pending &&& (v.mask ||| 1792) ≠ 0 ∧
    BitVec.toNat (s.qr th rs1) < 64 ∧
    k = th) ∧
    (let s : State := runs 3 63 0
    let th : Nat := 3
    let v : Thread := s.th th
    let rs1 : Nat := 1
    let k : Nat := th / 64 * 64 + BitVec.toNat (s.qr th rs1)
    Issues s th ∧
    v.pending &&& (v.mask ||| 1792) = 0 ∧
    BitVec.toNat (s.qr th rs1) < 64 ∧
    k ≠ th ∧
    (s.th k).state ≠ thWfe) ∧
    (let s : State := (runs 3 5 0).modTh 5 (fun v => { v with state := thWfe, mask := 0x80 })
    let th : Nat := 3
    let rs1 : Nat := 1
    let k : Nat := th / 64 * 64 + BitVec.toNat (s.qr th rs1)
    Issues s th ∧
    BitVec.toNat (s.qr th rs1) < 64 ∧
    k ≠ th ∧
    (s.th k).state = thWfe ∧
    (s.th k).mask.testBit 7 = true) := by
  refine ⟨?_, ?_, ?_, ?_⟩ <;> (try dsimp only [MayWrite, Issues, OnLink, OwnRange, OwnStore, Holds, UnitTakes, NoHold, NoWork, PinsFollow]) <;> decide +kernel

theorem meets_queronChannels :
    (let s : State := chan 7 0x3FFFF8 [5] (List.replicate 16 [3])
    let th : Nat := 3
    let v : Thread := s.th th
    let rs1 : Nat := 1
    let x : Nat := BitVec.toNat (s.qr th rs1)
    let h : Nat := x / 256
    let c : Nat := x % 256
    let own : Nat := th / 64
    let rs2 : Nat := 2
    let dst : Nat := BitVec.toNat (s.qr th rs2)
    let m : List Word := [3]
    let q : List (List Word) := List.replicate 15 [3]
    Issues s th ∧
    v.staging.length < 8 ∧
    h < 12 ∧
    chValid (s.hch h c) = true ∧
    (chFeed (s.hch h c) = 1 ∨ chFeed (s.hch h c) = 0 ∧ h = own) ∧
    v.staging ≠ [] ∧
    16 ≤ (s.msgs h c).length ∧
    x < 4096 ∧
    chValid (s.hch own c) = true ∧
    chReceiver (s.hch own c) = th % 64 ∧
    s.msgs own c = m :: q ∧
    m ≠ [] ∧
    dst % 8 = 0 ∧
    dst + 8 * m.length ≤ hsSize ∧
    (s.secThread th = true ∨ dst + 8 * m.length ≤ s.secureFrom own)) ∧
    (let s : State := chan 7 0 [1, 2] []
    let th : Nat := 3
    let rs1 : Nat := 1
    let v : Thread := s.th th
    let x : Nat := BitVec.toNat (s.qr th rs1)
    let h : Nat := x / 256
    let c : Nat := x % 256
    let own : Nat := th / 64
    let rs2 : Nat := 2
    let dst : Nat := BitVec.toNat (s.qr th rs2)
    Issues s th ∧
    h < 12 ∧
    chValid (s.hch h c) = true ∧
    (chFeed (s.hch h c) = 1 ∨ chFeed (s.hch h c) = 0 ∧ h = own) ∧
    v.staging ≠ [] ∧
    (s.msgs h c).length < 16 ∧
    x < 4096 ∧
    chValid (s.hch own c) = true ∧
    chReceiver (s.hch own c) = th % 64 ∧
    s.msgs own c = [] ∧
    dst % 8 = 0 ∧
    dst < hsSize) ∧
    (let s : State := chan 8 0 [] [[1], [2]]
    let th : Nat := 3
    let rs1 : Nat := 1
    let v : Thread := s.th th
    let x : Nat := BitVec.toNat (s.qr th rs1)
    let h : Nat := x / 256
    let c : Nat := x % 256
    let own : Nat := th / 64
    Issues s th ∧
    h < 12 ∧
    chValid (s.hch h c) = true ∧
    (chFeed (s.hch h c) = 1 ∨ chFeed (s.hch h c) = 0 ∧ h = own) ∧
    v.staging = []) := by
  refine ⟨?_, ?_, ?_⟩ <;> (try dsimp only [MayWrite, Issues, OnLink, OwnRange, OwnStore, Holds, UnitTakes, NoHold, NoWork, PinsFollow]) <;> decide +kernel

theorem meets_queronLoadsStores :
    (let s : State := runs 3 0x3FFFF8 6
    let th : Nat := 3
    let rs1 : Nat := 1
    let imm : Nat := 0
    let a : Nat := accessAt s th rs1 imm
    Issues s th ∧
    imm < 65536 ∧
    ¬(2, th) ∈ s.poison ∧
    OwnStore s th a 1 ∧
    OwnStore s th a 2 ∧
    OwnStore s th a 4 ∧
    OwnStore s th a 8) ∧
    (let s : State := runs 3 0x3FFFF8 6
    let th : Nat := 3
    let rs1 : Nat := 1
    let imm : Nat := 0
    let a : Nat := accessAt s th rs1 imm
    Issues s th ∧
    imm < 65536 ∧
    OwnStore s th a 1 ∧
    OwnStore s th a 2 ∧
    OwnStore s th a 4 ∧
    OwnStore s th a 8) := by
  refine ⟨?_, ?_⟩ <;> (try dsimp only [MayWrite, Issues, OnLink, OwnRange, OwnStore, Holds, UnitTakes, NoHold, NoWork, PinsFollow]) <;> decide +kernel

theorem meets_queronAtomics :
    let s : State := runs 3 0x3FFFF8 6
    let th : Nat := 3
    let rs1 : Nat := 1
    let d : Bool := true
    let n : Nat := if d = true then 8 else 4
    let a : Nat := BitVec.toNat (s.qr th rs1)
    Issues s th ∧
    OwnStore s th a n := by
  try dsimp only [MayWrite, Issues, OnLink, OwnRange, OwnStore, Holds, UnitTakes, NoHold, NoWork, PinsFollow]
  decide +kernel

theorem meets_queronFaults :
    (let s : State := ((parks 3 0x3FFFF8 0).p (HIVE.SECURE_REGION.SIZE 0) 1).modTh 3 (fun v => { v with staging := [1,2,3,4,5,6,7,8] })
    let th : Nat := 3
    let z : Nat := 31
    let rs1 : Nat := 1
    let imm : Nat := 0
    let a : Nat := accessAt s th rs1 imm
    Issues s th ∧
    z ≠ 0 ∧
    s.secThread th = false ∧
    s.secureFrom (th / 64) ≤ a ∧
    a + 8 ≤ hsSize ∧
    a % 8 = 0 ∧
    8 ≤ (s.th th).staging.length) ∧
    (let s : State := runs 3 0x400000 0
    let th : Nat := 3
    let rs1 : Nat := 1
    let imm : Nat := 0
    let a : Nat := accessAt s th rs1 imm
    Issues s th ∧
    hsSize ≤ a ∧
    a + 8 ≤ 268435456 ∧
    a % 8 = 0) ∧
    (let s : State := parks 3 0x3FFFF7 0
    let th : Nat := 3
    let rs1 : Nat := 1
    let imm : Nat := 0
    let a : Nat := accessAt s th rs1 imm
    Issues s th ∧
    a + 8 ≤ hsSize ∧
    a % 2 = 1) ∧
    (let s : State := (runs 3 5 0).modTh 3 (fun v => { v with pc := 4096 })
    let th : Nat := 3
    th < 768 ∧
    (s.th th).state = thRun ∧
    s.domState (14 + th / 64) = 0 ∧
    ((s.hv (th / 64)).imgLen ≤ (s.th th).pc ∨ (s.th th).pc % 4 ≠ 0)) := by
  refine ⟨?_, ?_, ?_, ?_⟩ <;> (try dsimp only [MayWrite, Issues, OnLink, OwnRange, OwnStore, Holds, UnitTakes, NoHold, NoWork, PinsFollow]) <;> decide +kernel

theorem meets_queronWaits :
    (let s : State := runs 3 0x10400000 5
    let th : Nat := 3
    let rs1 : Nat := 1
    let imm : Nat := 0
    let a : Nat := accessAt s th rs1 imm
    let o : Nat := a - 268435456
    let h : Nat := o / hsSize
    Issues s th ∧
    268435456 ≤ a ∧
    h < 12 ∧
    h ≠ th / 64 ∧
    a % 8 = 0 ∧
    ¬(2, th) ∈ s.poison ∧
    (s.secThread th = true ∨ o % hsSize + 8 ≤ s.secureFrom h)) ∧
    (let s : State := (runs 3 0 5).modTh 3 (fun v => { v with state := thWait, wait := some ⟨4, 1, true, 0, none⟩ })
    let th : Nat := 3
    let rd : Nat := 4
    let w : Word := 1
    let op : Nat := 0
    th < 768 ∧
    (s.th th).state = thWait ∧
    (s.th th).wait = some { rd := rd, value := w, ready := true, op := op, call := none } ∧
    (s.th th).later = 0) ∧
    (let s : State := (runs 3 0 5).modTh 3 (fun v => { v with state := thWait, later := 2, wait := some ⟨4, 1, true, 0, none⟩ })
    let th : Nat := 3
    let rd : Nat := 4
    let w : Word := 1
    let op : Nat := 0
    th < 768 ∧
    (s.th th).state = thWait ∧
    (s.th th).wait = some { rd := rd, value := w, ready := true, op := op, call := none } ∧
    (s.th th).later = 2) ∧
    (let s : State := (runs 3 0 5).modTh 3 (fun v => { v with state := thWait, later := 1, wait := some ⟨4, 1, true, 0, none⟩ })
    let th : Nat := 3
    let rd : Nat := 4
    let w : Word := 1
    let op : Nat := 0
    th < 768 ∧
    (s.th th).state = thWait ∧
    (s.th th).wait = some { rd := rd, value := w, ready := true, op := op, call := none } ∧
    (s.th th).later = 1) := by
  refine ⟨?_, ?_, ?_, ?_⟩ <;> (try dsimp only [MayWrite, Issues, OnLink, OwnRange, OwnStore, Holds, UnitTakes, NoHold, NoWork, PinsFollow]) <;> decide +kernel

theorem meets_queronPackets :
    (let s : State := sendRec 13 1
    let th : Nat := 3
    let rs2 : Nat := 2
    let k : Nat := BitVec.toNat (s.qr th rs2)
    let rs1 : Nat := 1
    let x : Nat := BitVec.toNat (s.qr th rs1)
    let h : Nat := th / 64
    let r : BitVec 256 := packBytes 256 (s.hsRead h x 32)
    Issues s th ∧
    k < 2 ∧
    (∀ (d : Nat), ¬Holds s th (x % 2 ^ 32) d) ∧
    (∀ (d : Nat), ¬Holds s th x d) ∧
    k < 2 ^ 32 ∧
    x % 32 = 0 ∧
    OwnRange s th x 32 ∧
    s.sendOk r = false) ∧
    (let s : State := holds 1
    let th : Nat := 3
    let rs1 : Nat := 1
    let rs2 : Nat := 2
    let x : Nat := BitVec.toNat (s.qr th rs1)
    let k : Nat := BitVec.toNat (s.qr th rs2)
    let d : Nat := 5
    Issues s th ∧
    k < 2 ∧
    Holds s th (x % 2 ^ 32) d) ∧
    (let s : State := holds 1
    let th : Nat := 3
    let rs1 : Nat := 1
    let x : Nat := BitVec.toNat (s.qr th rs1)
    let d : Nat := 5
    Issues s th ∧
    Holds s th x d ∧
    (s.desc d).handle = x ∧
    (s.pkt (s.desc d).pkt).work = none) ∧
    (let s : State := (holds 0xFFFFFFFF).p (PWR.DOM_STAT.STATE 1) 9
    let th : Nat := 3
    let rs1 : Nat := 1
    let rs2 : Nat := 2
    let x : Nat := BitVec.toNat (s.qr th rs1)
    let k : Nat := BitVec.toNat (s.qr th rs2)
    let d : Nat := 5
    Issues s th ∧
    Holds s th x d ∧
    (s.desc d).handle = x ∧
    k < 2 ^ 32 ∧
    s.domState 1 = 9) ∧
    (let s : State := (sendRec 60 2).p COMB.HIVE_LIMIT.CELLS 0
    let th : Nat := 3
    let rs1 : Nat := 1
    let x : Nat := BitVec.toNat (s.qr th rs1)
    let h : Nat := th / 64
    let r : BitVec 256 := packBytes 256 (s.hsRead h x 32)
    let f : Bytes := s.hsRead h (rget r SR.addr) (rget r SR.len)
    Issues s th ∧
    x % 32 = 0 ∧
    OwnRange s th x 32 ∧
    s.sendOk r = true ∧
    rget r SR.fromHandle = 0 ∧
    OwnRange s th (rget r SR.addr) (rget r SR.len) ∧
    s.g COMB.HIVE_LIMIT.CELLS < s.hiveCharge h + cellsOf (List.length f)) ∧
    (let s : State := ((sendRec 60 2).p COMB.HIVE_LIMIT.CELLS 1).p (PWR.DOM_STAT.STATE 1) 9
    let th : Nat := 3
    let rs1 : Nat := 1
    let x : Nat := BitVec.toNat (s.qr th rs1)
    let h : Nat := th / 64
    let r : BitVec 256 := packBytes 256 (s.hsRead h x 32)
    let f : Bytes := s.hsRead h (rget r SR.addr) (rget r SR.len)
    Issues s th ∧
    x % 32 = 0 ∧
    OwnRange s th x 32 ∧
    s.sendOk r = true ∧
    rget r SR.fromHandle = 0 ∧
    OwnRange s th (rget r SR.addr) (rget r SR.len) ∧
    s.hiveCharge h + cellsOf (List.length f) ≤ s.g COMB.HIVE_LIMIT.CELLS ∧
    cellsOf (List.length f) ≤ s.poolFree ∧
    0 < s.descFree ∧
    s.domState 1 = 9) := by
  refine ⟨?_, ?_, ?_, ?_, ?_, ?_⟩
  · refine ⟨?_, ?_, fun d h => (nomatch h.1.symm.trans (by decide +kernel : _ = (none : Option Nat))), fun d h => (nomatch h.1.symm.trans (by decide +kernel : _ = (none : Option Nat))), ?_⟩ <;> (try dsimp only [MayWrite, Issues, OnLink, OwnRange, OwnStore, Holds, UnitTakes, NoHold]) <;> decide +kernel
  · (try dsimp only [MayWrite, Issues, OnLink, OwnRange, OwnStore, Holds, UnitTakes, NoHold, NoWork, PinsFollow]) <;> decide +kernel
  · (try dsimp only [MayWrite, Issues, OnLink, OwnRange, OwnStore, Holds, UnitTakes, NoHold, NoWork, PinsFollow]) <;> decide +kernel
  · (try dsimp only [MayWrite, Issues, OnLink, OwnRange, OwnStore, Holds, UnitTakes, NoHold, NoWork, PinsFollow]) <;> decide +kernel
  · (try dsimp only [MayWrite, Issues, OnLink, OwnRange, OwnStore, Holds, UnitTakes, NoHold, NoWork, PinsFollow]) <;> decide +kernel
  · (try dsimp only [MayWrite, Issues, OnLink, OwnRange, OwnStore, Holds, UnitTakes, NoHold, NoWork, PinsFollow]) <;> decide +kernel

theorem meets_queronCalls :
    (let s : State := let s := runs 3 64 0x40; { s with flows := [(64, rput 0 FC.state 2)] }
    let th : Nat := 3
    let rs1 : Nat := 1
    let rs2 : Nat := 2
    let a : Nat := BitVec.toNat (s.qr th rs1)
    let b : Nat := BitVec.toNat (s.qr th rs2)
    Issues s th ∧
    UnitTakes s th FLOW.base 1 ∧
    s.claimAllows (UNIT.CLAIM.reg FLOW.base) (4096 + th) = true ∧
    a < flowMax ∧
    b % 64 = 0 ∧
    OwnRange s th b 256 ∧
    ctxState (s.ctx a) = 2 ∧
    s.listRefs a = 0 ∧
    a % 64 = 0 ∧
    OwnRange s th a 48 ∧
    UnitTakes s th CLASS.base 1 ∧
    OwnRange s th b 32 ∧
    (∀ (d : Nat), ¬Holds s th a d)) ∧
    (let s : State := runs 3 0x400000 0x40
    let th : Nat := 3
    let rs1 : Nat := 1
    let rs2 : Nat := 2
    let a : Nat := BitVec.toNat (s.qr th rs1)
    let b : Nat := BitVec.toNat (s.qr th rs2)
    Issues s th ∧
    UnitTakes s th FLOW.base 1 ∧
    s.claimAllows (UNIT.CLAIM.reg FLOW.base) (4096 + th) = true ∧
    flowMax ≤ a ∧
    b % 64 = 0 ∧
    OwnRange s th b 256) ∧
    (let s : State := let s := runs 3 64 0x40; { s with flows := [(64, rput 0 FC.state 1)] }
    let th : Nat := 3
    let rs1 : Nat := 1
    let a : Nat := BitVec.toNat (s.qr th rs1)
    Issues s th ∧
    UnitTakes s th FLOW.base 1 ∧
    s.claimAllows (UNIT.CLAIM.reg FLOW.base) (4096 + th) = true ∧
    a < flowMax ∧
    ctxState (s.ctx a) = 1) ∧
    (let s : State := let s := holds 0x40; s
    let th : Nat := 3
    let rs1 : Nat := 1
    let rs2 : Nat := 2
    let a : Nat := BitVec.toNat (s.qr th rs1)
    let b : Nat := BitVec.toNat (s.qr th rs2)
    let d : Nat := 5
    Issues s th ∧
    UnitTakes s th CLASS.base 1 ∧
    b % 64 = 0 ∧
    OwnRange s th b 32 ∧
    Holds s th a d) ∧
    (let s : State := let s := runs 3 0x40 0x40; { s with profiles := [(5, 1)], store := mwrite [] 0x40 (leBytes 256 (rput (rput (0 : BitVec 2048) FC.owner 0xFFFF) FC.key 5).toNat) }
    let th : Nat := 3
    let rs1 : Nat := 1
    let a : Nat := BitVec.toNat (s.qr th rs1)
    let h : Nat := th / 64
    let x : InsRes × State := s.insertFlow (packBytes 2048 (s.hsRead h a 256)) false
    Issues s th ∧
    UnitTakes s th FLOW.base 1 ∧
    s.claimAllows (UNIT.CLAIM.reg FLOW.base) (4096 + th) = true ∧
    a % 64 = 0 ∧
    OwnRange s th a 256 ∧
    x.fst.status = 0) := by
  refine ⟨?_, ?_, ?_, ?_, ?_⟩
  · refine ⟨?_, ?_, ?_, ?_, ?_, ?_, ?_, ?_, ?_, ?_, ?_, ?_, fun d h => (nomatch h.1.symm.trans (by decide +kernel : _ = (none : Option Nat)))⟩ <;> (try dsimp only [MayWrite, Issues, OnLink, OwnRange, OwnStore, Holds, UnitTakes, NoHold]) <;> decide +kernel
  · (try dsimp only [MayWrite, Issues, OnLink, OwnRange, OwnStore, Holds, UnitTakes, NoHold, NoWork, PinsFollow]) <;> decide +kernel
  · (try dsimp only [MayWrite, Issues, OnLink, OwnRange, OwnStore, Holds, UnitTakes, NoHold, NoWork, PinsFollow]) <;> decide +kernel
  · (try dsimp only [MayWrite, Issues, OnLink, OwnRange, OwnStore, Holds, UnitTakes, NoHold, NoWork, PinsFollow]) <;> decide +kernel
  · (try dsimp only [MayWrite, Issues, OnLink, OwnRange, OwnStore, Holds, UnitTakes, NoHold, NoWork, PinsFollow]) <;> decide +kernel

theorem meets_edrynTime :
    (let actor : Nat := 1
    let s : State := inst0 (timed (fun e => { e with slew := 1, res := 5, time := 3 }))
    let inst : Nat := 0
    let e : Edryn := s.edryn
    actorOk actor = true ∧
    actorOk (256 + inst) = true ∧
    s.instLive inst = true ∧
    s.instSealed inst = false ∧
    MayWrite s actor EDRYN.ADJ_FREQ.reg ∧
    MayWrite s actor EDRYN.ADJ_PHASE.reg ∧
    s.aonUp = true ∧
    e.slew ≠ 0 ∧
    e.slew.natAbs < slewTick (s.g EDRYN.ADJ_PHASE.RATE)) ∧
    (let s : State := timed (fun e => { e with time := 0x12345678 })
    let e : Edryn := s.edryn
    (e.slew = 0 ∨ slewTick (s.g EDRYN.ADJ_PHASE.RATE) ≤ e.slew.natAbs)) := by
  refine ⟨?_, ?_⟩ <;> (try dsimp only [MayWrite, Issues, OnLink, OwnRange, OwnStore, Holds, UnitTakes, NoHold, NoWork, PinsFollow]) <;> decide +kernel

theorem meets_edrynStepMoves :
    let s : State := timed (fun e => { e with time := 0x12345678 })
    let actor : Nat := 1
    MayWrite s actor EDRYN.STEP.reg ∧
    (∀ (n : Nat), n < 256 → s.trigArmed n = false) ∧
    s.beeline = [] ∧
    s.fdescs = [] ∧
    s.thread = [] := by
  try dsimp only [MayWrite, Issues, OnLink, OwnRange, OwnStore, Holds, UnitTakes, NoHold, NoWork, PinsFollow]
  decide +kernel

theorem meets_edrynServo :
    (let s : State := (timed (fun e => { e with clk := 2000 * 1500000 }))
    let actor : Nat := 1
    let v : Word := 0
    let acq : Bool := BitVec.getLsbD v 0
    s.edryn.acqFrom < 8 ∧
    MayWrite s actor EDRYN.SERVO_CTL.reg ∧
    (acq = false ∨ s.g EDRYN.SRC.REF_OK = 1) ∧
    MayWrite s actor EDRYN.BOUND.reg ∧
    s.aonUp = true ∧
    s.edryn.servoFired = false ∧
    s.edryn.servoClk + s.g EDRYN.SERVO_CTL.TIMEOUT * msClk ≤ s.edryn.clk) ∧
    (let s : State := (live.p EDRYN.TRACE.STATE 1)
    let actor : Nat := 1
    let v : Word := 1
    let acq : Bool := BitVec.getLsbD v 0
    s.edryn.acqFrom < 8 ∧
    MayWrite s actor EDRYN.SERVO_CTL.reg ∧
    acq = true ∧
    s.g EDRYN.SRC.REF_OK ≠ 1) ∧
    (let s : State := ((timed (fun e => { e with clk := 1500000, holdB0 := 9999 })).p EDRYN.TRACE.STATE 3).p EDRYN.BOUND.NS 100
    let st : Nat := s.g EDRYN.TRACE.STATE
    let k : Nat := s.edryn.holdK + 1
    s.edryn.acqFrom < 8 ∧
    st = 3 ∧
    s.edryn.holdClk + k * msClk ≤ s.edryn.clk) := by
  refine ⟨?_, ?_, ?_⟩ <;> (try dsimp only [MayWrite, Issues, OnLink, OwnRange, OwnStore, Holds, UnitTakes, NoHold, NoWork, PinsFollow]) <;> decide +kernel

theorem meets_edrynSources :
    (let s : State := (timed (fun e => { e with time := 65536 * 1000000000, clk := 1500000000 })).p EDRYN.UTC.LEAP 2 |>.p EDRYN.UTC.LEAP_AT 1
    let e : Edryn := s.edryn
    let lane : Nat := 7
    let pin : Nat := 0
    (s.g EDRYN.UTC.LEAP = 1 ∨ s.g EDRYN.UTC.LEAP = 2) ∧
    s.g EDRYN.UTC.LEAP_AT * 10 ^ 9 ≤ e.time / 65536 ∧
    s.aonUp = true ∧
    s.g EDRYN.SRC.ON_INTERNAL = 1 ∧
    e.trefClk + 1000 * msClk ≤ e.clk ∧
    lane < 8 ∧
    e.lastMeasSec < e.time / 65536 / 10 ^ 9 ∧
    pin < 2 ∧
    (tget 0 e.ppsClk pin = 0 ∨ tget 0 e.ppsClk pin - 1 + 500 * msClk ≤ e.clk)) ∧
    (let s : State := (timed (fun e => { e with clk := 7, ppsClk := [(1,8)] })).pb EDRYN.SRC.REF_OK true
    let pin : Nat := 1
    let e : Edryn := s.edryn
    s.g EDRYN.SRC.REF_OK = 1 ∧
    pin < 2 ∧
    tget 0 e.ppsClk pin ≠ 0 ∧
    e.clk < tget 0 e.ppsClk pin - 1 + 500 * msClk) ∧
    (let s : State := tod0
    let dur : Nat := 0
    let msg : Bytes := todMsg 7
    let frame : Bool := true
    s.g EDRYN.TOD_CTL.RX_EN = 1 ∧
    s.todCheck msg frame dur = 0 ∧
    tblWf (fun x => 0) s.hchan = true) ∧
    (let s : State := tod0
    let dur : Nat := 0
    let msg : Bytes := todMsg 7
    let frame : Bool := false
    s.g EDRYN.TOD_CTL.RX_EN = 1 ∧
    s.todCheck msg frame dur ≠ 0) ∧
    (let s : State := { (timed (fun e => { e with todDue := [(0, 9), (5, 10)] })).pb EDRYN.TOD_CTL.TX_EN true with ff := [(0, { Firefly.reset with cfg := { Firefly.reset.cfg with mode := 1, period := 10 ^ 9 * 65536 } })] }
    let e : Edryn := s.edryn
    let d : Nat × Nat := (0, 9)
    let r : List (Nat × Nat) := [(5, 10)]
    e.todDue = d :: r ∧
    d.fst ≤ e.clk ∧
    s.g EDRYN.TOD_CTL.TX_EN = 1 ∧
    (s.ffOut (s.g EDRYN.TOD_CTL.TX_FF)).cfg.mode = 1 ∧
    (s.ffOut (s.g EDRYN.TOD_CTL.TX_FF)).cfg.period = 10 ^ 9 * 65536) := by
  refine ⟨?_, ?_, ?_, ?_, ?_⟩ <;> (try dsimp only [MayWrite, Issues, OnLink, OwnRange, OwnStore, Holds, UnitTakes, NoHold, NoWork, PinsFollow]) <;> decide +kernel

theorem meets_edrynOutputs :
    (let s : State := (let s := linkUp (timed (fun e => { e with clk := 1500000, time := 99999999 })) 1; s.modLink 1 (fun k => { k with ptm := { k.ptm with open_ := true } }))
    let l : Nat := 1
    let e : Edryn := s.edryn
    let p : Ptm := (s.link l).ptm
    let n : Nat := 0
    let actor : Nat := 1
    let v : Word := 5
    let f : Firefly := s.ffOut n
    let c : FfCfg := have __src := s.ffRegs n;
      { mode := __src.mode, pol := __src.pol, period := getF v 47 0, phase := __src.phase, width := __src.width }
    p.open_ = true ∧
    e.clk ≤ p.reqClk + msClk ∧
    p.reqClk + msClk ≤ e.clk ∧
    n < 4 ∧
    MayWrite s actor (EDRYN.FF_CTL.reg n + 8) ∧
    f.cfg.runs = false ∧
    f.fallAt = none ∧
    c.ok = true) ∧
    (let s : State := { (timed (fun e => { e with time := 10 ^ 9 * 65536 })).p (EDRYN.FF_CTL.MODE 3) 1 |>.p (EDRYN.FF_WIDTH.WIDTH 3) 4 with ff := [(3, { Firefly.reset with cfg := { Firefly.reset.cfg with mode := 1, period := 16 * 65536, width := 4 } })] }
    let n : Nat := 3
    let actor : Nat := 1
    let f : Firefly := s.ffOut n
    let e : Edryn := s.edryn
    let due : Nat := ffNext f.cfg.period f.cfg.phase (max f.lastEdge f.skip + 1)
    n < 4 ∧
    MayWrite s actor (EDRYN.FF_CTL.reg n + 8) ∧
    (f.cfg.runs = true ∨ f.fallAt.isSome = true) ∧
    s.aonUp = true ∧
    f.fallAt = none ∧
    s.g EDRYN.TOD_CTL.TX_EN = 0 ∧
    f.waiting = [] ∧
    f.cfg.runs = true ∧
    due ≤ e.time) ∧
    (let s : State := { (timed (fun e => { e with time := 10 ^ 9 * 65536 })).p (EDRYN.FF_CTL.MODE 3) 1 |>.p (EDRYN.FF_WIDTH.WIDTH 3) 4 with ff := [(3, { Firefly.reset with cfg := { Firefly.reset.cfg with mode := 0, period := 16 * 65536, width := 4 }, waiting := [(0, { Firefly.reset.cfg with mode := 2, period := 32 * 65536, width := 8, phase := 65536 })] })] }
    let n : Nat := 3
    let actor : Nat := 1
    let v : Word := 7 * 65536
    let f : Firefly := s.ffOut n
    let c : FfCfg := have __src := s.ffRegs n;
      { mode := __src.mode, pol := __src.pol, period := getF v 47 0, phase := __src.phase, width := __src.width }
    let e : Edryn := s.edryn
    let due : Nat := ffNext f.cfg.period f.cfg.phase (max f.lastEdge f.skip + 1)
    let w : Nat × FfCfg := (0, { Firefly.reset.cfg with mode := 2, period := 32 * 65536, width := 8, phase := 65536 })
    let at_ : Nat := ffNext w.snd.period w.snd.phase (max (w.fst + 65536000) (max f.lastEdge f.skip + 1))
    n < 4 ∧
    MayWrite s actor (EDRYN.FF_CTL.reg n + 8) ∧
    f.cfg.runs = false ∧
    f.fallAt = none ∧
    c.ok = false ∧
    s.aonUp = true ∧
    s.g EDRYN.TOD_CTL.TX_EN = 0 ∧
    f.waiting = [w] ∧
    w.snd.runs = true ∧
    w.snd.ok = true ∧
    (f.cfg.runs = false ∨ at_ ≤ due) ∧
    at_ ≤ e.time) ∧
    (let s : State := inst0 (live.p EDRYN.UTC.OFFSET 37)
    let inst : Nat := 0
    let old : TimePage := tget TimePage.reset s.page inst
    s.instLive inst = true ∧
    { seq := 0, utc := old.utc, bound := old.bound, trace := old.trace, cls := old.cls, gm := old.gm, steps := old.steps,
      stepCount := old.stepCount, ptmHost := old.ptmHost, ptmTai := old.ptmTai, ptmFrac := old.ptmFrac,
      ptmValid := old.ptmValid, snap := 0 } ≠
      s.pageNow inst) ∧
    (let s : State := (let s := linkUp ((timed (fun e => { e with clk := 15000000, time := 99999999 })).pb (HOSTLINK.LINK_STAT.BME 1) true) 1; s.modLink 1 (fun k => { k with cfg := [(cfgPtm, 1)] }))
    let l : Nat := 1
    let e : Edryn := s.edryn
    let p : Ptm := (s.link l).ptm
    let iv : Nat := if s.g EDRYN.PTM_CTL.INTERVAL = 0 then 10 else s.g EDRYN.PTM_CTL.INTERVAL
    (s.link l).cfgGet cfgPtm = 1 ∧
    s.dlUp l = true ∧
    p.open_ = false ∧
    p.lastClk + iv * msClk ≤ e.clk ∧
    s.bme l = true) ∧
    (let s : State := timed (fun e => { e with time := 60 * 10 ^ 9 * 65536 })
    let e : Edryn := s.edryn
    s.aonUp = true ∧
    e.evLast < e.time / 65536 / (60 * 10 ^ 9)) ∧
    (let s : State := { (timed (fun e => { e with time := 10 ^ 9 * 65536 })).p (EDRYN.FF_CTL.MODE 3) 1 |>.p (EDRYN.FF_WIDTH.WIDTH 3) 4 with ff := [(3, { Firefly.reset with cfg := { Firefly.reset.cfg with mode := 1, period := 16 * 65536, width := 4 }, level := true, fallAt := some 30 })] }
    let n : Nat := 3
    let e : Edryn := s.edryn
    let f : Firefly := s.ffOut n
    let at_ : Nat := 30
    n < 4 ∧
    s.aonUp = true ∧
    f.fallAt = some at_ ∧
    at_ ≤ e.time) := by
  refine ⟨?_, ?_, ?_, ?_, ?_, ?_, ?_⟩ <;> (try dsimp only [MayWrite, Issues, OnLink, OwnRange, OwnStore, Holds, UnitTakes, NoHold, NoWork, PinsFollow]) <;> decide +kernel

theorem meets_trigComparators :
    (let s : State := ((timed (fun e => { e with time := 133 * 65536})).pb (TRIG.CTL.ARM 16) true).p (TRIG.TIME.NS 16) 101
    let actor : Nat := 1
    let n : Nat := 16
    let ti : Nat := s.g (TRIG.TIME.NS n)
    let p : Nat := s.g (TRIG.PERIOD.NS n)
    n < 256 ∧
    s.trigArmed n = true ∧
    s.trigEvaluates n = true ∧
    s.g (TRIG.CTL.ACTION n) = 0 ∧
    s.gb (TRIG.CTL.NOTIFY n) = false ∧
    ti ≤ s.ns ∧
    s.ns ≤ ti + 32 ∧
    (∀ (j : Nat), j < n → s.trigDue j = false) ∧
    ¬n ∈ s.trigLate ∧
    p = 0 ∧
    MayWrite s actor (TRIG.CTL.reg n)) ∧
    (let s : State := live.p (TRIG.TIME.NS 255) 1
    let actor : Nat := 1
    let n : Nat := 255
    let v : Word := 0x03
    let ti : Nat := s.g (TRIG.TIME.NS n)
    let p : Nat := s.g (TRIG.PERIOD.NS n)
    n < 256 ∧
    MayWrite s actor (TRIG.CTL.reg n) ∧
    s.trigArmed n = false ∧
    trigArgOk (getF v 15 8) (s.g (TRIG.ARG.ARG n)) = true ∧
    (p = 0 ∨ 1000 ≤ p) ∧
    s.ns < ti) ∧
    (let s : State := ((live.pb (TRIG.CTL.ARM 0) true).p (TRIG.CTL.ACTION 0) 7).p (TRIG.TIME.NS 0) 9
    let actor : Nat := 1
    let n : Nat := 0
    let v : Word := 0x700
    n < 256 ∧
    MayWrite s actor (TRIG.CTL.reg n) ∧
    s.trigArmed n = true ∧
    s.trigDue n = false ∧
    getF v 15 8 = s.g (TRIG.CTL.ACTION n)) := by
  refine ⟨?_, ?_, ?_⟩ <;> (try dsimp only [MayWrite, Issues, OnLink, OwnRange, OwnStore, Holds, UnitTakes, NoHold, NoWork, PinsFollow]) <;> decide +kernel

theorem meets_claimWords :
    (let s : State := live
    let actor : Nat := 1
    let a : Nat := 0x2100038
    let u : Nat := 0x2100000
    let i : UnitInfo := unitOf 0x2100000
    let own : Fld := claimOwner a
    actorOk actor = true ∧
    claimUnit a = some u ∧
    unitAt a = some i ∧
    (a - u < 64 ∨ s.domDown i.dom = false) ∧
    s.g own = 0 ∧
    s.g own ≠ actor ∧
    (actor = s.owner ∨ actor = 8192)) ∧
    (let s : State := live.p (UNIT.CLAIM.OWNER 0x2100000) 1
    let actor : Nat := 1
    let a : Nat := 0x2100038
    let u : Nat := 0x2100000
    let i : UnitInfo := unitOf 0x2100000
    let own : Fld := claimOwner a
    actorOk actor = true ∧
    claimUnit a = some u ∧
    unitAt a = some i ∧
    (a - u < 64 ∨ s.domDown i.dom = false) ∧
    s.g own = actor) ∧
    (let s : State := live.p (UNIT.CLAIM.OWNER 0x2100000) 2
    let actor : Nat := 1
    let a : Nat := 0x2100038
    let u : Nat := 0x2100000
    let i : UnitInfo := unitOf 0x2100000
    let own : Fld := claimOwner a
    actorOk actor = true ∧
    claimUnit a = some u ∧
    unitAt a = some i ∧
    (a - u < 64 ∨ s.domDown i.dom = false) ∧
    s.g own ≠ 0 ∧
    s.g own ≠ actor) := by
  refine ⟨?_, ?_, ?_⟩ <;> (try dsimp only [MayWrite, Issues, OnLink, OwnRange, OwnStore, Holds, UnitTakes, NoHold, NoWork, PinsFollow]) <;> decide +kernel

theorem meets_waggleSignals :
    (let s : State := live
    let actor : Nat := 0x8FF
    let w : Nat := 0
    let c : Nat := 2047
    let m : Nat := 0
    let k : Nat := chBlock w c
    w ≤ 12 ∧
    c < chCount w ∧
    m < 4 ∧
    actorOk actor = true ∧
    (s.gb (CH.CFG.SECURE k) = true → s.secure actor = true) ∧
    s.domDown (s.chDom w c) = false ∧
    s.noPage actor = true) ∧
    (let s : State := chEnds live 12 63 0x1000 1
    let actor : Nat := 0x1000
    let w : Nat := 12
    let c : Nat := 63
    let m : Nat := 3
    let k : Nat := chBlock w c
    let x : Nat := s.g (CH.STAT.FULL k)
    w ≤ 12 ∧
    c < chCount w ∧
    m < 4 ∧
    actorOk actor = true ∧
    (s.gb (CH.CFG.SECURE k) = true → s.secure actor = true) ∧
    s.domDown (s.chDom w c) = false ∧
    s.noPage actor = false ∧
    s.chEnd w c (mbByB m) = actor ∧
    tget 0 s.chOpen c = 0 ∧
    x.testBit m = false ∧
    (if mbByB m = true then s.gb (CH.CFG.A_EN k) else s.gb (CH.CFG.B_EN k)) = false) ∧
    (let s : State := (chEnds live 12 63 0x1000 1).p (CH.STAT.FULL (chBlock 12 63)) 15
    let actor : Nat := 0x1000
    let w : Nat := 12
    let c : Nat := 63
    let m : Nat := 0
    let k : Nat := chBlock w c
    let x : Nat := s.g (CH.STAT.FULL k)
    w ≤ 12 ∧
    c < chCount w ∧
    m < 4 ∧
    actorOk actor = true ∧
    (s.gb (CH.CFG.SECURE k) = true → s.secure actor = true) ∧
    s.domDown (s.chDom w c) = false ∧
    s.noPage actor = false ∧
    s.chEnd w c (mbByB m) = actor ∧
    tget 0 s.chOpen c = 0 ∧
    x.testBit m = true) ∧
    (let s : State := (chEnds live 12 63 0x1000 1).p (CH.STAT.FULL (chBlock 12 63)) 15
    let actor : Nat := 0x1000
    let w : Nat := 12
    let c : Nat := 63
    let m : Nat := 1
    let k : Nat := chBlock w c
    let x : Nat := s.g (CH.STAT.FULL k)
    w ≤ 12 ∧
    c < chCount w ∧
    m < 4 ∧
    actorOk actor = true ∧
    (s.gb (CH.CFG.SECURE k) = true → s.secure actor = true) ∧
    s.domDown (s.chDom w c) = false ∧
    s.noPage actor = false ∧
    (s.chEnd w c !mbByB m) = actor ∧
    x.testBit m = true) ∧
    (let s : State := (chEnds live 0 2111 2 1)
    let actor : Nat := 1
    let w : Nat := 0
    let c : Nat := 2111
    let m : Nat := 0
    let k : Nat := chBlock w c
    let x : Nat := s.g (CH.STAT.FULL k)
    w ≤ 12 ∧
    c < chCount w ∧
    m < 4 ∧
    actorOk actor = true ∧
    (s.gb (CH.CFG.SECURE k) = true → s.secure actor = true) ∧
    s.domDown (s.chDom w c) = false ∧
    s.noPage actor = false ∧
    (s.chEnd w c !mbByB m) = actor ∧
    x.testBit m = false) ∧
    (let s : State := { (chEnds (timed (fun e => { e with clk := 1500000 * 10 })) 1 0 0x1000 0x1001).p (CH.STAT.FULL (chBlock 1 0)) 5 with thread := [(0, { Thread.reset with state := thWfe }), (1, { Thread.reset with state := thWfe })] }
    let actor : Nat := 1
    let w : Nat := 1
    let c : Nat := 0
    let m : Nat := 0
    let k : Nat := chBlock w c
    w ≤ 12 ∧
    c < chCount w ∧
    m < 4 ∧
    actorOk actor = true ∧
    (s.gb (CH.CFG.SECURE k) = true → s.secure actor = true) ∧
    s.domDown (s.chDom w c) = false ∧
    s.crossed w c = true ∧
    isThread (s.chEnd w c false) = true ∧
    isThread (s.chEnd w c true) = true) ∧
    (let s : State := (live.pb (WAGGLE.DB_CFG.EN 0 255) true)
    let actor : Nat := 1
    let n : Nat := 255
    let v : Word := 1
    let w : Nat := 0
    let o : Nat := s.g (WAGGLE.LOCK.OWNER w n)
    actorOk actor = true ∧
    n < 256 ∧
    BitVec.getLsbD v 0 = true ∧
    s.permits actor UType.waggle = true ∧
    s.gb (WAGGLE.DB_CFG.EN 0 n) = true ∧
    w ≤ 12 ∧
    n < lockCount w ∧
    (w = 0 ∨ s.domDown (13 + w) = false) ∧
    o = 0 ∧
    o ≠ actor ∧
    (actor = s.owner ∨ actor = 8192)) ∧
    (let s : State := live.setReg (WAGGLE.LOCK.reg 12 63) 0x2000
    let actor : Nat := 0x2000
    let w : Nat := 12
    let n : Nat := 63
    let v : Word := 1
    let o : Nat := s.g (WAGGLE.LOCK.OWNER w n)
    actorOk actor = true ∧
    1 ≤ w ∧
    w ≤ 12 ∧
    n < 1024 ∧
    BitVec.getLsbD v 0 = true ∧
    s.permits actor UType.waggle = true ∧
    s.domDown (13 + w) = false ∧
    n < lockCount w ∧
    (w = 0 ∨ s.domDown (13 + w) = false) ∧
    o ≠ 0 ∧
    o = actor) ∧
    (let s : State := (live.pb (WAGGLE.DB_CFG.EN 0 255) true)
    let actor : Nat := 0x100
    let n : Nat := 255
    actorOk actor = true ∧
    n < 256 ∧
    s.permits actor UType.waggle = false) := by
  refine ⟨?_, ?_, ?_, ?_, ?_, ?_, ?_, ?_, ?_⟩ <;> (try dsimp only [MayWrite, Issues, OnLink, OwnRange, OwnStore, Holds, UnitTakes, NoHold, NoWork, PinsFollow]) <;> decide +kernel

theorem meets_tapPort :
    (let s : State := (timed (fun e => { e with time := 999999 * 65536 })).p (TAP.STATUS.HOLDER 0x2100000) 1
    let actor : Nat := 1
    let u : Nat := 0x2100000
    let i : UnitInfo := unitOf 0x2100000
    let k : Nat := 7
    actorOk actor = true ∧
    unitInfo u = some i ∧
    hasTap i.type = true ∧
    s.domDown i.dom = false ∧
    s.permits actor i.type = true ∧
    (s.tapHolder u = 0 ∨ s.tapHolder u = actor) ∧
    k < 8 ∧
    s.tapHolder u = actor ∧
    s.gb (TAP.STATUS.BUSY u) = false ∧
    s.tapHolder u ≠ 0 ∧
    tget 0 s.tapClk u + 1000000 ≤ s.ns + 1) ∧
    (let s : State := live.p (TAP.STATUS.HOLDER 0x2100000) 2
    let actor : Nat := 1
    let u : Nat := 0x2100000
    let i : UnitInfo := unitOf 0x2100000
    actorOk actor = true ∧
    unitInfo u = some i ∧
    hasTap i.type = true ∧
    s.domDown i.dom = false ∧
    s.permits actor i.type = true ∧
    s.tapHolder u ≠ 0 ∧
    s.tapHolder u ≠ actor) ∧
    (let s : State := { (live.p (TAP.STATUS.HOLDER 0x2100000) 1).pb (TAP.STATUS.BUSY 0x2100000) true with tapBusy := [(0x2100000, ⟨1, 6, 0, 1, 0, 7⟩)] }
    let actor : Nat := 1
    let u : Nat := 0x2100000
    let i : UnitInfo := unitOf 0x2100000
    let b : TapBusy := ⟨1, 6, 0, 1, 0, 7⟩
    actorOk actor = true ∧
    unitInfo u = some i ∧
    hasTap i.type = true ∧
    s.domDown i.dom = false ∧
    s.permits actor i.type = true ∧
    List.find? (fun e => e.fst == u) s.tapBusy = some (u, b) ∧
    (b.op = 0 ∨ 4 < b.op)) ∧
    (let s : State := { (live.p (TAP.STATUS.HOLDER 0x2100000) 1).pb (TAP.STATUS.BUSY 0x2100000) true with tapBusy := [(0x2100000, ⟨1, 2, 0, 0, 15, 7⟩)] }
    let actor : Nat := 1
    let u : Nat := 0x2100000
    let i : UnitInfo := unitOf 0x2100000
    let b : TapBusy := ⟨1, 2, 0, 0, 15, 7⟩
    actorOk actor = true ∧
    unitInfo u = some i ∧
    hasTap i.type = true ∧
    s.domDown i.dom = false ∧
    s.permits actor i.type = true ∧
    List.find? (fun e => e.fst == u) s.tapBusy = some (u, b) ∧
    b.op = 2) ∧
    (let s : State := { (live.p (TAP.STATUS.HOLDER 0x2100000) 1).pb (TAP.STATUS.BUSY 0x2100000) true with tapBusy := [(0x2100000, ⟨1, 1, 0, 1, 15, 7⟩)] }
    let actor : Nat := 1
    let u : Nat := 0x2100000
    let i : UnitInfo := unitOf 0x2100000
    let b : TapBusy := ⟨1, 1, 0, 1, 15, 7⟩
    let s' : State := { s with tapBusy := tdel s.tapBusy u }
    let x : TapRes := s'.tapDo b.actor i TapOp.read b.table b.index b.chunk b.data
    actorOk actor = true ∧
    unitInfo u = some i ∧
    hasTap i.type = true ∧
    s.domDown i.dom = false ∧
    s.permits actor i.type = true ∧
    List.find? (fun e => e.fst == u) s.tapBusy = some (u, b) ∧
    b.op = 1 ∧
    x.status ≠ 0) ∧
    (let s : State := { (live.p (TAP.STATUS.HOLDER 0x2100000) 1).pb (TAP.STATUS.BUSY 0x2100000) true with tapBusy := [(0x2100000, ⟨1, 3, 0, 0, 0, 7⟩)] }
    let actor : Nat := 1
    let u : Nat := 0x2100000
    let i : UnitInfo := unitOf 0x2100000
    let b : TapBusy := ⟨1, 3, 0, 0, 0, 7⟩
    actorOk actor = true ∧
    unitInfo u = some i ∧
    hasTap i.type = true ∧
    s.domDown i.dom = false ∧
    s.permits actor i.type = true ∧
    List.find? (fun e => e.fst == u) s.tapBusy = some (u, b) ∧
    b.op = 3) ∧
    (let s : State := { (live.p (TAP.STATUS.HOLDER 0x2100000) 1).pb (TAP.STATUS.BUSY 0x2100000) true with tapBusy := [(0x2100000, ⟨1, 4, 0, 0, 0, 7⟩)] }
    let actor : Nat := 1
    let u : Nat := 0x2100000
    let i : UnitInfo := unitOf 0x2100000
    let b : TapBusy := ⟨1, 4, 0, 0, 0, 7⟩
    actorOk actor = true ∧
    unitInfo u = some i ∧
    hasTap i.type = true ∧
    s.domDown i.dom = false ∧
    s.permits actor i.type = true ∧
    List.find? (fun e => e.fst == u) s.tapBusy = some (u, b) ∧
    b.op = 4) ∧
    (let s : State := { (live.p (TAP.STATUS.HOLDER 0x2100000) 1).pb (TAP.STATUS.BUSY 0x2100000) true with tapBusy := [(0x2100000, ⟨1, 1, 0, 0, 0, 7⟩)] }
    let actor : Nat := 1
    let u : Nat := 0x2100000
    let i : UnitInfo := unitOf 0x2100000
    let b : TapBusy := ⟨1, 1, 0, 0, 0, 7⟩
    let s' : State := { s with tapBusy := tdel s.tapBusy u }
    let x : TapRes := s'.tapDo b.actor i TapOp.read b.table b.index b.chunk b.data
    actorOk actor = true ∧
    unitInfo u = some i ∧
    hasTap i.type = true ∧
    s.domDown i.dom = false ∧
    s.permits actor i.type = true ∧
    List.find? (fun e => e.fst == u) s.tapBusy = some (u, b) ∧
    b.op = 1 ∧
    x.status = 0) := by
  refine ⟨?_, ?_, ?_, ?_, ?_, ?_, ?_, ?_⟩ <;> (try dsimp only [MayWrite, Issues, OnLink, OwnRange, OwnStore, Holds, UnitTakes, NoHold, NoWork, PinsFollow]) <;> decide +kernel

theorem meets_trigControl :
    (let s : State := ((live.pb (TRIG.CTL.ARM 0) true).p (TRIG.CTL.ACTION 0) 7).p (TRIG.TIME.NS 0) 9
    let actor : Nat := 1
    let n : Nat := 0
    n < 256 ∧
    MayWrite s actor (TRIG.CTL.reg n) ∧
    s.trigArmed n = true ∧
    s.trigDue n = false) ∧
    (let s : State := live.p (TRIG.TIME.NS 255) 1
    let actor : Nat := 1
    let n : Nat := 255
    let v : Word := 0x03
    let p : Nat := s.g (TRIG.PERIOD.NS n)
    let ok : Prop := trigArgOk (getF v 15 8) (s.g (TRIG.ARG.ARG n)) = true ∧ (p = 0 ∨ 1000 ≤ p)
    n < 256 ∧
    MayWrite s actor (TRIG.CTL.reg n) ∧
    s.trigArmed n = false ∧
    ok ∧
    s.ns < s.g (TRIG.TIME.NS n)) ∧
    (let s : State := live.p (TRIG.TIME.NS 255) 1
    let actor : Nat := 1
    let n : Nat := 255
    let v : Word := 0x803
    let p : Nat := s.g (TRIG.PERIOD.NS n)
    let ok : Prop := trigArgOk (getF v 15 8) (s.g (TRIG.ARG.ARG n)) = true ∧ (p = 0 ∨ 1000 ≤ p)
    n < 256 ∧
    MayWrite s actor (TRIG.CTL.reg n) ∧
    s.trigArmed n = false ∧
    ¬ok) := by
  refine ⟨?_, ?_, ?_⟩ <;> (try dsimp only [MayWrite, Issues, OnLink, OwnRange, OwnStore, Holds, UnitTakes, NoHold, NoWork, PinsFollow]) <;> decide +kernel

theorem meets_mailboxStores :
    (let s : State := chEnds live 12 63 0x1000 1
    let actor : Nat := 0x1000
    let w : Nat := 12
    let c : Nat := 63
    let m : Nat := 3
    let k : Nat := chBlock w c
    let full : Bool := (s.g (CH.STAT.FULL k)).testBit m
    w ≤ 12 ∧
    c < chCount w ∧
    m < 4 ∧
    actorOk actor = true ∧
    s.noPage actor = false ∧
    s.chEnd w c (mbByB m) = actor ∧
    (s.gb (CH.CFG.SECURE k) = true → s.secure actor = true) ∧
    s.domDown (s.chDom w c) = false ∧
    full = false) ∧
    (let s : State := (chEnds live 12 63 0x1000 1).p (CH.STAT.FULL (chBlock 12 63)) 15
    let actor : Nat := 0x1000
    let w : Nat := 12
    let c : Nat := 63
    let m : Nat := 3
    let k : Nat := chBlock w c
    let full : Bool := (s.g (CH.STAT.FULL k)).testBit m
    w ≤ 12 ∧
    c < chCount w ∧
    m < 4 ∧
    actorOk actor = true ∧
    s.noPage actor = false ∧
    s.chEnd w c (mbByB m) = actor ∧
    (s.gb (CH.CFG.SECURE k) = true → s.secure actor = true) ∧
    s.domDown (s.chDom w c) = false ∧
    full = true) := by
  refine ⟨?_, ?_⟩ <;> (try dsimp only [MayWrite, Issues, OnLink, OwnRange, OwnStore, Holds, UnitTakes, NoHold, NoWork, PinsFollow]) <;> decide +kernel

theorem meets_powerVotes :
    (let s : State := live
    let actor : Nat := 1
    let v : Word := 0x1F319
    let d : Nat := getF v 7 0
    let calm : Prop := d = 1 → s.dbWait = [] ∧ s.trigLate = [] ∧ s.trigOwed = []
    let mayOff : Prop := getF v 15 0 = 20294 ∧ (actor = s.owner ∨ actor = 8193)
    MayWrite s actor PWR.VOTE.reg ∧
    d ≤ 25 ∧
    getF v 11 8 ≤ 3 ∧
    calm ∧
    MayWrite s actor PWR.OFF.reg ∧
    ¬mayOff) ∧
    (let s : State := live
    let actor : Nat := 1
    let v : Word := 0x4F46
    let d : Nat := getF v 7 0
    let deep : Prop := ∀ (e : Nat), 1 ≤ e → e ≤ 25 → s.domState e = 3
    let mayOff : Prop := getF v 15 0 = 20294 ∧ (actor = s.owner ∨ actor = 8193)
    MayWrite s actor PWR.VOTE.reg ∧
    (25 < d ∨ 3 < getF v 11 8) ∧
    MayWrite s actor PWR.OFF.reg ∧
    mayOff ∧
    ¬deep) ∧
    (let s : State := (List.range 25).foldl (fun s k => s.p (PWR.DOM_STAT.STATE (k + 1)) 3) live
    let actor : Nat := 1
    let v : Word := 0x4F46
    let deep : Prop := ∀ (e : Nat), 1 ≤ e → e ≤ 25 → s.domState e = 3
    let mayOff : Prop := getF v 15 0 = 20294 ∧ (actor = s.owner ∨ actor = 8193)
    MayWrite s actor PWR.OFF.reg ∧
    mayOff ∧
    deep) := by
  refine ⟨?_, ?_, ?_⟩
  · (try dsimp only [MayWrite, Issues, OnLink, OwnRange, OwnStore, Holds, UnitTakes, NoHold, NoWork, PinsFollow]) <;> decide +kernel
  · refine ⟨?_, ?_, ?_, ?_, fun h => absurd (h 1 (by decide) (by decide)) (by decide +kernel)⟩ <;> (try dsimp only [MayWrite, Issues, OnLink, OwnRange, OwnStore, Holds, UnitTakes, NoHold]) <;> decide +kernel
  · refine ⟨?_, ?_, fun e h1 h2 => (by decide +kernel : ∀ e ≤ 25, 1 ≤ e → State.domState _ e = 3) e h2 h1⟩ <;> (try dsimp only [MayWrite, Issues, OnLink, OwnRange, OwnStore, Holds, UnitTakes, NoHold]) <;> decide +kernel

theorem meets_powerMoves :
    (let s : State := { (live) with votes := [(25 * 32, ⟨1, 1, 0⟩)] }.p (PWR.DOM_STAT.HOLDS 25) 0
    let d : Nat := 25
    let st : Nat := s.domState d
    let actor : Nat := 1
    1 ≤ d ∧
    d ≤ 25 ∧
    st = 0 ∧
    s.targetOf d = 1 ∧
    s.g (PWR.DOM_STAT.XFER d) = 0 ∧
    s.domBusy d = false ∧
    s.domRuns d = false ∧
    MayWrite s actor (PWR.DOM_CTL.reg d) ∧
    st ≠ 11) ∧
    (let s : State := { (((live).p (PWR.DOM_STAT.STATE 25) 8).p (PWR.DOM_STAT.STEP 25) 1) with votes := [(25 * 32, ⟨2, 1, 0⟩)] }.p (PWR.DOM_STAT.HOLDS 25) 0
    let d : Nat := 25
    let st : Nat := s.domState d
    let k : Nat := s.g (PWR.DOM_STAT.STEP d)
    1 ≤ d ∧
    d ≤ 25 ∧
    st = 8 ∧
    2 ≤ s.targetOf d ∧
    s.portsOn d = [] ∧
    k = 1 ∧
    s.g (PWR.DOM_STAT.XFER d) = 0 ∧
    s.domBusy d = false) ∧
    (let s : State := { (((live).p (PWR.DOM_STAT.STATE 25) 8).p (PWR.DOM_STAT.STEP 25) 2) with votes := [(25 * 32, ⟨2, 1, 0⟩)] }.p (PWR.DOM_STAT.HOLDS 25) 0
    let d : Nat := 25
    let st : Nat := s.domState d
    let k : Nat := s.g (PWR.DOM_STAT.STEP d)
    1 ≤ d ∧
    d ≤ 25 ∧
    st = 8 ∧
    2 ≤ s.targetOf d ∧
    s.portsOn d = [] ∧
    k = 2) ∧
    (let s : State := { (((timed (fun e => { e with clk := 1500 })).p (PWR.DOM_STAT.STATE 25) 8).p (PWR.DOM_STAT.STEP 25) 3) with votes := [(25 * 32, ⟨2, 1, 0⟩)] }.p (PWR.DOM_STAT.HOLDS 25) 0
    let d : Nat := 25
    let st : Nat := s.domState d
    let k : Nat := s.g (PWR.DOM_STAT.STEP d)
    let us : Nat := s.since (s.domx d).stepClk
    1 ≤ d ∧
    d ≤ 25 ∧
    st = 8 ∧
    2 ≤ s.targetOf d ∧
    s.portsOn d = [] ∧
    k = 3 ∧
    1000 ≤ us ∧
    s.targetOf d = 2) ∧
    (let s : State := { (((timed (fun e => { e with clk := 1500 })).p (PWR.DOM_STAT.STATE 25) 8).p (PWR.DOM_STAT.STEP 25) 3) with votes := [(25 * 32, ⟨3, 1, 0⟩)] }.p (PWR.DOM_STAT.HOLDS 25) 0
    let d : Nat := 25
    let st : Nat := s.domState d
    let k : Nat := s.g (PWR.DOM_STAT.STEP d)
    let us : Nat := s.since (s.domx d).stepClk
    1 ≤ d ∧
    d ≤ 25 ∧
    st = 8 ∧
    2 ≤ s.targetOf d ∧
    s.portsOn d = [] ∧
    k = 3 ∧
    1000 ≤ us ∧
    s.targetOf d = 3) ∧
    (let s : State := { (((timed (fun e => { e with clk := 3000 })).p (PWR.DOM_STAT.STATE 25) 8).p (PWR.DOM_STAT.STEP 25) 4) with votes := [(25 * 32, ⟨3, 1, 0⟩)] }.p (PWR.DOM_STAT.HOLDS 25) 0
    let d : Nat := 25
    let st : Nat := s.domState d
    let k : Nat := s.g (PWR.DOM_STAT.STEP d)
    let us : Nat := s.since (s.domx d).stepClk
    1 ≤ d ∧
    d ≤ 25 ∧
    st = 8 ∧
    2 ≤ s.targetOf d ∧
    s.portsOn d = [] ∧
    k = 4 ∧
    2000 ≤ us ∧
    s.targetOf d = 3) ∧
    (let s : State := ((timed (fun e => { e with clk := 3000 })).p (PWR.DOM_STAT.STATE 25) 9).p (PWR.DOM_STAT.STEP 25) 1
    let d : Nat := 25
    let st : Nat := s.domState d
    let k : Nat := s.g (PWR.DOM_STAT.STEP d)
    let us : Nat := s.since (s.domx d).stepClk
    1 ≤ d ∧
    d ≤ 25 ∧
    st = 9 ∧
    s.nextWake d k false ≠ 0 ∧
    (wakeDelay d k).fst * 1000 ≤ us ∧
    (k = 3 ∨ us ≤ (wakeDelay d k).snd * 1000)) ∧
    (let s : State := ((timed (fun e => { e with clk := 15000000 })).p (PWR.DOM_STAT.STATE 25) 10).p (PWR.DOM_STAT.STEP 25) 0
    let d : Nat := 25
    let st : Nat := s.domState d
    1 ≤ d ∧
    d ≤ 25 ∧
    st = 10 ∧
    10000000 ≤ s.since (s.domx d).failClk) ∧
    (let s : State := ((timed (fun e => { e with clk := 15000000 })).p (PWR.DOM_STAT.STATE 25) 11).p (PWR.DOM_STAT.STEP 25) 0
    let actor : Nat := 1
    let d : Nat := 25
    let st : Nat := s.domState d
    1 ≤ d ∧
    d ≤ 25 ∧
    MayWrite s actor (PWR.DOM_CTL.reg d) ∧
    st = 11) ∧
    (let s : State := (((timed (fun e => { e with clk := 15000000 })).p (PWR.DOM_STAT.STATE 25) 9).p (PWR.DOM_STAT.STEP 25) 1).p (FWC.SRC.THRESH 3) 2
    let d : Nat := 25
    let k : Nat := s.g (PWR.DOM_STAT.STEP d)
    1 ≤ d ∧
    d ≤ 25 ∧
    s.domState d = 9 ∧
    k ≠ 3 ∧
    (wakeDelay d k).snd * 1000 ≤ s.since (s.domx d).stepClk ∧
    (s.domx d).byRetry = false ∧
    2 ≤ s.g (FWC.SRC.THRESH 3) ∧
    tget FaultWin.reset s.fwc (fwcKey 3 d) = FaultWin.reset) := by
  refine ⟨?_, ?_, ?_, ?_, ?_, ?_, ?_, ?_, ?_, ?_⟩ <;> (try dsimp only [MayWrite, Issues, OnLink, OwnRange, OwnStore, Holds, UnitTakes, NoHold, NoWork, PinsFollow]) <;> decide +kernel

theorem meets_powerRails :
    (let s : State := { live with trust := { live.trust with phase := 4 } }
    let k : Nat := 0
    let tj : Int := 0
    let warn : Int := 16 * ↑(s.g PIN.THERM.WARN)
    s.trust.phase = 4 ∧
    k < 8 ∧
    bit s.pins.pgReset k = false ∧
    s.inService KEEPER.base = true ∧
    tj < warn ∧
    tj < 2000) ∧
    (let s : State := live
    let k : Nat := 7
    let on : Prop := s.trust.phase ≠ 4 ∧ s.trust.phase ≠ 5
    let tj : Int := 2000
    k = 7 ∧
    bit s.pins.regPg k = true ∧
    on ∧
    s.noder = [] ∧
    s.aboveDeep 12 = true ∧
    s.aboveDeep 13 = true ∧
    2000 ≤ tj) ∧
    (let s : State := live
    let k : Nat := 2
    let on : Prop := s.trust.phase ≠ 4 ∧ s.trust.phase ≠ 5
    k < 3 ∧
    bit s.pins.regPg k = true ∧
    on) ∧
    (let s : State := live
    let tj : Int := 1999
    let warn : Int := 16 * ↑(s.g PIN.THERM.WARN)
    warn ≤ tj ∧
    tj < 2000) := by
  refine ⟨?_, ?_, ?_, ?_⟩ <;> (try dsimp only [MayWrite, Issues, OnLink, OwnRange, OwnStore, Holds, UnitTakes, NoHold, NoWork, PinsFollow]) <;> decide +kernel

theorem meets_bootSequence :
    (let s : State := phased 0
    let on : Prop := s.trust.phase ≠ 4 ∧ s.trust.phase ≠ 5
    let k : Nat := 0
    let sb : Nat := 7
    let sh : Nat := 3
    let a : Bytes := []
    let b : Bytes := []
    let tests : Bool := false
    let good : Nat → Prop := fun r => ∀ (j : Nat), j = 1 ∨ j = 2 → j = r ∨ bit s.pins.regPg j = true
    let starts : Instr → Prop := fun c =>
      c = Instr.sysResetRelease sb sh a b tests ∧ s.trust.phase = 0 ∧ s.pins.pgReset = 0 ∧ good 0 ∨
      c = Instr.offWakeRelease sb sh a b tests ∧ s.trust.phase = 5 ∧ bit s.pins.regPg 0 = true ∧ good 0 ∨
      c = Instr.regPgRestore k sb sh a b tests ∧
      k < 3 ∧
      bit s.pins.pgReset k = true ∧
      setBits s.pins.pgReset k k 0 = 0 ∧ s.pins.sysRstN = true ∧ s.trust.phase = 0 ∧ good k
    let c : Instr := .sysResetRelease sb sh a b tests
    on ∧
    starts c) ∧
    (let s : State := phased 1
    s.trust.phase = 1) ∧
    (let s : State := phased 3
    let actor : Nat := 1
    let v : Word := 1
    MayWrite s actor KEEPER.RECOVER.reg ∧
    BitVec.getLsbD v 0 = true ∧
    s.trust.phase = 3) := by
  refine ⟨?_, ?_, ?_⟩
  · exact ⟨by decide, .inl ⟨rfl, by decide, by decide, fun j h => h.elim (fun e => e ▸ .inr (by decide)) (fun e => e ▸ .inr (by decide))⟩⟩
  · (try dsimp only [MayWrite, Issues, OnLink, OwnRange, OwnStore, Holds, UnitTakes, NoHold, NoWork, PinsFollow]) <;> decide +kernel
  · (try dsimp only [MayWrite, Issues, OnLink, OwnRange, OwnStore, Holds, UnitTakes, NoHold, NoWork, PinsFollow]) <;> decide +kernel

theorem meets_trustPorts :
    (let s : State := live.modTrust (fun t => { t with words := [(5,1)] })
    let addr : Nat := EDRYN.ADJ_FREQ.reg
    let wide : Bool := true
    let debug : Bool := bit (s.chitin 5) 0
    let x : RdRes × State := s.regRead 8194 addr wide
    let w : Nat := 0
    s.keeperUp = true ∧
    aligned addr wide = true ∧
    debug = true ∧
    x.fst = RdRes.val w) ∧
    (let s : State := live
    let debug : Bool := bit (s.chitin 5) 0
    let op : Nat := 3
    debug = false ∧
    (op = 3 ∨ op = 4)) := by
  refine ⟨?_, ?_⟩ <;> (try dsimp only [MayWrite, Issues, OnLink, OwnRange, OwnStore, Holds, UnitTakes, NoHold, NoWork, PinsFollow]) <;> decide +kernel

theorem meets_registerAccess :
    (let s : State := (linkUp live 0).pb (HOSTLINK.LINK_STAT.MSE 0) true
    let actor : Nat := 1
    let a : Nat := SCARAB.SLOT_SEL.reg
    let u : UnitInfo := ((regAt a).getD (⟨0, .root, 0, 0, 0, 0⟩, ⟨0, 0, 0, []⟩, 0)).1
    let r : RegDesc := ((regAt a).getD (⟨0, .root, 0, 0, 0, 0⟩, ⟨0, 0, 0, []⟩, 0)).2.1
    let i : Nat := ((regAt a).getD (⟨0, .root, 0, 0, 0, 0⟩, ⟨0, 0, 0, []⟩, 0)).2.2
    let l : Nat := 0
    let off : Nat := 8
    let be : List Bool := List.replicate 8 true
    let data : Bytes := [1,2,3,4,5,6,7,8]
    regAt a = some (u, r, i) ∧
    a % 8 = 0 ∧
    (u.type ∈ [UType.parse, UType.sched, UType.beeline] ∨
      u.type = UType.flow ∧ r.off ≠ 64 ∧ r.off ≠ 112 ∨
      u.type = UType.fwc ∧ r.off ≠ 64 ∨
      u.type = UType.hostlink ∧ ¬r.off ∈ [72, 120, 128] ∨ u.type = UType.scarab ∧ ¬r.off ∈ [96, 120, 136, 144]) ∧
    ¬a ∈ derivedRegs ∧
    64 ≤ a - u.base ∧
    inTap u (a - u.base) = false ∧
    MayWrite s actor a ∧
    isInst actor = false ∧
    OnLink s l ∧
    s.takesMem l = true ∧
    actor = l + 1 ∧
    a < 2 ^ 29 ∧
    off < 2 ^ 29 ∧
    off % 8 = 0 ∧
    List.length data = 8 ∧
    be = List.replicate 8 true) ∧
    (let s : State := (linkUp live 0).pb (HOSTLINK.LINK_STAT.MSE 0) true
    let l : Nat := 0
    let off : Nat := EDRYN.ADJ_FREQ.reg
    let be : List Bool := [true,false,true,true]
    let data : Bytes := [1,2,3,4]
    let len : Nat := 2
    OnLink s l ∧
    s.takesMem l = true ∧
    List.length data = 4 ∧
    be.length = 4 ∧
    be.any id = true ∧
    be.all id = false ∧
    off % 4 = 0 ∧
    (len ≠ 4 ∧ len ≠ 8 ∨ off % len ≠ 0)) ∧
    (let s : State := live
    let actor : Nat := 1
    let a : Nat := ROOT.DROPPED_WRITES.reg
    let u : UnitInfo := ((regAt a).getD (⟨0, .root, 0, 0, 0, 0⟩, ⟨0, 0, 0, []⟩, 0)).1
    let r : RegDesc := ((regAt a).getD (⟨0, .root, 0, 0, 0, 0⟩, ⟨0, 0, 0, []⟩, 0)).2.1
    let i : Nat := ((regAt a).getD (⟨0, .root, 0, 0, 0, 0⟩, ⟨0, 0, 0, []⟩, 0)).2.2
    regAt a = some (u, r, i) ∧
    a % 8 = 0 ∧
    64 ≤ a - u.base ∧
    inChan u (a - u.base) = false ∧
    s.domDown u.dom = false ∧
    (r.fields.any fun f => f.acc == Acc.rc) = true ∧
    actorOk actor = true ∧
    isInst actor = false) ∧
    (let s : State := (linkUp live 0).pb (HOSTLINK.LINK_STAT.MSE 0) true
    let l : Nat := 0
    let off : Nat := EDRYN.ADJ_FREQ.reg
    let len : Nat := 8
    let w : Nat := 0
    OnLink s l ∧
    s.takesMem l = true ∧
    (len = 4 ∨ len = 8) ∧
    off % len = 0 ∧
    off < 2 ^ 29 ∧
    s.regRead (l + 1) off (len == 8) = (RdRes.val w, s)) := by
  refine ⟨?_, ?_, ?_, ?_⟩ <;> (try dsimp only [MayWrite, Issues, OnLink, OwnRange, OwnStore, Holds, UnitTakes, NoHold, NoWork, PinsFollow]) <;> decide +kernel

theorem meets_serviceStates :
    (let s : State := (live).p (UNIT.SVC.CUR 0x2100000) 1 |>.p (UNIT.SVC.REQ 0x2100000) 2
    let actor : Nat := 1
    let u : Nat := 0x2100000
    let req : Nat := 0
    let i : UnitInfo := unitOf 0x2100000
    NoWork s ∧
    unitInfo u = some i ∧
    childBases u = [] ∧
    actorOk actor = true ∧
    req < 16 ∧
    s.svcRefused actor i req = false ∧
    s.domDown i.dom = false ∧
    i.type ≠ UType.hive ∧
    i.type ≠ UType.port ∧
    s.ownCur u = 1 ∧
    req = 0 ∧
    s.unitBusy i = false ∧
    i.type ≠ UType.keeper) ∧
    (let s : State := { (live).p (UNIT.SVC.CUR 0x2100000) 4 |>.p (UNIT.SVC.REQ 0x2100000) 3 with svc := [(0x2100000, 5)] }
    let u : Nat := 0x2100000
    let i : UnitInfo := unitOf 0x2100000
    NoWork s ∧
    unitInfo u = some i ∧
    childBases u = [] ∧
    s.ownCur u = 4 ∧
    s.svcTag u / 4 = 1 ∧
    s.domUp i.dom = true ∧
    s.unitReq u = 3 ∧
    i.type ≠ UType.hive ∧
    i.type ≠ UType.port ∧
    i.type ≠ UType.keeper) ∧
    (let s : State := live
    let actor : Nat := 1
    let u : Nat := 0x2100000
    let req : Nat := 2
    let i : UnitInfo := unitOf 0x2100000
    NoWork s ∧
    unitInfo u = some i ∧
    childBases u = [] ∧
    actorOk actor = true ∧
    req < 16 ∧
    s.svcRefused actor i req = false ∧
    s.domDown i.dom = false ∧
    i.type ≠ UType.hive ∧
    i.type ≠ UType.port ∧
    s.ownCur u = 0 ∧
    (req = 2 ∨ req = 3)) ∧
    (let s : State := live
    let actor : Nat := 1
    let u : Nat := 0x2100000
    let req : Nat := 1
    let i : UnitInfo := unitOf 0x2100000
    NoWork s ∧
    unitInfo u = some i ∧
    childBases u = [] ∧
    actorOk actor = true ∧
    req < 16 ∧
    s.svcRefused actor i req = true) ∧
    (let s : State := { (live).p (UNIT.SVC.CUR 0x2100000) 2 with svc := [(0x2100000, 9)] }
    let u : Nat := 0x2100000
    let i : UnitInfo := unitOf 0x2100000
    NoWork s ∧
    unitInfo u = some i ∧
    childBases u = [] ∧
    s.ownCur u = 2 ∧
    s.svcTag u / 4 = 2 ∧
    (i.type ≠ UType.port ∨ s.gb (PORT.STAT.LINK i.inst) = false ∧ s.trains i.inst = false)) := by
  refine ⟨?_, ?_, ?_, ?_, ?_⟩ <;> (try dsimp only [MayWrite, Issues, OnLink, OwnRange, OwnStore, Holds, UnitTakes, NoHold, NoWork, PinsFollow]) <;> decide +kernel

theorem meets_unitEvents :
    (let s : State := live.setReg (UNIT.EVT.reg 0x1000000) 0xFFFFFFFFFFFFFFFF |>.setReg (UNIT.EVT.reg 0x1010000) 0xFFFFFFFFFFFFFFFF
    let actor : Nat := 1
    let u : Nat := 0x1000000
    let i : UnitInfo := unitOf 0x1000000
    let l : Nat := 3
    let v : Word := 0xFFFF
    let w : Word := v ||| 8192
    let dev : Nat := HOSTLINK.DEV_EVT.reg l
    unitInfo u = some i ∧
    actorOk actor = true ∧
    s.permits actor i.type = true ∧
    l < 4 ∧
    MayWrite s actor dev ∧
    s.devCond = true ∧
    BitVec.getLsbD w 12 = true) ∧
    (let s : State := live
    let actor : Nat := 2
    let u : Nat := 0x1000000
    let i : UnitInfo := unitOf 0x1000000
    unitInfo u = some i ∧
    actorOk actor = true ∧
    s.permits actor i.type = false) ∧
    (let s : State := live
    let actor : Nat := 1
    let u : Nat := 0x1000000
    let l : Nat := 3
    let i : UnitInfo := unitOf 0x1000000
    let dev : Nat := HOSTLINK.DEV_EVT.reg l
    unitInfo u = some i ∧
    l < 4 ∧
    MayWrite s actor dev ∧
    s.devCond = false) := by
  refine ⟨?_, ?_, ?_⟩ <;> (try dsimp only [MayWrite, Issues, OnLink, OwnRange, OwnStore, Holds, UnitTakes, NoHold, NoWork, PinsFollow]) <;> decide +kernel

theorem meets_hiveUpdate :
    (let s : State := (live).p (UNIT.SVC.CUR (HIVE.base 0)) 1 |>.modTrust (fun t => { t with words := [(3, 0xFFFFFFFFFFFFFFFF)] })
    let actor : Nat := 0x1000
    let h : Nat := 0
    let u : Nat := HIVE.base h
    h < 12 ∧
    NoWork s ∧
    MayWrite s actor (HIVE.MIGRATE.reg h) ∧
    actor = 4096 + 64 * h ∧
    s.ownCur u = 1) ∧
    (let s : State := live
    let actor : Nat := 1
    let h : Nat := 0
    h < 12 ∧
    NoWork s ∧
    MayWrite s actor (HIVE.MIGRATE.reg h) ∧
    actor ≠ 4096 + 64 * h) ∧
    (let s : State := ((((timed (fun e => { e with clk := 20 * 1500000 }))).p (UNIT.SVC.CUR (HIVE.base 0)) 1).p (UNIT.SVC.REQ (HIVE.base 0)) 2).p (HIVE.MIGRATE.TIMEOUT_MS 0) 20
    let h : Nat := 0
    let u : Nat := HIVE.base h
    h < 12 ∧
    NoWork s ∧
    s.ownCur u = 1 ∧
    s.unitReq u = 2 ∧
    (s.hv h).done = false ∧
    (s.hv h).held = [] ∧
    (s.hv h).quiClk + s.g (HIVE.MIGRATE.TIMEOUT_MS h) * msClk ≤ s.edryn.clk) ∧
    (let s : State := ((live).p (UNIT.SVC.CUR (HIVE.base 0)) 3).modHv 0 (fun v => { v with staged := [(0, 5)] })
    let h : Nat := 0
    let u : Nat := HIVE.base h
    let img : Bytes := stagedBytes (s.hv h).staged
    h < 12 ∧
    NoWork s ∧
    s.ownCur u = 3 ∧
    (s.hv h).staged ≠ [] ∧
    (s.hv h).checked = 0 ∧
    s.serviceReason img [2] ≠ 0) := by
  refine ⟨?_, ?_, ?_, ?_⟩ <;> (try dsimp only [MayWrite, Issues, OnLink, OwnRange, OwnStore, Holds, UnitTakes, NoHold, NoWork, PinsFollow]) <;> decide +kernel

theorem meets_hiveThreads :
    (let s : State := timed (fun e => { e with clk := 9000 })
    let actor : Nat := 1
    let th : Nat := 767
    let entry : Nat := 0x7FFFC
    let h : Nat := th / 64
    let v : Thread := s.th th
    let now : Nat := s.edryn.clk
    th < 768 ∧
    actorOk actor = true ∧
    s.domDown (14 + h) = false ∧
    s.threadActor actor h = true ∧
    s.claimAllows (UNIT.CLAIM.reg (HIVE.base h)) actor = true ∧
    (isThread actor = true → s.secThread th = true → s.secure actor = true) ∧
    v.state = 0 ∧
    entry % 4 = 0 ∧
    v.state ≠ 2 ∧
    s.domUp (14 + h) = true ∧
    (s.hv h).stalled = false ∧
    s.stallNow h = true ∧
    s.stallSince h + cyc 2048 ≤ now ∧
    s.debugs th = false) ∧
    (let s : State := (timed (fun e => { e with clk := 9000 })).setTh 767 { Thread.reset with state := 2, timer := 1 }
    let actor : Nat := 1
    let th : Nat := 767
    let h : Nat := th / 64
    let v : Thread := s.th th
    th < 768 ∧
    actorOk actor = true ∧
    s.domDown (14 + h) = false ∧
    s.threadActor actor h = true ∧
    s.claimAllows (UNIT.CLAIM.reg (HIVE.base h)) actor = true ∧
    (isThread actor = true → s.secThread th = true → s.secure actor = true) ∧
    v.state ≠ 0 ∧
    v.state = 2) ∧
    (let s : State := ((timed (fun e => { e with clk := 9000 })).modTrust (fun t => { t with words := [(5, 3)] })).setTh 3 { Thread.reset with state := 1 }
    let th : Nat := 4
    let l : List Nat := [3, 3]
    th < 768 ∧
    (∀ (x : Nat), x ∈ l → x < 768 ∧ s.debugs x = true)) ∧
    (let s : State := timed (fun e => { e with clk := 9000 })
    let actor : Nat := 1
    let th : Nat := 767
    let entry : Nat := 2
    let h : Nat := th / 64
    let v : Thread := s.th th
    th < 768 ∧
    actorOk actor = true ∧
    s.domDown (14 + h) = false ∧
    s.threadActor actor h = true ∧
    s.claimAllows (UNIT.CLAIM.reg (HIVE.base h)) actor = true ∧
    (isThread actor = true → s.secThread th = true → s.secure actor = true) ∧
    v.state = 0 ∧
    entry % 4 ≠ 0) ∧
    (let s : State := (timed (fun e => { e with clk := 9000, time := 65536 })).setTh 767 { Thread.reset with state := 3, timer := 1, mask := 1 }
    let th : Nat := 767
    let v : Thread := s.th th
    th < 768 ∧
    v.timer ≠ 0 ∧
    v.timer ≤ s.ns) := by
  refine ⟨?_, ?_, ?_, ?_, ?_⟩ <;> (try dsimp only [MayWrite, Issues, OnLink, OwnRange, OwnStore, Holds, UnitTakes, NoHold, NoWork, PinsFollow]) <;> decide +kernel

theorem meets_instanceCommands :
    (let s : State := { (((live).wi 2047 IR.state 2).wi 2047 IR.refRing 1) with instCmd := [] }
    let actor : Nat := 1
    let i : Nat := 2047
    let r : BitVec 1024 := s.staged i
    let us : Nat := 1
    i < 2048 ∧
    MayWrite s actor INST.CMD.reg ∧
    s.instRunning i = false ∧
    s.instState i ≠ 0 ∧
    (s.instState i = 1 ∨ s.instState i = 2) ∧
    quotasOk r = true ∧
    (quotaUse.any fun q => decide (rget r q.fst < s.ri i q.snd)) = false ∧
    0 < us ∧
    us < 2 ^ 32 ∧
    s.named i = 0 ∧
    2 ≤ s.instState i ∧
    (s.instCmdOf i).squash = false ∧
    s.refsZero i = false ∧
    (s.instCmdOf i).deadline ≤ s.ns ∧
    NoWork s ∧
    s.sreqs = [] ∧
    s.wqx = [] ∧
    s.descs = [] ∧
    s.chRec = []) ∧
    (let s : State := ((live).wi 2047 IR.state 2).p (INST.CMD_STATUS.STATE 2047) 1
    let actor : Nat := 1
    let i : Nat := 2047
    i < 2048 ∧
    MayWrite s actor INST.CMD.reg ∧
    s.instRunning i = true ∧
    2 ≤ s.instState i ∧
    s.refsZero i = true ∧
    ((s.link (s.linkOf i)).held.any fun p => p.inst == i) = false) ∧
    (let s : State := { (live) with instStaged := [(2047, (rput (rput (rput (rput (0 : BitVec 1024) IR.nwq 4096) IR.ncr 1) IR.nleaf 1) IR.nint 2048))] }
    let actor : Nat := 1
    let i : Nat := 2047
    let r : BitVec 1024 := s.staged i
    let w : Nat := 0
    let c : Nat := 0
    let n : Nat := 0
    let f : Nat := 0
    i < 2048 ∧
    MayWrite s actor INST.CMD.reg ∧
    s.instRunning i = false ∧
    s.instState i = 0 ∧
    s.createOk r = true ∧
    lowestBase (s.ranges IR.wqBase IR.nwq) wqPool (rget r IR.nwq) = some w ∧
    lowestBase (s.ranges IR.crBase IR.ncr) crPool (rget r IR.ncr) = some c ∧
    lowestBase (s.ranges IR.intBase IR.nint) intPool (rget r IR.nint) = some n ∧
    lowestBase (s.ranges IR.leafBase IR.nleaf) leafPool (rget r IR.nleaf) = some f) ∧
    (let s : State := { ((live).wi 2047 IR.state 1) with flows := [(7, rput (rput (rput (0 : BitVec 2048) FC.state 1) FC.owner 5) (FC.act 0) (0x10C + 2047 * 65536))] }
    let actor : Nat := 1
    let i : Nat := 2047
    let us : Nat := 4294967295
    i < 2048 ∧
    MayWrite s actor INST.CMD.reg ∧
    s.instRunning i = false ∧
    s.instState i ≠ 0 ∧
    0 < us ∧
    us < 2 ^ 32 ∧
    s.named i ≠ 0) := by
  refine ⟨?_, ?_, ?_, ?_⟩ <;> (try dsimp only [MayWrite, Issues, OnLink, OwnRange, OwnStore, Holds, UnitTakes, NoHold, NoWork, PinsFollow]) <;> decide +kernel

theorem meets_linkResets :
    (let s : State := linked 0 [(HOSTLINK.LINK_STAT.PERST 0, 0), (HOSTLINK.LINK_STAT.SPEED 0, 5)]
    let l : Nat := 0
    let perst : Bool := s.gb (HOSTLINK.LINK_STAT.PERST l)
    let up : Prop := s.dlUp l = true
    let actor : Nat := 1
    let v : Word := 1
    OnLink s l ∧
    (s.link l).reads = [] ∧
    (s.link l).waitRd = [] ∧
    (s.link l).held = [] ∧
    s.instsOn l = [] ∧
    perst = false ∧
    (s.link l).convReset = 0 ∧
    s.trained l = true ∧
    up ∧
    MayWrite s actor HOSTIF.SEAL_RELEASE.reg ∧
    v = BitVec.ofNat 64 (2 ^ l) ∧
    (isPf actor = false ∨ s.sealed l = false ∨ s.dlUp l = false)) ∧
    (let s : State := { live.modTrust (fun t => { t with words := [(4, 0)] }) with links := [] }
    let l : Nat := 0
    let perst : Bool := s.gb (HOSTLINK.LINK_STAT.PERST l)
    let actor : Nat := 2
    let v : Word := 1
    OnLink s l ∧
    (s.link l).reads = [] ∧
    (s.link l).waitRd = [] ∧
    (s.link l).held = [] ∧
    s.instsOn l = [] ∧
    perst = true ∧
    actorOk actor = true ∧
    s.permits actor UType.hostif = false ∧
    v = BitVec.ofNat 64 (2 ^ l)) ∧
    (let s : State := (live.p (HOSTLINK.LINK_STAT.SPEED 0) 3).p (HOSTLINK.LINK_STAT.PERST 0) 0
    let l : Nat := 0
    let perst : Bool := s.gb (HOSTLINK.LINK_STAT.PERST l)
    let rates : Nat := 0x3E
    let widths : Nat := 0x1F
    let speed : Nat := 5
    let w : Nat := 4
    let flit : Bool := false
    OnLink s l ∧
    (s.link l).reads = [] ∧
    (s.link l).waitRd = [] ∧
    (s.link l).held = [] ∧
    s.instsOn l = [] ∧
    s.dlUp l = false ∧
    perst = false ∧
    s.trained l = true ∧
    s.domUp (linkDom l) = true ∧
    1 ≤ speed ∧
    speed ≤ (if flit = true then 6 else 5) ∧
    bit rates speed = true ∧
    (∀ (r : Nat), speed < r → (r ≤ if flit = true then 6 else 5) → bit rates r = false) ∧
    w ≤ (if s.trust.strapHost % 2 = 0 then 4 else 3) ∧
    bit widths w = true ∧
    (∀ (x : Nat), w < x → (x ≤ if s.trust.strapHost % 2 = 0 then 4 else 3) → bit widths x = false)) ∧
    (let s : State := linked 0 [(HOSTLINK.LINK_STAT.PERST 0, 0), (HOSTLINK.LINK_STAT.SPEED 0, 5), (HOSTLINK.SEAL.SEALED 0, 1), (HOSTLINK.SEAL.EXTRA 0, 255), (HOSTLINK.SEAL.CAUSE 0, 2)]
    let actor : Nat := 1
    let l : Nat := 0
    let v : Word := 1
    let up : Prop := s.dlUp l = true
    OnLink s l ∧
    (s.link l).reads = [] ∧
    (s.link l).waitRd = [] ∧
    (s.link l).held = [] ∧
    s.instsOn l = [] ∧
    MayWrite s actor HOSTIF.SEAL_RELEASE.reg ∧
    v = BitVec.ofNat 64 (2 ^ l) ∧
    isPf actor = true ∧
    s.sealed l = true ∧
    up) := by
  refine ⟨?_, ?_, ?_, ?_⟩
  · (try dsimp only [MayWrite, Issues, OnLink, OwnRange, OwnStore, Holds, UnitTakes, NoHold, NoWork, PinsFollow]) <;> decide +kernel
  · (try dsimp only [MayWrite, Issues, OnLink, OwnRange, OwnStore, Holds, UnitTakes, NoHold, NoWork, PinsFollow]) <;> decide +kernel
  · refine ⟨?_, ?_, ?_, ?_, ?_, ?_, ?_, ?_, ?_, ?_, ?_, ?_, fun r h1 h2 => absurd h1 (Nat.not_lt.mpr h2), ?_, ?_, fun r h1 h2 => absurd h1 (Nat.not_lt.mpr (Nat.le_trans h2 (by decide +kernel)))⟩ <;> (try dsimp only [MayWrite, Issues, OnLink, OwnRange, OwnStore, Holds, UnitTakes, NoHold]) <;> decide +kernel
  · (try dsimp only [MayWrite, Issues, OnLink, OwnRange, OwnStore, Holds, UnitTakes, NoHold, NoWork, PinsFollow]) <;> decide +kernel

theorem meets_linkReads :
    (let s : State := { (linked 0 []).modLink 0 (fun k => { k with reads := [(1023, ⟨3, 4, 0x7C, 4, [], 7, none, 0, false⟩)], quar := [(5, 0)] }) with jobs := [(3, ⟨.data 1 5, 7, 0, 2, [0,0,0,0,0,0,0,0], 0⟩)] }
    let l : Nat := 0
    let tag : Nat := 5
    let e : Nat := 0
    OnLink s l ∧
    (s.link l).waitRd = [] ∧
    s.bme l = false ∧
    s.dlUp l = true ∧
    (s.link l).held = [] ∧
    List.find? (fun e => e.fst == tag) (s.link l).reads = none ∧
    tag < 1024 ∧
    List.find? (fun x => x.fst == tag) (s.link l).quar = some (tag, e) ∧
    e ≤ s.edryn.clk) ∧
    (let s : State := { (let s := linked 0 []; { s with edryn := { s.edryn with clk := 100000000 * 1500 } }).modLink 0 (fun k => { k with reads := [(1023, ⟨3, 4, 0x7C, 4, [], 7, none, 0, false⟩)], quar := [(5, 0)] }) with jobs := [(3, ⟨.data 1 5, 7, 0, 2, [0,0,0,0,0,0,0,0], 0⟩)] }
    let l : Nat := 0
    let tag : Nat := 1023
    let bc : Nat := 4
    let la : Nat := 0x7C
    let data : Bytes := [1,2,3,4]
    let r : HostRead := ⟨3, 4, 0x7C, 4, [], 7, none, 0, false⟩
    let job : DmaJob := ⟨.data 1 5, 7, 0, 2, [0,0,0,0,0,0,0,0], 0⟩
    let ms : Nat := s.g (HOSTLINK.CPL_TO.MS l)
    OnLink s l ∧
    (s.link l).waitRd = [] ∧
    List.find? (fun e => e.fst == tag) (s.link l).reads = some (tag, r) ∧
    r.dead = false ∧
    List.find? (fun e => e.fst == r.job) s.jobs = some (r.job, job) ∧
    2 ≤ job.left ∧
    s.dlUp l = true ∧
    bc = r.len - List.length r.got ∧
    la = (r.addr + List.length r.got) % 128 ∧
    data ≠ [] ∧
    List.length data ≤ bc ∧
    ms * 1000000 ≤ s.since r.sent ∧
    s.gb (HOSTLINK.CPL_TO.SEAL_ON_TO l) = false) ∧
    (let s : State := rings (linked 0 [(HOSTLINK.LINK_STAT.BME 0, 1)]) [] []
    let l : Nat := 0
    OnLink s l ∧
    (s.link l).waitRd = [] ∧
    s.bme l = true) := by
  refine ⟨?_, ?_, ?_⟩ <;> (try dsimp only [MayWrite, Issues, OnLink, OwnRange, OwnStore, Holds, UnitTakes, NoHold, NoWork, PinsFollow]) <;> decide +kernel

theorem meets_linkRequests :
    (let s : State := (rings (linkUp live 0) [] []).modLink 0 (fun k => { k with xlReqs := [(3, ⟨7, 0x1000, false, false, 0, []⟩)] })
    let l : Nat := 0
    let actor : Nat := 1
    let w : Word := 1
    let off : Nat := 0x10000
    let tag : Nat := 3
    let log2 : Nat := 12
    let rd : Bool := true
    let wt : Bool := true
    let x : XlReq := ⟨7, 0x1000, false, false, 0, []⟩
    let i : Nat := 7
    let m : Nat := s.linkOf i
    OnLink s l ∧
    s.dlUp l = true ∧
    (s.link l).waitRd = [] ∧
    (s.link l).held = [] ∧
    s.cfgNormal = true ∧
    MayWrite s actor (HOSTLINK.PEERWIN_COMMIT.reg l) ∧
    BitVec.getLsbD w 0 = true ∧
    (∀ (k : Nat), k < 64 → rget (s.shadowWin l k) PW.en = 0) ∧
    65536 ≤ off ∧
    off < 1073741824 ∧
    s.takesMem l = false ∧
    (s.link l).inval.length < 32 ∧
    List.find? (fun e => e.fst == tag) (s.link l).xlReqs = some (tag, x) ∧
    x.overtaken log2 = false ∧
    (if x.write = true then wt else rd) = true ∧
    12 ≤ log2 ∧
    log2 ≤ 30 ∧
    s.xl.length < 32768 ∧
    tag < 1024 ∧
    i < 2048 ∧
    m = l) ∧
    (let s : State := { (linkUp live 0).modTrust (fun t => { t with words := [(7, 1)] }) with peerWin := [(0, (rput (rput (rput (rput (rput (0 : BitVec 192) PW.en 1) PW.wr 1) PW.base 1) PW.log2 12) PW.kind 0))], rsvSize := [(0, 16)] }.pb (HOSTLINK.LINK_STAT.MSE 0) true
    let l : Nat := 0
    let rid : Nat := 5
    let off : Nat := 0x10000
    let data : Bytes := [1,2,3]
    let k : Nat := 0
    let h : Nat := 0
    let a : Nat := 0
    let len : Nat := 4
    OnLink s l ∧
    s.dlUp l = true ∧
    (s.link l).waitRd = [] ∧
    (s.link l).held = [] ∧
    65536 ≤ off ∧
    off < 1073741824 ∧
    s.takesMem l = true ∧
    s.pwHit l rid off (List.length data) false true = some (k, h, a) ∧
    s.pwHit l rid off len false false = none ∧
    rid < 2 ^ 16) ∧
    (let s : State := (linkUp State.reset 0)
    let l : Nat := 0
    OnLink s l ∧
    s.dlUp l = true ∧
    (s.link l).waitRd = [] ∧
    (s.link l).held = [] ∧
    s.cfgNormal = false) ∧
    (let s : State := (linkUp live 0).modLink 0 (fun k => { k with inval := [⟨4, []⟩] })
    let l : Nat := 0
    let q : AtsInv := ⟨4, []⟩
    OnLink s l ∧
    s.dlUp l = true ∧
    (s.link l).waitRd = [] ∧
    (s.link l).held = [] ∧
    List.find? (fun q => !q.tags.any fun t => (tkeys (s.link l).reads).contains t) (s.link l).inval = some q) ∧
    (let s : State := ((rings (linkUp live 0) [] []).pb (HOSTLINK.LINK_STAT.BME 0) true).modLink 0 (fun k => { k with probes := [(0, 5, 3, 0)] })
    let l : Nat := 0
    let p : Nat × Nat × Nat × Nat := (0, 5, 3, 0)
    let ps : List (Nat × Nat × Nat × Nat) := []
    OnLink s l ∧
    s.dlUp l = true ∧
    (s.link l).waitRd = [] ∧
    (s.link l).held = [] ∧
    (s.link l).probes = p :: ps) := by
  refine ⟨?_, ?_, ?_, ?_, ?_⟩ <;> (try dsimp only [MayWrite, Issues, OnLink, OwnRange, OwnStore, Holds, UnitTakes, NoHold, NoWork, PinsFollow]) <;> decide +kernel

theorem meets_ringDoorbells :
    (let s : State := (rings (live) [(WQ.state, 1)] [(CR.state, 1), (CR.log2, 6), (CR.prod, 9), (CR.shadowed, 9), (CR.cons, 4)])
    let i : Nat := 7
    let k : Nat := 0
    let p : Nat := 5
    let w : Nat := s.ri i IR.wqBase + k
    let runs : Prop := s.instState i = 1 ∧ (s.wqState w = 1 ∨ s.wqState w = 2)
    let v : Word := 9
    let d : Nat := s.ri i IR.crBase + k
    let cons : Nat := s.crg d CR.cons
    let n : Nat := getF v 31 0
    i < 2048 ∧
    s.instLive i = true ∧
    s.instSealed i = false ∧
    s.domState 1 = 0 ∧
    s.dbWait = [] ∧
    s.xfer = [] ∧
    k < s.ri i IR.nwq ∧
    k < 4096 ∧
    p < 2 ^ 32 ∧
    ¬runs ∧
    k < s.ri i IR.ncr ∧
    k < 2048 ∧
    BitVec.getLsbD v 32 = false ∧
    sub32 n cons ≤ sub32 (s.crg d CR.prod) cons ∧
    (s.cra d).waiters = [] ∧
    s.crFree d ≠ 0 ∧
    (∀ (x : Nat), x ∈ s.boundWqs d → s.wqState x ≠ 4) ∧
    s.shadowDue d = false) ∧
    (let s : State := (rings (live) [(WQ.state, 1), (WQ.log2, 6), (WQ.retire, 0xFFFFFFC0), (WQ.prod, 0xFFFFFFC0)] [(CR.state, 1), (CR.log2, 6), (CR.prod, 9), (CR.shadowed, 9), (CR.cons, 4)])
    let i : Nat := 7
    let k : Nat := 1
    let p : Nat := 0
    let w : Nat := s.ri i IR.wqBase + k
    let c : Nat := s.wqCr w
    let r : Nat := s.wqg w WQ.retire
    let runs : Prop := s.instState i = 1 ∧ (s.wqState w = 1 ∨ s.wqState w = 2)
    let inRange : Prop := sub32 (s.wqg w WQ.prod) r ≤ sub32 p r ∧ sub32 p r ≤ 2 ^ s.wqg w WQ.log2
    i < 2048 ∧
    s.instLive i = true ∧
    s.instSealed i = false ∧
    s.domState 1 = 0 ∧
    s.dbWait = [] ∧
    s.xfer = [] ∧
    k < s.ri i IR.nwq ∧
    k < 4096 ∧
    p < 2 ^ 32 ∧
    runs ∧
    inRange ∧
    (s.cra c).waiters = [] ∧
    s.crFree c ≠ 0) ∧
    (let s : State := (rings (live) [(WQ.state, 1), (WQ.log2, 6), (WQ.retire, 0xFFFFFFC0), (WQ.prod, 0xFFFFFFC0)] [(CR.state, 1), (CR.log2, 6), (CR.prod, 9), (CR.shadowed, 9), (CR.cons, 4)])
    let i : Nat := 7
    let k : Nat := 1
    let p : Nat := 1
    let w : Nat := s.ri i IR.wqBase + k
    let c : Nat := s.wqCr w
    let r : Nat := s.wqg w WQ.retire
    let runs : Prop := s.instState i = 1 ∧ (s.wqState w = 1 ∨ s.wqState w = 2)
    let inRange : Prop := sub32 (s.wqg w WQ.prod) r ≤ sub32 p r ∧ sub32 p r ≤ 2 ^ s.wqg w WQ.log2
    i < 2048 ∧
    s.instLive i = true ∧
    s.instSealed i = false ∧
    s.domState 1 = 0 ∧
    s.dbWait = [] ∧
    s.xfer = [] ∧
    k < s.ri i IR.nwq ∧
    k < 4096 ∧
    p < 2 ^ 32 ∧
    runs ∧
    ¬inRange ∧
    s.crg c CR.intMode = 0) ∧
    (let s : State := (rings (live) [(WQ.state, 1)] [(CR.state, 1), (CR.log2, 6), (CR.prod, 9), (CR.shadowed, 9), (CR.cons, 4)])
    let i : Nat := 7
    let k : Nat := 0
    let v : Word := 10
    let d : Nat := s.ri i IR.crBase + k
    let cons : Nat := s.crg d CR.cons
    let n : Nat := getF v 31 0
    i < 2048 ∧
    s.instLive i = true ∧
    s.instSealed i = false ∧
    s.domState 1 = 0 ∧
    s.dbWait = [] ∧
    s.xfer = [] ∧
    k < s.ri i IR.ncr ∧
    k < 2048 ∧
    BitVec.getLsbD v 32 = false ∧
    sub32 (s.crg d CR.prod) cons < sub32 n cons) := by
  refine ⟨?_, ?_, ?_, ?_⟩ <;> (try dsimp only [MayWrite, Issues, OnLink, OwnRange, OwnStore, Holds, UnitTakes, NoHold, NoWork, PinsFollow]) <;> decide +kernel

theorem meets_ringWork :
    (let s : State := let e : Ent := ⟨5, rput (rput 0 EN.opcode 1) RX.len 64, 0, [], 0⟩; ((rings (live) [(WQ.state, 1), (WQ.log2, 6), (WQ.type, 1), (WQ.prod, 64)] [(CR.state, 1), (CR.log2, 6), (CR.prod, 9), (CR.shadowed, 9), (CR.cons, 4)])).setWqa 1 { WqAux.reset with ents := [e] }
    let w : Nat := 1
    let n : Nat := 0
    let i : Nat := s.wqInst w
    let q : Nat := s.wqCr w
    let f : Nat := s.wqg w WQ.fetch
    let k : Nat := min (min (max n 1) (sub32 (s.wqg w WQ.prod) f)) (s.crFree q)
    let e : Ent := ⟨5, rput (rput 0 EN.opcode 1) RX.len 64, 0, [], 0⟩
    s.wqInst w < 2048 ∧
    s.instSealed (s.wqInst w) = false ∧
    s.atsOn i = false ∧
    s.instActive i = true ∧
    s.wqg w WQ.state = 1 ∧
    s.ringTakes = true ∧
    (s.wqa w).granted = 0 ∧
    (s.cra q).waiters = [] ∧
    s.crFree q ≠ 0 ∧
    k ≠ 0 ∧
    (List.any s.jobs fun x =>
      match x.snd.use with
      | DmaUse.fetch y index n => y == w
      | x => false) =
      false ∧
    s.wqg w WQ.type = 1 ∧
    s.nextEnt w = some e ∧
    rxEntReason e.raw = 0 ∧
    s.ringRuns = true ∧
    (∀ (x : Nat), x ∈ s.boundWqs q → s.wqState x ≠ 4) ∧
    s.shadowDue q = false) ∧
    (let s : State := ((rings (((linkUp (timed (fun e => { e with clk := 150 })) 0).pb (HOSTLINK.LINK_STAT.BME 0) true)) [(WQ.state, 1), (WQ.log2, 6), (WQ.type, 1), (WQ.prod, 64)] [(CR.state, 1), (CR.log2, 6), (CR.prod, 9), (CR.coalNs, 100)])).setCra 0 { CrAux.reset with oldest := 1 }
    let w : Nat := 1
    let c : Nat := 0
    s.wqInst w < 2048 ∧
    s.instSealed (s.wqInst w) = false ∧
    s.crInst c < 2048 ∧
    s.instSealed (s.crInst c) = false ∧
    s.crg c CR.coalNs ≠ 0 ∧
    (s.cra c).oldest ≠ 0 ∧
    s.crg c CR.prod ≠ s.crg c CR.shadowed ∧
    s.crg c CR.coalNs ≤ s.since ((s.cra c).oldest - 1) ∧
    s.crg c CR.intMode = 0 ∧
    s.bme (s.linkOf (s.crInst c)) = true ∧
    s.atsOn (s.crInst c) = false ∧
    (s.link (s.linkOf (s.crInst c))).held = [] ∧
    s.domState 3 = 0 ∧
    s.domState 4 = 0) := by
  refine ⟨?_, ?_⟩ <;> (try dsimp only [MayWrite, Issues, OnLink, OwnRange, OwnStore, Holds, UnitTakes, NoHold, NoWork, PinsFollow]) <;> decide +kernel

theorem meets_ringCommands :
    (let s : State := (rings (live) [(WQ.state, 1), (WQ.log2, 20), (WQ.prod, 7), (WQ.retire, 7), (WQ.fetch, 7)] [(CR.state, 1), (CR.log2, 6), (CR.prod, 9), (CR.shadowed, 9), (CR.cons, 4)])
    let actor : Nat := 1
    let n : Nat := 1
    n < 2 ^ 17 ∧
    MayWrite s actor RING.CMD.reg ∧
    isInst actor = false ∧
    s.wqInst n < 2048 ∧
    s.instActive (s.wqInst n) = true ∧
    s.wqState n ≠ 0 ∧
    s.wqState n = 1 ∧
    (s.wqa n).ents = [] ∧
    s.wqg n WQ.retire = s.wqg n WQ.prod ∧
    s.wqg n WQ.fetch = s.wqg n WQ.prod ∧
    s.jobs = []) ∧
    (let s : State := (rings (live) [(WQ.state, 0)] [(CR.state, 1), (CR.log2, 6)])
    let actor : Nat := 0x107
    let n : Nat := 1
    let i : Nat := 7
    let k : Nat := 2
    n < 2 ^ 17 ∧
    i < 2048 ∧
    k < 4096 ∧
    actor = 256 + i ∧
    s.instLive i = true ∧
    s.instSealed i = false ∧
    s.domState 1 = 0 ∧
    s.dbWait = [] ∧
    s.xfer = []) ∧
    (let s : State := (rings (live) [(WQ.state, 0), (WQ.log2, 6)] [(CR.state, 1), (CR.log2, 6), (CR.prod, 9), (CR.shadowed, 9), (CR.cons, 4)])
    let actor : Nat := 1
    let n : Nat := 1
    n < 2 ^ 17 ∧
    MayWrite s actor RING.CMD.reg ∧
    isInst actor = false ∧
    s.wqInst n < 2048 ∧
    s.instActive (s.wqInst n) = true ∧
    s.wqState n = 0 ∧
    s.wqValid n = true ∧
    s.crState (s.wqCr n) = 1 ∧
    (s.wqState n = 0 ∨ s.wqState n = 5)) ∧
    (let s : State := (rings (live) [(WQ.state, 0)] [(CR.state, 0), (CR.log2, 20)])
    let actor : Nat := 1
    let n : Nat := 0
    n < 2 ^ 17 ∧
    MayWrite s actor RING.CMD.reg ∧
    isInst actor = false ∧
    s.crInst n < 2048 ∧
    s.instActive (s.crInst n) = true ∧
    s.crState n = 0 ∧
    s.crValid n = true) ∧
    (let s : State := (rings (live) [(WQ.state, 0)] [(CR.state, 5), (CR.log2, 20), (CR.prod, 7)]).wqp 0 WQ.cr 1 |>.wqp 1 WQ.cr 1
    let actor : Nat := 1
    let n : Nat := 0
    n < 2 ^ 17 ∧
    MayWrite s actor RING.CMD.reg ∧
    isInst actor = false ∧
    s.crInst n < 2048 ∧
    s.instActive (s.crInst n) = true ∧
    (s.crState n = 0 ∨ s.crState n = 5) ∧
    s.boundWqs n = []) ∧
    (let s : State := (rings (live) [(WQ.state, 0), (WQ.cr, 1)] [(CR.state, 1), (CR.log2, 6)]).wqp 0 WQ.cr 1
    let actor : Nat := 1
    let n : Nat := 0
    n < 2 ^ 17 ∧
    MayWrite s actor RING.CMD.reg ∧
    isInst actor = false ∧
    s.crInst n < 2048 ∧
    s.instActive (s.crInst n) = true ∧
    s.crState n = 1 ∧
    s.boundWqs n = [] ∧
    s.crg n CR.prod = s.crg n CR.shadowed) := by
  refine ⟨?_, ?_, ?_, ?_, ?_, ?_⟩ <;> (try dsimp only [MayWrite, Issues, OnLink, OwnRange, OwnStore, Holds, UnitTakes, NoHold, NoWork, PinsFollow]) <;> decide +kernel

theorem meets_portModes :
    (let s : State := live
    let actor : Nat := 1
    let p : Nat := 7
    let v : Word := 0x17
    let m : Nat := getF v 3 0
    let lanes : List Nat := List.map (fun k => p + k) (List.range (max 1 (modeLanes m)))
    let ok : Prop := modeOk m p = true ∧
      (∀ (q : Nat), q ∈ lanes → s.cur (PORT.base q) = 2) ∧
      (m = 0 ∨ ∀ (q : Nat), q < 8 → q ≠ p → s.occupies q p (modeLanes m) = false)
    p < 8 ∧
    MayWrite s actor (PORT.MODE.reg p) ∧
    ok) ∧
    (let s : State := live.p (PORT.MODE.MODE 0) 1
    let actor : Nat := 1
    let p : Nat := 7
    let v : Word := 0xE
    let m : Nat := getF v 3 0
    let lanes : List Nat := List.map (fun k => p + k) (List.range (max 1 (modeLanes m)))
    let ok : Prop := modeOk m p = true ∧
      (∀ (q : Nat), q ∈ lanes → s.cur (PORT.base q) = 2) ∧
      (m = 0 ∨ ∀ (q : Nat), q < 8 → q ≠ p → s.occupies q p (modeLanes m) = false)
    p < 8 ∧
    MayWrite s actor (PORT.MODE.reg p) ∧
    ¬ok) := by
  refine ⟨?_, ?_⟩ <;> (try dsimp only [MayWrite, Issues, OnLink, OwnRange, OwnStore, Holds, UnitTakes, NoHold, NoWork, PinsFollow]) <;> decide +kernel

theorem meets_portLinks :
    (let s : State := ((portOn (timed (fun e => { e with clk := 15000000 })) 7 7)).pb (PORT.PREEMPT.EN 7) true
    let p : Nat := 7
    let link : Bool := s.gb (PORT.STAT.LINK p)
    let en : Bool := s.gb (PORT.PREEMPT.EN p)
    let dis : Bool := s.gb (PORT.PREEMPT.VERIFY_DIS p)
    let active : Bool := s.gb (PORT.PREEMPT.ACTIVE p)
    let v : PortSt := s.portSt p
    p < 8 ∧
    s.beeline = [] ∧
    link = true ∧
    en = true ∧
    dis = false ∧
    active = false ∧
    v.verifyTries < 3 ∧
    v.verifyClk + 15000000 ≤ s.edryn.clk) ∧
    (let s : State := (((portOn (timed (fun e => { e with clk := 60000000 })) 7 7)).pb (PORT.STAT.LINK 7) false).setPort 7 { PortSt.reset with calClk := 1 }
    let p : Nat := 7
    let active : Bool := s.gb (PORT.PREEMPT.ACTIVE p)
    let link : Bool := s.gb (PORT.STAT.LINK p)
    let v : PortSt := s.portSt p
    let ms : Nat := (s.edryn.clk + 1 - v.calClk) / 1500000
    p < 8 ∧
    s.beeline = [] ∧
    link = false ∧
    s.trains p = true ∧
    active = false ∧
    v.xoffSent = 0 ∧
    v.calClk ≠ 0 ∧
    (s.cur (PORT.base p) = svcUpdating ∨ s.cur (PORT.base p) = svcIn) ∧
    (link = true ∨ 40 ≤ ms)) := by
  refine ⟨?_, ?_⟩ <;> (try dsimp only [MayWrite, Issues, OnLink, OwnRange, OwnStore, Holds, UnitTakes, NoHold, NoWork, PinsFollow]) <;> decide +kernel

theorem meets_portPauses :
    (let s : State := (((portOn (timed (fun e => { e with clk := 1500000 })) 7 7)).p (PORT.STAT.PAUSED 7) 0x80).p COMB.WATCHDOG.MS 1 |>.setPort 7 { PortSt.reset with pauseFrom := [(7, 1)] }
    let p : Nat := 7
    let k : Nat := 7
    let v : PortSt := s.portSt p
    p < 8 ∧
    k < 8 ∧
    s.beeline = [] ∧
    s.lineRx p = true ∧
    s.g (PORT.MAC_CFG.PFC_EN p) = 0 ∧
    s.pauseEn p = false ∧
    tget 0 v.pauseEnd k ≤ s.edryn.clk ∧
    s.gb (PORT.STAT.LINK p) = true ∧
    s.g (PORT.LOOPBACK.MODE p) = 0 ∧
    s.isPaused p k = true ∧
    tget 0 v.pauseFrom k ≠ 0 ∧
    bit v.stormed k = false ∧
    s.g COMB.WATCHDOG.MS ≠ 0 ∧
    s.g COMB.WATCHDOG.MS * 1500000 ≤ s.edryn.clk + 1 - tget 0 v.pauseFrom k) ∧
    (let s : State := (portOn live 7 7).p (PORT.MAC_CFG.PFC_EN 7) 0x80
    let p : Nat := 7
    let k : Nat := 7
    p < 8 ∧
    k < 8 ∧
    s.beeline = [] ∧
    s.lineRx p = true ∧
    s.g (PORT.MAC_CFG.PFC_EN p) ≠ 0) ∧
    (let s : State := ((portOn live 7 7).pb (PORT.MAC_CFG.PAUSE_EN 7) true).p (PORT.STAT.PAUSED 7) 0x1
    let p : Nat := 7
    let k : Nat := 7
    p < 8 ∧
    k < 8 ∧
    s.beeline = [] ∧
    s.lineRx p = true ∧
    s.pauseEn p = true) := by
  refine ⟨?_, ?_, ?_⟩ <;> (try dsimp only [MayWrite, Issues, OnLink, OwnRange, OwnStore, Holds, UnitTakes, NoHold, NoWork, PinsFollow]) <;> decide +kernel

theorem meets_portFrames :
    (let s : State := portOn live 7 7 |>.pb (PORT.STAT.LINK 7) false
    let p : Nat := 7
    let down : Bool := false
    p < 8 ∧
    s.notFitted (PORT.base p) = false ∧
    (s.portDoms p).all s.domUp = true ∧
    s.g (PORT.LOOPBACK.MODE p) = 0 ∧
    (s.portUp p = false ∨ down = true)) ∧
    (let s : State := (portOn live 7 7)
    let p : Nat := 7
    let down : Bool := false
    let fec : Bool := true
    let up : Prop := s.portUp p = true ∧ down = false
    p < 8 ∧
    s.notFitted (PORT.base p) = false ∧
    (s.portDoms p).all s.domUp = true ∧
    s.g (PORT.LOOPBACK.MODE p) = 0 ∧
    up ∧
    fec = true) ∧
    (let s : State := (portOn live 7 7)
    let p : Nat := 7
    let down : Bool := false
    let fec : Bool := false
    let asm : Bool := true
    let up : Prop := s.portUp p = true ∧ down = false
    p < 8 ∧
    s.notFitted (PORT.base p) = false ∧
    (s.portDoms p).all s.domUp = true ∧
    s.g (PORT.LOOPBACK.MODE p) = 0 ∧
    up ∧
    fec = false ∧
    asm = true) ∧
    (let s : State := (portOn live 7 7)
    let p : Nat := 7
    let b : Bytes := List.replicate 59 1
    let down : Bool := false
    let fec : Bool := false
    let asm : Bool := false
    let n : Nat := List.length b + 4
    let up : Prop := s.portUp p = true ∧ down = false
    p < 8 ∧
    s.notFitted (PORT.base p) = false ∧
    (s.portDoms p).all s.domUp = true ∧
    s.g (PORT.LOOPBACK.MODE p) = 0 ∧
    up ∧
    fec = false ∧
    asm = false ∧
    n < 64) ∧
    (let s : State := (portOn live 7 7)
    let p : Nat := 7
    let b : Bytes := List.replicate 1519 1
    let down : Bool := false
    let fec : Bool := false
    let asm : Bool := false
    let n : Nat := List.length b + 4
    let up : Prop := s.portUp p = true ∧ down = false
    p < 8 ∧
    s.notFitted (PORT.base p) = false ∧
    (s.portDoms p).all s.domUp = true ∧
    s.g (PORT.LOOPBACK.MODE p) = 0 ∧
    up ∧
    fec = false ∧
    asm = false ∧
    64 ≤ n ∧
    s.g (PORT.MAC_CFG.MAX_FRAME p) < n) ∧
    (let s : State := (portOn live 7 7)
    let p : Nat := 7
    let b : Bytes := List.replicate 1518 1
    let down : Bool := false
    let fec : Bool := false
    let asm : Bool := false
    let fcs : Bool := false
    let n : Nat := List.length b + 4
    let up : Prop := s.portUp p = true ∧ down = false
    p < 8 ∧
    s.notFitted (PORT.base p) = false ∧
    (s.portDoms p).all s.domUp = true ∧
    s.g (PORT.LOOPBACK.MODE p) = 0 ∧
    up ∧
    fec = false ∧
    asm = false ∧
    64 ≤ n ∧
    n ≤ s.g (PORT.MAC_CFG.MAX_FRAME p) ∧
    fcs = false) ∧
    (let s : State := (portOn live 7 7)
    let p : Nat := 7
    let b : Bytes := List.replicate 12 1 ++ [0x88, 0x08, 0, 2] ++ List.replicate 44 1
    let down : Bool := false
    let fec : Bool := false
    let asm : Bool := false
    let fcs : Bool := true
    let n : Nat := List.length b + 4
    let up : Prop := s.portUp p = true ∧ down = false
    p < 8 ∧
    s.notFitted (PORT.base p) = false ∧
    (s.portDoms p).all s.domUp = true ∧
    s.g (PORT.LOOPBACK.MODE p) = 0 ∧
    up ∧
    fec = false ∧
    asm = false ∧
    64 ≤ n ∧
    n ≤ s.g (PORT.MAC_CFG.MAX_FRAME p) ∧
    fcs = true ∧
    beAt b 12 2 = 34824 ∧
    beAt b 14 2 ≠ 257 ∧
    beAt b 14 2 ≠ 1) ∧
    (let s : State := (portOn live 7 7).p (PWR.DOM_STAT.STATE 1) 9
    let p : Nat := 7
    let b : Bytes := List.replicate 60 1
    let down : Bool := false
    let fec : Bool := false
    let asm : Bool := false
    let fcs : Bool := true
    let n : Nat := List.length b + 4
    let up : Prop := s.portUp p = true ∧ down = false
    let dt : Nat := s.ingressTc p (parseFrame (s.cfgOf s.seq) b) b
    let a : Nat := s.acctOf p dt
    let d : Nat := s.serial + 2
    p < 8 ∧
    s.notFitted (PORT.base p) = false ∧
    (s.portDoms p).all s.domUp = true ∧
    s.g (PORT.LOOPBACK.MODE p) = 0 ∧
    up ∧
    fec = false ∧
    asm = false ∧
    64 ≤ n ∧
    n ≤ s.g (PORT.MAC_CFG.MAX_FRAME p) ∧
    fcs = true ∧
    beAt b 12 2 ≠ 34824 ∧
    tblWf (fun x => acctDefault) s.accts = true ∧
    s.inXoff a = false ∧
    (∀ (o : Nat), o < 8 → s.xoffClasses o = []) ∧
    s.g COMB.SHARED_XOFF.XOFF + ceilDiv (List.length b) 256 < s.poolFree ∧
    s.ag a PA.u + ceilDiv (List.length b) 256 < 2 ^ 32 ∧
    List.length s.descs < 524288 ∧
    (∀ (e : Nat × Desc), e ∈ s.descs → e.fst ≤ s.serial) ∧
    (∀ (e : Nat × Pkt), e ∈ s.pkts → e.fst ≤ s.serial) ∧
    (∀ (e : Nat × List Nat), e ∈ s.admq → ¬d ∈ e.snd) ∧
    NoHold s (xferPkt d) ∧
    s.domState 1 = 9) ∧
    (let s : State := noHives ((portOn live 7 7))
    let p : Nat := 7
    let b : Bytes := List.replicate 12 1 ++ [0x88, 0xB5] ++ List.replicate 46 1
    let down : Bool := false
    let fec : Bool := false
    let asm : Bool := false
    let fcs : Bool := true
    let n : Nat := List.length b + 4
    let up : Prop := s.portUp p = true ∧ down = false
    let dt : Nat := s.ingressTc p (parseFrame (s.cfgOf s.seq) b) b
    let a : Nat := s.acctOf p dt
    let d : Nat := s.serial + 2
    p < 8 ∧
    s.notFitted (PORT.base p) = false ∧
    (s.portDoms p).all s.domUp = true ∧
    s.g (PORT.LOOPBACK.MODE p) = 0 ∧
    up ∧
    fec = false ∧
    asm = false ∧
    64 ≤ n ∧
    n ≤ s.g (PORT.MAC_CFG.MAX_FRAME p) ∧
    fcs = true ∧
    beAt b 12 2 ≠ 34824 ∧
    tblWf (fun x => acctDefault) s.accts = true ∧
    s.inXoff a = false ∧
    (∀ (o : Nat), o < 8 → s.xoffClasses o = []) ∧
    s.g COMB.SHARED_XOFF.XOFF + ceilDiv (List.length b) 256 < s.poolFree ∧
    s.ag a PA.u + ceilDiv (List.length b) 256 < 2 ^ 32 ∧
    List.length s.descs < 524288 ∧
    (∀ (e : Nat × Desc), e ∈ s.descs → e.fst ≤ s.serial) ∧
    (∀ (e : Nat × Pkt), e ∈ s.pkts → e.fst ≤ s.serial) ∧
    (∀ (e : Nat × List Nat), e ∈ s.admq → ¬d ∈ e.snd) ∧
    NoHold s (xferPkt d) ∧
    s.domState 1 = 0 ∧
    s.pipeUp = true ∧
    s.rules = [] ∧
    s.flows = [] ∧
    s.pcfg = [] ∧
    (parseFrame pcfgDefault b).cls = 0) ∧
    (let s : State := packet (portOn live 7 7) 3 { Desc.empty with place := .wire 7, bytes := [1] }
    let p : Nat := 7
    let x : Nat := 3
    let c : Nat := (s.desc x).pkt
    p < 8 ∧
    s.notFitted (PORT.base p) = false ∧
    (s.portDoms p).all s.domUp = true ∧
    s.onWire p = [x] ∧
    (s.g (PORT.LOOPBACK.MODE p) = 0 ∨ s.g (PORT.LOOPBACK.MODE p) = 3) ∧
    (s.pkt (s.desc x).pkt).work = none ∧
    (s.desc x).txts = none ∧
    (s.pkt c).refs = 1) ∧
    (let s : State := (packet (portOn live 7 7) 3 { Desc.empty with place := .wire 7, bytes := [1] }).modPkt 1 (fun q => { q with refs := 2 })
    let p : Nat := 7
    let x : Nat := 3
    let c : Nat := (s.desc x).pkt
    p < 8 ∧
    s.notFitted (PORT.base p) = false ∧
    (s.portDoms p).all s.domUp = true ∧
    s.onWire p = [x] ∧
    (s.g (PORT.LOOPBACK.MODE p) = 0 ∨ s.g (PORT.LOOPBACK.MODE p) = 3) ∧
    (s.pkt (s.desc x).pkt).work = none ∧
    (s.desc x).txts = none ∧
    2 ≤ (s.pkt c).refs) := by
  refine ⟨?_, ?_, ?_, ?_, ?_, ?_, ?_, ?_, ?_, ?_, ?_⟩ <;> (try dsimp only [MayWrite, Issues, OnLink, OwnRange, OwnStore, Holds, UnitTakes, NoHold, NoWork, PinsFollow]) <;> decide +kernel

theorem meets_ruleVersions :
    (let s : State := live
    let actor : Nat := 1
    let w : Nat := 1
    let v : Nat := w % 256
    let may : Prop := s.permits actor UType.class = true
    let free : Prop := s.claimAllows (UNIT.CLAIM.reg CLASS.base) actor = true
    let next : Prop := v = (s.seq + 1) % 256
    let full : Prop := s.seq - s.oldest = 3 ∨ s.cur CLASS.base = svcFailed
    let i : Nat := 5
    let r : BitVec 2048 := s.ctx i
    let k : Nat := tget 0 s.ageClk i
    let visit : Prop := ctxState r = 1 ∧ (s.domUp 1 = true ∨ s.domState 1 = 8) ∧ (k = 0 ∨ s.g FLOW.AGE.SCAN_MS * 1000000 ≤ s.since (k - 1))
    actorOk actor = true ∧
    s.domDown 1 = false ∧
    may ∧
    free ∧
    next ∧
    s.seq + 1 < 2 ^ 64 ∧
    ¬full ∧
    s.seq ≤ s.oldest ∧
    ¬visit) ∧
    (let s : State := live.p CLASS.SEQ.SEQ 3
    let actor : Nat := 1
    let w : Nat := 4
    let v : Nat := w % 256
    let may : Prop := s.permits actor UType.class = true
    let free : Prop := s.claimAllows (UNIT.CLAIM.reg CLASS.base) actor = true
    let next : Prop := v = (s.seq + 1) % 256
    let full : Prop := s.seq - s.oldest = 3 ∨ s.cur CLASS.base = svcFailed
    actorOk actor = true ∧
    s.domDown 1 = false ∧
    may ∧
    free ∧
    next ∧
    full ∧
    s.oldest < s.seq ∧
    (∀ (e : Nat × Desc), e ∈ s.descs → e.snd.holds = true → e.snd.ver ≠ s.oldest)) ∧
    (let s : State := live
    let actor : Nat := 2
    let may : Prop := s.permits actor UType.class = true
    actorOk actor = true ∧
    s.domDown 1 = false ∧
    ¬may) ∧
    (let s : State := live.p (UNIT.CLAIM.OWNER CLASS.base) 2
    let actor : Nat := 1
    let may : Prop := s.permits actor UType.class = true
    let free : Prop := s.claimAllows (UNIT.CLAIM.reg CLASS.base) actor = true
    actorOk actor = true ∧
    s.domDown 1 = false ∧
    may ∧
    ¬free) ∧
    (let s : State := live
    let actor : Nat := 1
    let w : Nat := 2
    let v : Nat := w % 256
    let may : Prop := s.permits actor UType.class = true
    let free : Prop := s.claimAllows (UNIT.CLAIM.reg CLASS.base) actor = true
    let next : Prop := v = (s.seq + 1) % 256
    actorOk actor = true ∧
    s.domDown 1 = false ∧
    may ∧
    free ∧
    ¬next) ∧
    (let s : State := { (noHives (timed (fun e => { e with time := 1000000 * 65536 }))) with flows := [(5, rput (rput (rput (rput (0 : BitVec 2048) FC.state 1) FC.idle 1) FC.owner 7) FC.keep 1)] }
    let actor : Nat := 1
    let i : Nat := 5
    let r : BitVec 2048 := s.ctx i
    let k : Nat := tget 0 s.ageClk i
    let visit : Prop := ctxState r = 1 ∧ (s.domUp 1 = true ∨ s.domState 1 = 8) ∧ (k = 0 ∨ s.g FLOW.AGE.SCAN_MS * 1000000 ≤ s.since (k - 1))
    let idle : Prop := rget r FC.idle ≠ 0 ∧ rget r FC.last ≤ s.ns ∧ rget r FC.idle * 1000000 ≤ s.ns - rget r FC.last
    actorOk actor = true ∧
    s.domDown 1 = false ∧
    visit ∧
    idle ∧
    (∀ (h : Nat), h < 12 → s.hiveIn h = false) ∧
    (∀ (e : Nat × Nat), e ∈ s.steer → e.snd % 16 < 12 ∧ e.snd / 16 < 12) ∧
    rget r FC.keep = 1) ∧
    (let s : State := { ((noHives (timed (fun e => { e with time := 1000000 * 65536 }))).wi 7 IR.flowUsed 3) with flows := [(5, rput (rput (rput (rput (0 : BitVec 2048) FC.state 1) FC.idle 1) FC.owner 7) FC.keep 0)] }
    let actor : Nat := 1
    let i : Nat := 5
    let r : BitVec 2048 := s.ctx i
    let k : Nat := tget 0 s.ageClk i
    let visit : Prop := ctxState r = 1 ∧ (s.domUp 1 = true ∨ s.domState 1 = 8) ∧ (k = 0 ∨ s.g FLOW.AGE.SCAN_MS * 1000000 ≤ s.since (k - 1))
    let idle : Prop := rget r FC.idle ≠ 0 ∧ rget r FC.last ≤ s.ns ∧ rget r FC.idle * 1000000 ≤ s.ns - rget r FC.last
    actorOk actor = true ∧
    s.domDown 1 = false ∧
    visit ∧
    idle ∧
    (∀ (h : Nat), h < 12 → s.hiveIn h = false) ∧
    (∀ (e : Nat × Nat), e ∈ s.steer → e.snd % 16 < 12 ∧ e.snd / 16 < 12) ∧
    rget r FC.keep = 0) ∧
    (let s : State := { (noHives (timed (fun e => { e with time := 1000000 * 65536 }))) with flows := [(5, rput (rput (rput (rput (0 : BitVec 2048) FC.state 1) FC.idle 5) FC.owner 7) FC.keep 0)] }
    let actor : Nat := 1
    let i : Nat := 5
    let r : BitVec 2048 := s.ctx i
    let k : Nat := tget 0 s.ageClk i
    let visit : Prop := ctxState r = 1 ∧ (s.domUp 1 = true ∨ s.domState 1 = 8) ∧ (k = 0 ∨ s.g FLOW.AGE.SCAN_MS * 1000000 ≤ s.since (k - 1))
    let idle : Prop := rget r FC.idle ≠ 0 ∧ rget r FC.last ≤ s.ns ∧ rget r FC.idle * 1000000 ≤ s.ns - rget r FC.last
    actorOk actor = true ∧
    s.domDown 1 = false ∧
    visit ∧
    ¬idle) := by
  refine ⟨?_, ?_, ?_, ?_, ?_, ?_, ?_, ?_⟩ <;> (try dsimp only [MayWrite, Issues, OnLink, OwnRange, OwnStore, Holds, UnitTakes, NoHold, NoWork, PinsFollow]) <;> decide +kernel

theorem meets_admissionCells :
    (let s : State := { packet live 9 { Desc.empty with place := .adm 3, dk := 3, dest := 7, src := 3, reason := 1, bytes := [1] } with admq := [(3, [9])] }
    let q : Nat := 3
    let d : Nat := 9
    let rest : List Nat := []
    let v : Desc := s.desc d
    let chosen : Option Nat := s.puntHive v.hash (if v.dk = 3 then some v.dest else none)
    let h : Nat := 7
    tget [] s.admq q = d :: rest ∧
    v.reason ≠ 0 ∧
    (v.dk = 0 ∨ v.dk = 3) ∧
    v.psrc ≠ 8 ∧
    v.ready = true ∧
    (s.pkt v.pkt).hive = none ∧
    s.inService COMB.base = true ∧
    s.inService SCHED.base = true ∧
    s.domState 1 = 0 ∧
    s.domState 2 = 0 ∧
    NoHold s (xferPkt d) ∧
    s.g BEELINE.PENDING.COUNT = 0 ∧
    (∀ (x : Nat), x ∈ [1, 2, 5, 6, 7, 8] → bit (s.g (PWR.DOM_STAT.HOLDS x)) 1 = false) ∧
    (∀ (x : Nat × Desc), x ∈ s.descs → x.snd.launch = none) ∧
    1 ≤ s.descFree ∧
    tblWf (fun x => []) s.admq = true ∧
    chosen = some h ∧
    s.cellWait = [] ∧
    (∀ (x : Nat × Pkt), x ∈ s.pkts → x.snd.refs = 0 → x.snd.bytes = [])) ∧
    (let s : State := { packet live 9 { Desc.empty with place := .adm 3, dk := 2, dest := 7, sub := 7, src := 3, bytes := [1] } with admq := [(3, [9])] }
    let q : Nat := 3
    let d : Nat := 9
    let rest : List Nat := []
    let v : Desc := s.desc d
    let n : Nat := (s.pkt v.pkt).cells
    let a : Nat := 8 * v.dest + v.sub
    tget [] s.admq q = d :: rest ∧
    v.dk = 2 ∧
    v.dest < 8 ∧
    v.sub < 8 ∧
    v.psrc ≠ 8 ∧
    v.ipid = false ∧
    v.ready = true ∧
    v.reason = 0 ∧
    (s.pkt v.pkt).hive = none ∧
    (s.pkt v.pkt).work = none ∧
    s.inService COMB.base = true ∧
    s.inService SCHED.base = true ∧
    s.domState 1 = 0 ∧
    s.domState 2 = 0 ∧
    NoHold s (xferPkt d) ∧
    s.g BEELINE.PENDING.COUNT = 0 ∧
    (∀ (x : Nat), x ∈ [1, 2, 5, 6, 7, 8] → bit (s.g (PWR.DOM_STAT.HOLDS x)) 1 = false) ∧
    (∀ (x : Nat × Desc), x ∈ s.descs → x.snd.launch = none) ∧
    1 ≤ s.descFree ∧
    tblWf (fun x => []) s.admq = true ∧
    s.ag a PA.egr + n ≤ s.ag a PA.egrLimit ∧
    s.ag a PA.egr + n ≤ s.ag a PA.ecnMin) ∧
    (let s : State := { packet (rings (timed (fun e => { e with clk := 1500000 })) [(WQ.state, 1), (WQ.type, 1)] []) 9 { Desc.empty with place := .adm 3, dk := 1, dest := 7, sub := 1, waitClk := 1, bytes := [1] } with admq := [(3, [9])] }
    let q : Nat := 3
    let d : Nat := 9
    let rest : List Nat := []
    let v : Desc := s.desc d
    let n : Nat := (s.pkt v.pkt).cells
    tget [] s.admq q = d :: rest ∧
    v.dk = 1 ∧
    s.instLive v.dest = true ∧
    s.instSealed v.dest = false ∧
    (tget InstCmd.none s.instCmd v.dest).squash = false ∧
    v.sub < s.ri v.dest IR.nwq ∧
    s.wqg (s.ri v.dest IR.wqBase + v.sub) WQ.type = 1 ∧
    s.ri v.dest IR.combLimit < n ∧
    v.ready = true ∧
    v.reason = 0 ∧
    v.waitClk ≠ 0 ∧
    v.stuck = false ∧
    v.waitClk + 1500000 ≤ s.edryn.clk + 1) ∧
    (let s : State := { ((rings (live) [(WQ.state, 1)] []).wi 7 IR.combLimit 2).setWqa 1 { WqAux.reset with ents := [⟨5, rput 0 TX.leaf 0, 2, [], 0⟩] } with cellWait := [⟨1, 5, 2, false⟩] }
    let c : CellWait := ⟨1, 5, 2, false⟩
    let e : Ent := ⟨5, 0, 2, [], 0⟩
    let i : Nat := s.wqInst c.wq
    s.cellWait = [c] ∧
    c.timed = false ∧
    s.ent c.wq c.index = some e ∧
    i < 2048 ∧
    (s.wqg c.wq WQ.state = 1 ∨ s.wqg c.wq WQ.state = 2) ∧
    s.instSealed i = false ∧
    s.ri i IR.refComb + c.cells ≤ s.ri i IR.combLimit ∧
    c.cells ≤ s.poolFree ∧
    (∀ (x : Nat × Pkt), x ∈ s.pkts → x.snd.refs = 0 → x.snd.bytes = [])) ∧
    (let s : State := { packet (noHives live) 9 { Desc.empty with place := .adm 3, dk := 0, dest := 7, src := 3, reason := 1, bytes := [1] } with admq := [(3, [9])] }
    let q : Nat := 3
    let d : Nat := 9
    let rest : List Nat := []
    let v : Desc := s.desc d
    let chosen : Option Nat := s.puntHive v.hash (if v.dk = 3 then some v.dest else none)
    tget [] s.admq q = d :: rest ∧
    v.reason ≠ 0 ∧
    (v.dk = 0 ∨ v.dk = 3) ∧
    v.psrc ≠ 8 ∧
    v.ready = true ∧
    (s.pkt v.pkt).hive = none ∧
    s.inService COMB.base = true ∧
    s.inService SCHED.base = true ∧
    s.domState 1 = 0 ∧
    s.domState 2 = 0 ∧
    NoHold s (xferPkt d) ∧
    s.g BEELINE.PENDING.COUNT = 0 ∧
    (∀ (x : Nat), x ∈ [1, 2, 5, 6, 7, 8] → bit (s.g (PWR.DOM_STAT.HOLDS x)) 1 = false) ∧
    (∀ (x : Nat × Desc), x ∈ s.descs → x.snd.launch = none) ∧
    1 ≤ s.descFree ∧
    tblWf (fun x => []) s.admq = true ∧
    chosen = none) := by
  refine ⟨?_, ?_, ?_, ?_, ?_⟩ <;> (try dsimp only [MayWrite, Issues, OnLink, OwnRange, OwnStore, Holds, UnitTakes, NoHold, NoWork, PinsFollow]) <;> decide +kernel

theorem meets_schedDispatch :
    (let s : State := { packet (portOn live 7 7) 9 { Desc.empty with place := .queue (classKey (8 * 7 + 7)), dk := 2, dest := 7, sub := 7, src := 3, bytes := [1, 2] } with noder := [(classKey (8 * 7 + 7), { Node.reset with q := [9] })] }
    let d : Nat := 9
    let c : Nat := 7
    let p : Nat := 7
    let v : Desc := s.desc d
    let up : Prop := s.inService SCHED.base = true ∧ s.domUp 1 = true ∧ s.domUp 2 = true
    let Alone : Nat → Prop := fun e =>
      s.nodes = [] ∧
      c < 8 ∧
      (s.nr (classKey (8 * e + c))).q = [d] ∧
      (∀ (x : Nat × Node), x ∈ s.noder → x.fst ≠ classKey (8 * e + c) → x.snd.q = []) ∧
      tblWf (fun x => Node.reset) s.noder = true
    up ∧
    p < 8 ∧
    Alone p ∧
    (∀ (x : Nat), x ∈ s.portDoms p → s.domState x = 0) ∧
    NoHold s (xferPkt d) ∧
    s.portUp p = true ∧
    s.onWire p = [] ∧
    s.g (PORT.LOOPBACK.MODE p) = 0 ∧
    s.isPaused p v.sub = false ∧
    s.beeline = [] ∧
    v.launch = none ∧
    v.ipid = false ∧
    v.src < 8 ∧
    v.by9 = false) ∧
    (let s : State := { packet (live.p (HIVE.RING_CFG.INTAKE_LOG2 11) 6) 9 { Desc.empty with place := .queue (classKey (8 * 23 + 7)), dk := 2, dest := 7, sub := 7, src := 3, bytes := [1, 2] } with noder := [(classKey (8 * 23 + 7), { Node.reset with q := [9] })] }
    let d : Nat := 9
    let c : Nat := 7
    let h : Nat := 11
    let v : Desc := s.desc d
    let up : Prop := s.inService SCHED.base = true ∧ s.domUp 1 = true ∧ s.domUp 2 = true
    let Alone : Nat → Prop := fun e =>
      s.nodes = [] ∧
      c < 8 ∧
      (s.nr (classKey (8 * e + c))).q = [d] ∧
      (∀ (x : Nat × Node), x ∈ s.noder → x.fst ≠ classKey (8 * e + c) → x.snd.q = []) ∧
      tblWf (fun x => Node.reset) s.noder = true
    up ∧
    h < 12 ∧
    Alone (12 + h) ∧
    s.domState (14 + h) = 0 ∧
    NoHold s (xferPkt d) ∧
    s.hiveIn h = true ∧
    s.intakeRoom h = true ∧
    v.launch = none) ∧
    (let s : State := { (timed (fun e => { e with clk := 24000 })) with nodes := [(0x10000, rput (rput (rput (rput (0 : BitVec 512) NR.enable 1) NR.cir 100) NR.cbs 5) NR.pir 7)], noder := [(0x10000, { Node.reset with ctok := -5, cir := 100, pir := 7 })] }
    let kind : Nat := 1
    let n : Nat := 0
    let k : Nat := kind * 65536 + n
    1 ≤ kind ∧
    kind ≤ 3 ∧
    n < nodeLimit kind ∧
    s.nodeOn k = true) := by
  refine ⟨?_, ?_, ?_⟩ <;> (try dsimp only [MayWrite, Issues, OnLink, OwnRange, OwnStore, Holds, UnitTakes, NoHold, NoWork, PinsFollow]) <;> decide +kernel

theorem meets_beelineLaunches :
    (let s : State := { packet ((portOn (timed (fun e => { e with time := 10 * 65536 })) 7 7).pb (PORT.PREEMPT.ACTIVE 7) true) 9 { Desc.empty with place := .beeline, dk := 2, dest := 7, sub := 7, src := 3, bytes := [1, 2], launch := some 12  } with beeline := [9] }
    let p : Nat := 7
    let d : Nat := 9
    let l : Nat := 12
    let v : Desc := s.desc d
    let at_ : Nat := 8 * ((l + 4) / 8)
    v.launch = some l ∧
    p < 8 ∧
    d ∈ s.beeline ∧
    v.dk = 2 ∧
    v.dest = p ∧
    s.gb (PORT.PREEMPT.ACTIVE p) = true ∧
    s.blockedOn d p = false ∧
    at_ ≤ s.ns + holdNs (s.portRate p)) ∧
    (let s : State := { packet (portOn (timed (fun e => { e with time := 16 * 65536 })) 7 7) 9 { Desc.empty with place := .beeline, dk := 2, dest := 7, sub := 7, src := 3, bytes := [1, 2], launch := some 12  } with beeline := [9] }
    let p : Nat := 7
    let d : Nat := 9
    let l : Nat := 12
    let v : Desc := s.desc d
    let at_ : Nat := 8 * ((l + 4) / 8)
    v.launch = some l ∧
    s.beeline = [d] ∧
    p < 8 ∧
    v.dk = 2 ∧
    v.dest = p ∧
    v.late = 0 ∧
    at_ ≤ s.ns ∧
    s.edryn.time ≤ (l + 4) * 65536 ∧
    s.portUp p = true ∧
    s.g (PORT.LOOPBACK.MODE p) = 0 ∧
    bit (s.g (PORT.STAT.PAUSED p)) (v.sub % 8) = false ∧
    s.onWire p = [] ∧
    v.ipid = false ∧
    v.src < 8 ∧ v.by9 = false) ∧
    (let s : State := { packet (timed (fun e => { e with time := 16 * 65536 })) 9 { Desc.empty with place := .beeline, dk := 3, dest := 11, src := 3, bytes := [1, 2], launch := some 12 } with beeline := [9] }
    let d : Nat := 9
    let l : Nat := 12
    let h : Nat := 11
    let v : Desc := s.desc d
    let at_ : Nat := 8 * ((l + 4) / 8)
    v.launch = some l ∧
    s.beeline = [d] ∧
    v.dk = 3 ∧
    v.dest = h ∧
    h < 12 ∧
    at_ ≤ s.ns ∧
    s.hiveIn h = true) ∧
    (let s : State := { packet live 9 { Desc.empty with place := .beeline, dk := 3, dest := 11, src := 3, bytes := [1, 2], launch := some 12 } with beeline := [] }
    let d : Nat := 9
    let l : Nat := 12
    let v : Desc := s.desc d
    v.launch = some l ∧
    s.beeline = []) := by
  refine ⟨?_, ?_, ?_, ?_⟩ <;> (try dsimp only [MayWrite, Issues, OnLink, OwnRange, OwnStore, Holds, UnitTakes, NoHold, NoWork, PinsFollow]) <;> decide +kernel

theorem meets_faultWindows :
    (let s : State := ((live).p (FWC.SRC.THRESH 4) 16).pb (FWC.SRC.ALERT_T 4) true |>.pb (FWC.SRC.ALERT_L 4) true
    let m : Nat := 3
    let owner : Nat := RING.base
    let Empty : Nat → Prop := fun k => tget FaultWin.reset s.fwc (fwcKey k m) = FaultWin.reset
    let Small : Nat → Prop := fun n => 2 ≤ n ∧ n ≤ 16
    let src : Nat := 4
    let arg : Nat := 3
    let g : Nat := 7
    let margin : Nat := 5
    m < 1536 ∧
    isUnit owner = true ∧
    s.noder = [] ∧
    Empty 0 ∧
    Small (s.g (FWC.SRC.THRESH 0)) ∧
    m < 2 ^ 25 ∧
    Empty 1 ∧
    Small (s.g (FWC.SRC.THRESH 1)) ∧
    s.repair.track.length < 4096 ∧
    m < 20 ∧
    tget FaultWin.reset s.fwc (fwcKey 2 0) = FaultWin.reset ∧
    Small (s.g (FWC.SRC.THRESH 2)) ∧
    src = 4 ∧
    m < 4 ∧
    Empty 4 ∧
    Small (s.g (FWC.SRC.THRESH 4)) ∧
    Empty 6 ∧
    owner = RING.base ∧
    tget 0 s.repair.spares m < 4 ∧
    ¬(2, arg) ∈ s.poison ∧
    g < 8 ∧
    margin < s.g (FWC.AGE.WARN_PS g)) ∧
    (let s : State := ((live).p (FWC.SRC.THRESH 0) 1).pb (FWC.SRC.ALERT_T 0) true |>.pb (FWC.SRC.ALERT_L 0) true
    let m : Nat := 1535
    let owner : Nat := RING.base
    let Empty : Nat → Prop := fun k => tget FaultWin.reset s.fwc (fwcKey k m) = FaultWin.reset
    m < 1536 ∧
    isUnit owner = true ∧
    s.noder = [] ∧
    Empty 0 ∧
    s.g (FWC.SRC.THRESH 0) = 1 ∧
    tget 0 s.repair.spares m < 4) ∧
    (let s : State := ((live.p (PORT.FEC_BOUND.SYMBOLS 7) 2).pb (FWC.SRC.ALERT_T 5) true)
    let src : Nat := 5
    let m : Nat := 7
    let Empty : Nat → Prop := fun k => tget FaultWin.reset s.fwc (fwcKey k m) = FaultWin.reset
    let Small : Nat → Prop := fun n => 2 ≤ n ∧ n ≤ 16
    src = 5 ∧
    m < 8 ∧
    Empty 5 ∧
    Small (s.g (PORT.FEC_BOUND.SYMBOLS m))) ∧
    (let s : State := live.p (FWC.AGE.WARN_PS 7) 5
    let g : Nat := 7
    let margin : Nat := 5
    g < 8 ∧
    s.g (FWC.AGE.WARN_PS g) ≤ margin) := by
  refine ⟨?_, ?_, ?_, ?_⟩ <;> (try dsimp only [MayWrite, Issues, OnLink, OwnRange, OwnStore, Holds, UnitTakes, NoHold, NoWork, PinsFollow]) <;> decide +kernel

theorem meets_scarabPrograms :
    (let s : State := ((live.modTrust (fun t => { t with words := [(6, 0xFFFFFFFFFFFFFFFF)] })).pb SCARAB.PROG_STAT.ROLLING true)
    let actor : Nat := 1
    let rolling : Bool := s.gb SCARAB.PROG_STAT.ROLLING
    let q : Nat := s.g SCARAB.PROG_STAT.SEQ
    MayWrite s actor SCARAB.PROG_CTL.reg ∧
    (bit (s.chitin 6) 1 = false ∨ rolling = true) ∧
    (bit (s.chitin 6) 1 = false ∨ rolling = true ∨ s.g SCARAB.PROG_STAT.RESULT ≠ 1) ∧
    s.progBusy = false ∧
    rolling = true ∧
    s.sops = [] ∧
    q < 19) ∧
    (let s : State := ((live.modTrust (fun t => { t with words := [(6, 0xFFFFFFFFFFFFFFFF)] })).p SCARAB.PROG_STAT.RESULT 1)
    let actor : Nat := 1
    let rolling : Bool := s.gb SCARAB.PROG_STAT.ROLLING
    MayWrite s actor SCARAB.PROG_CTL.reg ∧
    bit (s.chitin 6) 1 = true ∧
    rolling = false ∧
    s.g SCARAB.PROG_STAT.RESULT = 1) ∧
    (let s : State := { live with progBusy := true }
    s.progBusy = true) ∧
    (let s : State := { (((live.pb SCARAB.PROG_STAT.ROLLING true).p SCARAB.PROG_STAT.SEQ 19).p SCARAB.PROG_STAT.STAGED_VER 7) with modesStaged := 0x1FF }
    let q : Nat := s.g SCARAB.PROG_STAT.SEQ
    let rolling : Bool := s.gb SCARAB.PROG_STAT.ROLLING
    rolling = true ∧
    s.sops = [] ∧
    q = 19) ∧
    (let s : State := { ((live.pb SCARAB.PROG_STAT.ROLLING true).p SCARAB.PROG_STAT.SEQ 5) with sops := [(4, sop (.call 3) 5 0 0 [])] }
    let q : Nat := s.g SCARAB.PROG_STAT.SEQ
    let rolling : Bool := s.gb SCARAB.PROG_STAT.ROLLING
    rolling = true ∧
    (∃ e, e ∈ s.sops ∧ e.snd.seq = some q)) := by
  refine ⟨?_, ?_, ?_, ?_, ?_⟩ <;> (try dsimp only [MayWrite, Issues, OnLink, OwnRange, OwnStore, Holds, UnitTakes, NoHold, NoWork, PinsFollow]) <;> decide +kernel

theorem meets_scarabSlots :
    (let s : State := { (live.p SCARAB.SLOT_SEL.SLOT 5) with slots := [(5, slotOf [(KS.state, 1), (KS.mode, 5), (KS.enc, 1), (KS.key1, 77), (KS.gen, 3)]), (6, 3)], slotPend := [(5, (slotOf [(KS.mode, 1), (KS.key1, 9), (KS.count, 4)]))], sops := [(4, sop (.call 3) 5 0 0 []), (6, sop (.call 3) 6 0 0 [])] }
    let actor : Nat := 1
    let n : Nat := 5
    let r : BitVec 1024 := slotOf [(KS.mode, 1), (KS.key1, 9), (KS.count, 4)]
    let pair : Nat := 7
    let at_ : Nat := tget 0 s.maskClk pair
    let cause : Nat := 3
    let i : Nat := 3
    let v : Word := (3 + 5 * 2 ^ 24 + 10 * 2 ^ 45 + 2 ^ 63)
    let tx : Bool := BitVec.getLsbD v 44
    let l : Nat := getF v 48 45
    let named : Prop := ctxState (s.ctx i) = 1 ∧ s.namesTls i n tx = true ∧ (tx = true → 9 ≤ l ∧ l ≤ 14)
    MayWrite s actor SCARAB.SLOT_CTL.reg ∧
    n = s.g SCARAB.SLOT_SEL.SLOT ∧
    (s.slotState n = 1 ∨ s.slotState n = 2) ∧
    List.find? (fun e => e.fst == n) s.slotPend = some (n, r) ∧
    s.drainFull n = false ∧
    s.slotState n ≠ 0 ∧
    pair < 20 ∧
    s.alarmed = false ∧
    s.domUp 9 = true ∧
    (at_ = 0 ∨ 1000000 ≤ s.since (at_ - 1)) ∧
    MayWrite s actor SCARAB.PAIR_FAULT.reg ∧
    2 ≤ cause ∧
    cause ≤ 5 ∧
    MayWrite s actor SCARAB.TLS_SYNC_A.reg ∧
    i = getF v 21 0 ∧
    n = getF v 43 24 ∧
    BitVec.getLsbD v 63 = true ∧
    s.slotActor actor = true ∧
    ¬named) ∧
    (let s : State := { (live.p SCARAB.SLOT_SEL.SLOT 5) with slots := [(5, rput (slotOf [(KS.state, 1), (KS.mode, 5), (KS.enc, 1), (KS.key1, 77), (KS.gen, 3)]) KS.state 3), (6, 3)], slotPend := [] }
    let actor : Nat := 1
    let n : Nat := 5
    MayWrite s actor SCARAB.SLOT_CTL.reg ∧
    n = s.g SCARAB.SLOT_SEL.SLOT ∧
    (s.slotState n = 0 ∨ s.slotState n = 3) ∧
    (s.hasPend n = false ∨ s.drainFull n = true)) ∧
    (let s : State := { (live.p SCARAB.TLS_SYNC_C.RECORD 9) with flows := [(3, rput (rput (0 : BitVec 2048) FC.state 1) (FC.act 0) (0x0A + 5 * 2 ^ 16 + 2 * 2 ^ 40 + 0)), (4, 7)], slots := [(5, slotOf [(KS.state, 1), (KS.mode, 5), (KS.enc, 1), (KS.key1, 77), (KS.gen, 3)]), (6, 3)] }
    let actor : Nat := 1
    let n : Nat := 5
    let i : Nat := 3
    let v : Word := (3 + 5 * 2 ^ 24 + 10 * 2 ^ 45 + 2 ^ 63)
    let tx : Bool := BitVec.getLsbD v 44
    let l : Nat := getF v 48 45
    let named : Prop := ctxState (s.ctx i) = 1 ∧ s.namesTls i n tx = true ∧ (tx = true → 9 ≤ l ∧ l ≤ 14)
    MayWrite s actor SCARAB.TLS_SYNC_A.reg ∧
    i = getF v 21 0 ∧
    n = getF v 43 24 ∧
    BitVec.getLsbD v 63 = true ∧
    s.slotActor actor = true ∧
    named ∧
    s.sops = []) ∧
    (let s : State := { live with maskClk := [(6, 1)] }
    let pair : Nat := 6
    let at_ : Nat := tget 0 s.maskClk pair
    pair < 20 ∧
    s.alarmed = false ∧
    s.domUp 9 = true ∧
    at_ ≠ 0 ∧
    s.since (at_ - 1) < 1000000) ∧
    (let s : State := { (live.modTrust (fun t => { t with words := [(3, 0xFFFFFFFFFFFFFFFF)] })) with slots := [(5, slotOf [(KS.state, 1), (KS.mode, 5), (KS.enc, 1), (KS.key1, 77), (KS.gen, 3)]), (6, 3)] }
    let actor : Nat := 4099
    let n : Nat := 5
    let i : Nat := 3
    let v : Word := (3 + 5 * 2 ^ 24 + 10 * 2 ^ 45 + 2 ^ 63)
    MayWrite s actor SCARAB.TLS_SYNC_A.reg ∧
    i = getF v 21 0 ∧
    n = getF v 43 24 ∧
    BitVec.getLsbD v 63 = true ∧
    s.slotActor actor = false) := by
  refine ⟨?_, ?_, ?_, ?_, ?_⟩ <;> (try dsimp only [MayWrite, Issues, OnLink, OwnRange, OwnStore, Holds, UnitTakes, NoHold, NoWork, PinsFollow]) <;> decide +kernel

theorem meets_scarabOps :
    (let s : State := ({ runs 3 0x40 0x80 with store := mwrite (mwrite (mwrite [] 0x40 (bytes512 (rput (rput (0 : BitVec 512) EN.opcode 5) CE.dst 0x200))) 0x200 [1, 2]) 0x300 [1, 2, 3, 4], slots := [(5, macKey)] }).p (HIVE.SECURE.THREADS 0) 8
    let th : Nat := 3
    let rs1 : Nat := 1
    let rs2 : Nat := 2
    let a : Nat := BitVec.toNat (s.qr th rs1)
    let b : Nat := BitVec.toNat (s.qr th rs2)
    let r : BitVec 512 := packBytes 512 (s.hsRead (th / 64) a 64)
    Issues s th ∧
    UnitTakes s th SCARAB.base 9 ∧
    a % 64 = 0 ∧
    b % 64 = 0 ∧
    OwnRange s th a 64 ∧
    OwnRange s th b 64 ∧
    s.callOk th r = true ∧
    s.sops = [] ∧
    s.gb SCARAB.PROG_STAT.ROLLING = false ∧
    ¬(9, xferOp (s.opN + 1)) ∈ s.xfer) ∧
    (let s : State := { (runs 3 0x40 0x80).modTh 3 (fun v => { v with state := thWait, wait := some ⟨4, 0, false, 5, none⟩ }) with sops := [(4, sop (.call 3) 5 0 macKey (bytes512 (macReq 0x200 0 0x300) ++ leBytes 8 0x80 ++ [1, 2] ++ [1, 2, 3, 4]))] }
    let th : Nat := 3
    let rd : Nat := 4
    let k : Nat := 4
    let o : SOp := sop (.call 3) 5 0 macKey (bytes512 (macReq 0x200 0 0x300) ++ leBytes 8 0x80 ++ [1, 2] ++ [1, 2, 3, 4])
    let Verifies : BitVec 512 → Prop := fun raw => o.fail = 0 ∧ rget o.mat KS.mode = 5 ∧ rget raw EN.opcode = 4 ∧ rget raw CE.aadLen = 0
    let raw : BitVec 512 := packBytes 512 (List.take 64 o.req)
    let u : Word := 0
    s.sops = [(k, o)] ∧
    o.seq ≠ none ∧
    s.opWaits o = false ∧
    ¬(9, xferOp k) ∈ s.xfer ∧
    o.use = SUse.call th ∧
    Verifies raw ∧
    (s.th th).wait = some { rd := rd, value := u, ready := false, op := k + 1, call := none }) ∧
    (let s : State := { (rings live [(WQ.state, 1), (WQ.type, 4), (WQ.cr, 0)] [(CR.state, 1), (CR.log2, 6)]).setWqa 1 { WqAux.reset with ents := [⟨5, macReq 0x200 0 0x300, 2, [], 0⟩] } with sops := [(4, sop (.entry 1 5) 5 0 macKey ([1, 2, 1, 2, 3, 4]))] }
    let k : Nat := 4
    let w : Nat := 1
    let x : Nat := 5
    let o : SOp := sop (.entry 1 5) 5 0 macKey ([1, 2, 1, 2, 3, 4])
    let Verifies : BitVec 512 → Prop := fun raw => o.fail = 0 ∧ rget o.mat KS.mode = 5 ∧ rget raw EN.opcode = 4 ∧ rget raw CE.aadLen = 0
    let e : Ent := ⟨5, macReq 0x200 0 0x300, 2, [], 0⟩
    s.sops = [(k, o)] ∧
    o.seq ≠ none ∧
    s.opWaits o = false ∧
    ¬(9, xferOp k) ∈ s.xfer ∧
    o.use = SUse.entry w x ∧
    s.ent w x = some e ∧
    Verifies e.raw ∧
    tblWf (fun x => 0) s.inst = true ∧
    s.instSealed (s.wqInst w) = false) ∧
    (let s : State := { runs 3 0x40 0x80 with store := mwrite (mwrite (mwrite [] 0x40 (bytes512 (macReq 0x200 0 0x300))) 0x200 [1, 2]) 0x300 [1, 2, 3, 4], slots := [(5, macKey)] }
    let th : Nat := 3
    let rs1 : Nat := 1
    let rs2 : Nat := 2
    let a : Nat := BitVec.toNat (s.qr th rs1)
    let b : Nat := BitVec.toNat (s.qr th rs2)
    Issues s th ∧
    UnitTakes s th SCARAB.base 9 ∧
    a % 64 = 0 ∧
    b % 64 = 0 ∧
    OwnRange s th a 64 ∧
    OwnRange s th b 64 ∧
    s.secThread th = false) ∧
    (let s : State := tlsIn 6
    let k : Nat := 4
    let d : Nat := 9
    let o : SOp := sop (.inline 9) 5 6 (slotOf [(KS.state, 1), (KS.use, 3), (KS.mode, 1), (KS.dec, 1)]) (leBytes 8 (2 * 2 ^ 40))
    let v : Desc := s.desc d
    let se : Nat := leAt o.req 0 8
    s.sops = [(k, o)] ∧
    o.seq ≠ none ∧
    s.opWaits o = false ∧
    ¬(9, xferOp k) ∈ s.xfer ∧
    o.use = SUse.inline d ∧
    seEnc se = false ∧
    o.fail = 6 ∧
    (s.pkt v.pkt).work = none) ∧
    (let s : State := { tlsIn 0 with admq := [(24, [3, 9])] }
    let k : Nat := 4
    let d : Nat := 9
    let o : SOp := sop (.inline 9) 5 0 (slotOf [(KS.state, 1), (KS.use, 3), (KS.mode, 1), (KS.dec, 1)]) (leBytes 8 (2 * 2 ^ 40))
    let v : Desc := s.desc d
    let se : Nat := leAt o.req 0 8
    let q : Nat := 24
    s.sops = [(k, o)] ∧
    o.seq ≠ none ∧
    s.opWaits o = false ∧
    ¬(9, xferOp k) ∈ s.xfer ∧
    o.use = SUse.inline d ∧
    seEnc se = false ∧
    o.fail = 0 ∧
    seProto se = 2 ∧
    rget o.mat KS.use = 3 ∧
    rget o.mat KS.dec = 1 ∧
    v.tcpPayload ≠ none ∧
    rget (s.tlsOf d o) TL.sync = 0 ∧
    v.decrypted = false ∧
    v.words = [] ∧
    v.dk = 2 ∧
    v.ipid = false ∧
    s.storFlow v.flowIdx = false ∧
    s.admOf d = some q) := by
  refine ⟨?_, ?_, ?_, ?_, ?_, ?_⟩ <;> (try dsimp only [MayWrite, Issues, OnLink, OwnRange, OwnStore, Holds, UnitTakes, NoHold, NoWork, PinsFollow]) <;> decide +kernel

theorem meets_storageParts :
    (let s : State := { up7 live 1 [] with sreqs := [(9, sreq [2])], sparts := [(2, spart 0 0 0xFFFF)] }
    let r : Nat := 9
    let k : Nat := 2
    let c : Nat := 7
    let q : SReq := sreq [2]
    let p : SPart := s.part k
    let x : Conn := s.cx c
    let up : Prop := s.inService STOR.base = true ∧ s.domUp 10 = true
    let actor : Nat := 1
    let v : Word := 1
    up ∧
    s.sreqs = [(r, q)] ∧
    q.parts = [k] ∧
    p.phase = 0 ∧
    p.cmd = 0 ∧
    p.ext = 1 ∧
    p.conn = c ∧
    c < 4096 ∧
    s.cng c CN.state = 1 ∧
    s.cng c CN.transport = 1 ∧
    1 ≤ s.cng c CN.qdepth ∧
    s.connParts c = [] ∧
    p.req = r ∧
    q.squash = false ∧
    x.wnd = 0 ∧
    s.hdg c = false ∧
    tblWf (fun x => SPart.none) s.sparts = true ∧
    MayWrite s actor STOR.MAP_FENCE.reg ∧
    BitVec.getLsbD v 0 = true) ∧
    (let s : State := { up7 live 1 [] with sreqs := [(9, sreq [2])], sparts := [(2, { spart 1 0 0xFFFF with ext := 0 })] }
    let r : Nat := 9
    let k : Nat := 2
    let q : SReq := sreq [2]
    let p : SPart := s.part k
    let up : Prop := s.inService STOR.base = true ∧ s.domUp 10 = true
    up ∧
    s.sreqs = [(r, q)] ∧
    q.parts = [k] ∧
    p.phase = 0 ∧
    p.cmd = 1 ∧
    p.ext = 0 ∧
    p.req = r) ∧
    (let s : State := roceIn { up7 (asleep live) 2 [] with sreqs := [(9, sreq [2, 3])], sparts := [(2, spart 1 5 2), (3, spart 1 5 3)], connx := [(7, { Conn.reset with rcv := 0xFFFFFF })] } 0xFFFFFF 2
    let k : Nat := 2
    let c : Nat := 7
    let d : Nat := 9
    let o : Nat := 42
    let u : Nat := 34
    let q : SReq := sreq [2, 3]
    let p : SPart := s.part k
    let x : Conn := s.cx c
    let Waits2 : State → Prop := fun t => ∃ j, j ∈ q.parts ∧ j ≠ k ∧ (t.part j).phase ≠ 7
    let b : Bytes := slice (s.desc d).bytes (o + 12)
      (u + beAt (s.desc d).bytes (u + 4) 2 - 4 - bits (byteAt (s.desc d).bytes (o + 1)) 5 4 - (o + 12))
    s.domUp 10 = true ∧
    s.domState 1 = 9 ∧
    s.storIn = [d] ∧
    s.storConn d = some c ∧
    s.cng c CN.transport = 2 ∧
    List.find? (fun e => e.fst == 22) (s.desc d).prec.hdrs = some (22, o) ∧
    List.find? (fun e => e.fst == 14) (s.desc d).prec.hdrs = some (14, u) ∧
    byteAt (s.desc d).bytes o = 4 ∧
    beAt (s.desc d).bytes (o + 9) 3 = x.rcv ∧
    List.length b = 16 ∧
    s.cidPart c (leAt b 12 2) = some k ∧
    leAt b 14 2 / 2 = 0 ∧
    p.cmd = 1 ∧
    s.sreqs = [(p.req, q)] ∧
    Waits2 s ∧
    (s.pkt (s.desc d).pkt).work = none) ∧
    (let s : State := { up7 (noHives (timed (fun e => { e with clk := 3000000 }))) 2 [] with sreqs := [(9, sreq [2, 3])], sparts := [(2, spart 1 5 2), (3, spart 1 0 3)] }
    let k : Nat := 2
    let c : Nat := 7
    let q : SReq := sreq [2, 3]
    let p : SPart := s.part k
    let Waits2 : State → Prop := fun t => ∃ j, j ∈ q.parts ∧ j ≠ k ∧ (t.part j).phase ≠ 7
    s.cng c CN.state = 1 ∧
    c < 4096 ∧
    s.connParts c = [k] ∧
    p.phase = 5 ∧
    p.cmd = 1 ∧
    p.clk + s.cng c CN.timeout * 1500000 ≤ s.edryn.clk ∧
    s.sreqs = [(p.req, q)] ∧
    Waits2 s ∧
    s.hiveIn (s.cng c CN.hive) = false) ∧
    (let s : State := { up7 (asleep (timed (fun e => { e with clk := 3000 }))) 1 [] with connx := [(7, { Conn.reset with una := 0xFFFFFFFF, nxt := 2, timer := 3000, rto := 5, out := [1, 2, 3] })] }
    let c : Nat := 7
    let x : Conn := s.cx c
    let mss : Nat := s.cng c CN.mss
    let n : Nat := min mss (min (List.length x.out) x.flight)
    let fl : Nat := (if (List.take n x.out).isEmpty = true then 16 else 24) + if x.ece = true then 64 else 0
    let f : Bytes := s.tcpFrame c x.una x.rcv (s.tcpWin c) fl x.tsRecent (List.take n x.out)
    s.cng c CN.state = 1 ∧
    s.cng c CN.transport = 1 ∧
    x.timer ≠ 0 ∧
    x.timer ≤ s.edryn.clk ∧
    x.cwr = false ∧
    cellsOf (List.length f) ≤ s.poolFree ∧
    s.descFree ≠ 0 ∧
    s.domState 1 = 9) := by
  refine ⟨?_, ?_, ?_, ?_, ?_⟩
  · (try dsimp only [MayWrite, Issues, OnLink, OwnRange, OwnStore, Holds, UnitTakes, NoHold, NoWork, PinsFollow]) <;> decide +kernel
  · (try dsimp only [MayWrite, Issues, OnLink, OwnRange, OwnStore, Holds, UnitTakes, NoHold, NoWork, PinsFollow]) <;> decide +kernel
  · (try dsimp only [MayWrite, Issues, OnLink, OwnRange, OwnStore, Holds, UnitTakes, NoHold, NoWork, PinsFollow]) <;> decide +kernel
  · (try dsimp only [MayWrite, Issues, OnLink, OwnRange, OwnStore, Holds, UnitTakes, NoHold, NoWork, PinsFollow]) <;> decide +kernel
  · refine ⟨?_, ?_, ?_, ?_, ?_, Nat.le_trans (Laws.cellsOf_mono (Laws.length_tcpFrame _ _ _ _ _ _ _ _)) (by decide +kernel), ?_, ?_⟩ <;> (try dsimp only [MayWrite, Issues, OnLink, OwnRange, OwnStore, Holds, UnitTakes, NoHold]) <;> decide +kernel

theorem meets_foragerChannels :
    (let s : State := (forager (live) 511 [(FR.state, 0), (FR.log2, 5), (FR.feed, 0)])
    let actor : Nat := 1
    let c : Nat := 511
    let ctl : Nat := FORAGER.CH_CTL.reg c
    let st : Nat := s.chg c FR.state
    let mine : Prop := isPf actor = true ∨ isThread actor = true
    let g : Nat := 7
    c < 512 ∧
    actorOk actor = true ∧
    mine ∧
    MayWrite s actor ctl ∧
    st = 0 ∧
    s.chStartOk (s.chr c) = false ∧
    (s.chRestOk (s.chr c) = false ∨ ¬s.instState (s.chg c FR.owner) ∈ [1, 2, 3]) ∧
    st ≠ 1 ∧
    st ≠ 2 ∧
    (st = 0 ∨ st = 4 ∨ st = 5) ∧
    MayWrite s actor (FORAGER.CH_DB.reg c) ∧
    (st = 0 ∨ s.chg c FR.feed = 0) ∧
    g < 8 ∧
    s.groupLive g = []) ∧
    (let s : State := (forager (live) 511 [(FR.state, 1), (FR.prod, 0x3F), (FR.doneI, 0xFFFFFFFF)])
    let actor : Nat := 1
    let c : Nat := 511
    let ctl : Nat := FORAGER.CH_CTL.reg c
    let st : Nat := s.chg c FR.state
    let mine : Prop := isPf actor = true ∨ isThread actor = true
    let v : Word := 0x3F
    let dn : Nat := s.chg c FR.doneI
    let w : Nat := getF v 31 0
    c < 512 ∧
    actorOk actor = true ∧
    mine ∧
    MayWrite s actor ctl ∧
    st ≠ 0 ∧
    (st = 1 ∨ st = 2) ∧
    s.fdescs = [] ∧
    s.chg c FR.feed = 1 ∧
    s.chg c FR.notify = 0 ∧
    (st = 1 ∨ st = 2 ∨ st = 3) ∧
    MayWrite s actor (FORAGER.CH_DB.reg c) ∧
    sub32 (s.chg c FR.prod) dn ≤ sub32 w dn ∧
    sub32 w dn ≤ 2 ^ s.chg c FR.log2) ∧
    (let actor : Nat := 0x2000
    let c : Nat := 511
    let mine : Prop := isPf actor = true ∨ isThread actor = true
    c < 512 ∧
    actorOk actor = true ∧
    ¬mine) ∧
    (let s : State := (forager (live) 511 [(FR.state, 0)])
    let actor : Nat := 1
    let c : Nat := 511
    let ctl : Nat := FORAGER.CH_CTL.reg c
    let st : Nat := s.chg c FR.state
    let mine : Prop := isPf actor = true ∨ isThread actor = true
    c < 512 ∧
    actorOk actor = true ∧
    mine ∧
    MayWrite s actor ctl ∧
    st = 0 ∧
    s.chStartOk (s.chr c) = true) ∧
    (let s : State := (forager (live) 511 [(FR.state, 1), (FR.prod, 2), (FR.doneI, 0)])
    let actor : Nat := 1
    let c : Nat := 511
    let v : Word := 65
    let st : Nat := s.chg c FR.state
    let dn : Nat := s.chg c FR.doneI
    let w : Nat := getF v 31 0
    let mine : Prop := isPf actor = true ∨ isThread actor = true
    c < 512 ∧
    actorOk actor = true ∧
    mine ∧
    MayWrite s actor (FORAGER.CH_DB.reg c) ∧
    st ≠ 0 ∧
    st ≠ 5 ∧
    s.chg c FR.feed = 1 ∧
    (sub32 w dn < sub32 (s.chg c FR.prod) dn ∨ 2 ^ s.chg c FR.log2 < sub32 w dn) ∧
    s.chg c FR.notify = 0) ∧
    (let s : State := (forager (live) 511 [(FR.state, 2), (FR.feed, 0)])
    let actor : Nat := 1
    let c : Nat := 511
    let ctl : Nat := FORAGER.CH_CTL.reg c
    let st : Nat := s.chg c FR.state
    let mine : Prop := isPf actor = true ∨ isThread actor = true
    c < 512 ∧
    actorOk actor = true ∧
    mine ∧
    MayWrite s actor ctl ∧
    (st = 1 ∨ st = 2) ∧
    s.fdescs = [] ∧
    s.chg c FR.feed = 0) ∧
    (let s : State := { (forager (live) 511 [(FR.state, 2)]).pb (FORAGER.GRP_CTL.INTERLEAVED 7) true with fdescs := [(4, fdesc 511 1 (fillD []))] }
    let actor : Nat := 1
    let c : Nat := 511
    let k : Nat := 4
    let d : FDesc := fdesc 511 1 (fillD [])
    let ctl : Nat := FORAGER.CH_CTL.reg c
    let st : Nat := s.chg c FR.state
    let mine : Prop := isPf actor = true ∨ isThread actor = true
    c < 512 ∧
    actorOk actor = true ∧
    mine ∧
    MayWrite s actor ctl ∧
    st = 2 ∧
    s.fdescs = [(k, d)] ∧
    d.ch = c ∧
    d.phase = 1 ∧
    d.stop = 0) ∧
    (let s : State := { (forager (live) 511 [(FR.state, 3)]) with fdescs := [(4, fdesc 511 2 (fillD []))] }
    let actor : Nat := 1
    let c : Nat := 511
    let g : Nat := 7
    c < 512 ∧
    actorOk actor = true ∧
    g < 8 ∧
    s.groupLive g ≠ []) ∧
    (let s : State := ((forager (live) 511 [(FR.state, 0), (FR.log2, 6), (FR.feed, 0), (FR.owner, 3)])).wi 3 IR.state 2
    let actor : Nat := 1
    let c : Nat := 511
    let ctl : Nat := FORAGER.CH_CTL.reg c
    let mine : Prop := isPf actor = true ∨ isThread actor = true
    c < 512 ∧
    actorOk actor = true ∧
    mine ∧
    MayWrite s actor ctl ∧
    s.chRestOk (s.chr c) = true ∧
    s.chg c FR.feed = 0 ∧
    s.instState (s.chg c FR.owner) ∈ [2, 3]) := by
  refine ⟨?_, ?_, ?_, ?_, ?_, ?_, ?_, ?_, ?_⟩ <;> (try dsimp only [MayWrite, Issues, OnLink, OwnRange, OwnStore, Holds, UnitTakes, NoHold, NoWork, PinsFollow]) <;> decide +kernel

theorem meets_foragerDescriptors :
    (let s : State := { (forager (live) 5 [(FR.state, 1), (FR.next, 63), (FR.doneI, 63), (FR.prod, 65)]) with store := mwrite [] (3 * hsSize + 0x10C0) (bytes512 (fillD [(FD.len, 0)])) }
    let c : Nat := 5
    let i : Nat := s.chg c FR.next
    let at_ : Nat → Nat := fun n => s.chg c FR.base + 64 * (n % 2 ^ s.chg c FR.log2)
    let raw : BitVec 512 := packBytes 512 (padTo 56 (s.hsRead (s.chg c FR.rhive) (at_ i) 64))
    let e : Nat := 4
    s.inService FORAGER.base = true ∧
    s.domState 11 = 0 ∧
    s.chg c FR.feed = 1 ∧
    s.chg c FR.notify = 0 ∧
    s.chg c FR.rspace = 2 ∧
    s.chg c FR.base + 64 * 2 ^ s.chg c FR.log2 ≤ s.secureFrom (s.chg c FR.rhive) ∧
    s.chg c FR.state = 1 ∧
    s.fdescs = [] ∧
    i ≠ s.chg c FR.prod ∧
    s.hasJob (DmaUse.fdesc c) = false ∧
    s.fdReason raw false = e ∧
    e ≠ 0 ∧
    e < 256) ∧
    (let s : State := { (forager (live) 5 [(FR.state, 1), (FR.next, 64), (FR.doneI, 64), (FR.prod, 65)]) with store := mwrite [] (3 * hsSize + 0x100) (bytes512 (fillD [])) }
    let c : Nat := 5
    let i : Nat := s.chg c FR.next
    let at_ : Nat → Nat := fun n => s.chg c FR.base + 64 * (n % 2 ^ s.chg c FR.log2)
    let raw : BitVec 512 := packBytes 512 (padTo 56 (s.hsRead (s.chg c FR.rhive) (at_ i) 64))
    let Fill : BitVec 512 → Prop := fun r =>
      rget r FD.opcode = 2 ∧ rget r FD.dstSpace = 1 ∧ rget r FD.len % 64 = 0 ∧ 1 ≤ rget r FD.len ∧ rget r FD.len ≤ 4096
    s.inService FORAGER.base = true ∧
    s.domState 11 = 0 ∧
    s.chg c FR.feed = 1 ∧
    s.chg c FR.notify = 0 ∧
    s.chg c FR.rspace = 2 ∧
    s.chg c FR.base + 64 * 2 ^ s.chg c FR.log2 ≤ s.secureFrom (s.chg c FR.rhive) ∧
    s.chg c FR.state = 1 ∧
    s.fdescs = [] ∧
    i ≠ s.chg c FR.prod ∧
    s.hasJob (DmaUse.fdesc c) = false ∧
    Fill raw ∧
    s.fdReason raw false = 0 ∧
    rget raw EN.fence = 0 ∧
    rget raw EN.timed = 0 ∧
    s.gb (FORAGER.GRP_CTL.INTERLEAVED (s.chg c FR.group)) = false ∧
    s.gb (FORAGER.GRP_CTL.MODE_NOW (s.chg c FR.group)) = false) ∧
    (let s : State := { (forager ((timed (fun e => { e with time := 100 * 65536 }))) 5 [(FR.state, 2)]) with fdescs := [(4, fdesc 5 1 (fillD [(FD.start, 100)]))] }
    let c : Nat := 5
    let k : Nat := 4
    let d : FDesc := fdesc 5 1 (fillD [(FD.start, 100)])
    let Fill : BitVec 512 → Prop := fun r =>
      rget r FD.opcode = 2 ∧ rget r FD.dstSpace = 1 ∧ rget r FD.len % 64 = 0 ∧ 1 ≤ rget r FD.len ∧ rget r FD.len ≤ 4096
    s.inService FORAGER.base = true ∧
    s.domState 11 = 0 ∧
    s.chg c FR.feed = 1 ∧
    s.chg c FR.notify = 0 ∧
    s.chg c FR.rspace = 2 ∧
    s.chg c FR.base + 64 * 2 ^ s.chg c FR.log2 ≤ s.secureFrom (s.chg c FR.rhive) ∧
    s.fdescs = [(k, d)] ∧
    d.ch = c ∧
    Fill d.raw ∧
    d.pos = 0 ∧
    d.stop = 0 ∧
    s.chg c FR.state = 2 ∧
    d.phase = 1 ∧
    rget d.raw FD.byTrig = 0 ∧
    s.gb (FORAGER.GRP_CTL.INTERLEAVED (s.chg c FR.group)) = false ∧
    s.gb (FORAGER.GRP_CTL.MODE_NOW (s.chg c FR.group)) = false ∧
    rget d.raw FD.start ≤ s.ns ∧
    (d.late = false ∨ rget d.raw FD.lateSkip = 0)) ∧
    (let s : State := { (forager ((timed (fun e => { e with time := 100 * 65536 }))) 5 [(FR.state, 2)]) with fdescs := [(4, fdesc 5 1 (fillD [(FD.start, 101)]))] }
    let c : Nat := 5
    let k : Nat := 4
    let d : FDesc := fdesc 5 1 (fillD [(FD.start, 101)])
    let Fill : BitVec 512 → Prop := fun r =>
      rget r FD.opcode = 2 ∧ rget r FD.dstSpace = 1 ∧ rget r FD.len % 64 = 0 ∧ 1 ≤ rget r FD.len ∧ rget r FD.len ≤ 4096
    s.inService FORAGER.base = true ∧
    s.domState 11 = 0 ∧
    s.chg c FR.feed = 1 ∧
    s.chg c FR.notify = 0 ∧
    s.chg c FR.rspace = 2 ∧
    s.chg c FR.base + 64 * 2 ^ s.chg c FR.log2 ≤ s.secureFrom (s.chg c FR.rhive) ∧
    s.fdescs = [(k, d)] ∧
    d.ch = c ∧
    Fill d.raw ∧
    d.pos = 0 ∧
    d.stop = 0 ∧
    s.chg c FR.state = 2 ∧
    d.phase = 1 ∧
    rget d.raw FD.byTrig = 0 ∧
    s.gb (FORAGER.GRP_CTL.INTERLEAVED (s.chg c FR.group)) = false ∧
    s.gb (FORAGER.GRP_CTL.MODE_NOW (s.chg c FR.group)) = false ∧
    s.ns < rget d.raw FD.start) ∧
    (let s : State := { (forager (live) 5 [(FR.state, 1), (FR.next, 64), (FR.prod, 64), (FR.doneI, 64)]) with fdescs := [(4, fdesc 5 2 (fillD []))] }
    let c : Nat := 5
    let k : Nat := 4
    let d : FDesc := fdesc 5 2 (fillD [])
    let Fill : BitVec 512 → Prop := fun r =>
      rget r FD.opcode = 2 ∧ rget r FD.dstSpace = 1 ∧ rget r FD.len % 64 = 0 ∧ 1 ≤ rget r FD.len ∧ rget r FD.len ≤ 4096
    s.inService FORAGER.base = true ∧
    s.domState 11 = 0 ∧
    s.chg c FR.feed = 1 ∧
    s.chg c FR.notify = 0 ∧
    s.chg c FR.rspace = 2 ∧
    s.chg c FR.base + 64 * 2 ^ s.chg c FR.log2 ≤ s.secureFrom (s.chg c FR.rhive) ∧
    s.fdescs = [(k, d)] ∧
    d.ch = c ∧
    Fill d.raw ∧
    d.pos = 0 ∧
    d.stop = 0 ∧
    s.chg c FR.state = 1 ∧
    d.phase = 2 ∧
    d.entry = none ∧
    d.late = false ∧
    rget d.raw EN.solicit = 0 ∧
    ¬(11, 2 ^ 44 + k) ∈ s.xfer) := by
  refine ⟨?_, ?_, ?_, ?_, ?_⟩ <;> (try dsimp only [MayWrite, Issues, OnLink, OwnRange, OwnStore, Holds, UnitTakes, NoHold, NoWork, PinsFollow]) <;> decide +kernel

/-! Hypotheses that need more than a value: checks of a write, change records, an image that passes. -/

/-- WriteChecks: units asleep, actors without permission, claims of another. -/
theorem meets_writeChecks :
    (∀ a ∈ [PORT.MODE.reg 3, SCARAB.SLOT_CTL.reg, SCARAB.PROG_CTL.reg, SCARAB.TLS_SYNC_A.reg, HIVE.MIGRATE.reg 3,
      STOR.MAP_FENCE.reg, INST.CMD.reg], (unitAt a).any (fun i => (live.p (PWR.DOM_STAT.STATE i.dom) 2).domDown i.dom) = true) ∧
    (∀ a ∈ [EDRYN.ADJ_FREQ.reg, EDRYN.ADJ_PHASE.reg, EDRYN.STEP.reg, EDRYN.BOUND.reg, EDRYN.SERVO_CTL.reg, TRIG.CTL.reg 5,
      PWR.VOTE.reg, PWR.OFF.reg, PORT.MODE.reg 3, SCARAB.SLOT_CTL.reg, SCARAB.PROG_CTL.reg, SCARAB.TLS_SYNC_A.reg,
      HIVE.MIGRATE.reg 3, STOR.MAP_FENCE.reg, INST.CMD.reg],
      (unitAt a).any (fun i => !live.domDown i.dom &&
        !(live.modTrust (fun t => { t with words := [(1, 0), (2, 0), (3, 0), (4, 0)] })).permits 0x100 i.type) = true ∧
      (unitAt a).any (fun i => live.permits 1 i.type) = true ∧
      (claimOver a).any (fun e => !(live.setReg e.1 2).claimAllows e.1 1) = true) := by
  decide +kernel

/-- QueronCounts: a thread issues. -/
theorem meets_queronCounts : Issues (runs 3 0 5) 3 := by
  dsimp only [Issues]; decide +kernel

/-- PinsFollowKept and QueueTail: a step from a state whose pins follow it. -/
theorem meets_pinsFollowKept : ∃ t, step { live with pending := [.bootComplete] } = .next t := ⟨_, rfl⟩

/-- ChitinChanges: a record that passes, from each party, with nothing waiting and with one waiting; one with the epoch of
another; a party may submit; a window that is over. -/
theorem meets_chitinRecords :
    (((party 1 none).chitinCheck (chRec1 1)).isRight = true ∧ (party 1 none).trust.pend = none) ∧
    (((party 1 (some (1, chRec1 1, 9))).chitinCheck (chRec1 1)).isRight = true ∧
      (party 1 (some (1, chRec1 1, 9))).trust.pend.filter
        (fun e => (party 1 (some (1, chRec1 1, 9))).edryn.clk < e.2.2) = some (1, chRec1 1, 9)) ∧
    ((party 1 (some (2, [1], 0))).trust.pend = some (2, [1], 0) ∧ 0 ≤ (party 1 (some (2, [1], 0))).edryn.clk) ∧
    ((party 2 none).chitinCheck (chRec1 2)).getLeft? = some (5, 0) ∧
    (party 1 none).trust.sessions.contains (9, true) = true ∧
    (1 = (party 1 none).owner ∧ (party 1 none).writeGate 1 CHITIN.SUBMIT_H.reg = none ∧
      chRec1 1 = (party 1 none).stagedRecord) := by
  refine ⟨⟨?_, rfl⟩, ⟨?_, ?_⟩, ⟨rfl, Nat.zero_le _⟩, ?_, ?_, ?_⟩ <;> decide +kernel

/-- An image of four empty segments, its key and its signature. -/
def imgKeyBytes : Bytes := beBytes 48 0xD5136D1655C65B914E665C9ED35E4E01D1D8DA847736957A6A751EA4CF2F80A1380F08C2AE239BC498D1B1BB3FBA744F ++
  beBytes 48 0xE746B1CE69A33EBE8E8A90604F1B2804397CF0410FED1BEB08A12E00F8E7F3EC07A6774569844826D0370826F7F1F9F
def image : Bytes :=
  leBytes 4 0x3631514B ++ leBytes 4 1 ++ leBytes 8 5 ++ leBytes 4 1024 ++ [4] ++ List.replicate 43 0 ++ imgKeyBytes ++
  [1, 2, 3, 4].flatMap (fun t => leBytes 4 t ++ leBytes 4 7 ++ leBytes 4 1024 ++ leBytes 4 0 ++
    beBytes 48 0x38B060A751AC96384CD9327EB1B1E36A21FDB71114BE07434C0CC7BF63F6E1DA274EDEBFE76F65FBD51AD2F14898B95B) ++
  List.replicate 512 0 ++ beBytes 48 0xDC7E1036C897369D612147C855AF5D9BCBAD2A04EA6B368F9F704A4E8C6E05D09BBD09015DBE2E02B8F69245220FF840 ++
  beBytes 48 0x6425A916983B12EF143C0813D8C1A419ADBF807A0E4D77879C1BF34F09E4AD5D040A4E0DD35A3B7AF80F3CE32482243
/-- A device whose first fused digest is that of the key. -/
def fused (s : State) : State :=
  s.modTrust (fun t => { t with fuseKeys := [(0, beBytes 48 0x156AA57D0FBEEE59B2F843922172AE6031EA841D1884EC9C310A7B2C32854AFF0BB82A56F34CA1A61A90A12E5B57681D)] })

/-- BootSequence and HiveUpdate: an image that passes at start-up, in recovery and in service. -/
theorem meets_passingImage :
    (fused (phased 3)).bootReason image = 0 ∧
    (let s : State := fused ((live.modHv 5 (fun v => { v with
        staged := (List.range 16).map (fun k => (k, packBytes 512 (slice image (64 * k) 64))) })).p (UNIT.SVC.CUR (HIVE.base 5)) 3);
      NoWork s ∧ s.ownCur (HIVE.base 5) = 3 ∧ (s.hv 5).staged ≠ [] ∧ (s.hv 5).checked = 0 ∧ s.svcTag (HIVE.base 5) / 4 ≠ 3 ∧
      s.serviceReason (stagedBytes (s.hv 5).staged) [2] = 0) := by
  refine ⟨?_, ?_⟩ <;> (try dsimp only [NoWork]) <;> decide +kernel

/-! The checks of WellFormed: a term that is out of range by one for each, and terms at the ends of ranges. -/

theorem test_illFormed : [Instr.registerWrite 0 0 true 0, .registerWrite 5 0 true 0, .registerWrite 0x1300 0 true 0,
    .registerWrite 1 (2 ^ 32) true 0, .hostReadTlp 4 0 0 4 0 0, .hostReadTlp 0 5 0 4 0 0, .hostReadTlp 0 0 (2 ^ 32) 4 0 0,
    .hostReadTlp 0 0 0 4097 0 0, .hostReadTlp 0 0 0 4 (2 ^ 16) 0, .hostReadTlp 0 0 0 4 0 1024, .svcReqWrite 1 0x123 0,
    .svcReqWrite 1 0x400_0000 16, .claim 1 0x123, .tapDataWrite 1 0x400_0000 8 0, .timePageRead 2048 true, .ppsEdge 2,
    .ptmResponse 0 (2 ^ 64) 0, .ptmResponse 0 0 (2 ^ 32), .trigArm 1 256 0, .linkTrained 0 64 0 true,
    .linkTrained 0 0 32 true].all (fun i => !i.wellFormed) = true := by decide +kernel

theorem test_illFormedRanges : [Instr.completionRx 0 0 true 8 4 0 [], .completionRx 0 0 true 0 4 128 [],
    .peerWindowTlp 0 0 0 (2 ^ 30) 4 false false [], .translationCompletion 0 0 0 0 65 true true, .wqDoorbell 0 4096 0,
    .crDoorbell 0 2048 true false 0, .entryFetch 131072 1, .coalTimer 65536, .ageVisit 4194304, .dispatch 24, .scarabAlarm 6,
    .maskReseed 20, .pairFaultClear 1 (2 ^ 20), .threadStart 1 768 0, .threadStart 1 0 (2 ^ 19), .hiveStall 12,
    .debugHalt [0, 768], .lic 0 0 (2 ^ 21), .lic 0 32 0, .bfx 0 1 1 0 false 64 1, .bfx 0 1 1 0 false 0 0, .bfx 0 1 1 0 false 0 65,
    .mailboxWrite 1 13 0 0 0, .mailboxWrite 1 0 2112 0 0, .mailboxWrite 1 0 0 4 0, .idleEnter 26,
    .sysResetRelease 16 0 [] [] true, .faultEvent 8 0 0 0 0 0].all (fun i => !i.wellFormed) = true := by decide +kernel

theorem test_wellFormed : [Instr.registerWrite 0x12FF (2 ^ 32 - 1) true 0, .hostReadTlp 3 4 0 4096 0xFFFF 1023, .trigArm 0x2002 255 0,
    .bfx 767 31 31 7 true 63 64, .mailboxWrite 0x8FF 12 2111 3 0, .debugHalt [767], .idleEnter 25].all (fun i => i.wellFormed) = true := by
  decide +kernel

/-! Single operations and steps. The values expected come from the spec's worked examples, or from the standard that
the test names. -/

/-- The state after a command that completes. -/
def after (o : Host.Outcome State Fault Refusal) : State := match o with
  | .next t => t
  | _ => State.reset

theorem test_reset_queue : State.reset.pending = [] := rfl
/-- Chapter 0: thread 5 of core 3 in HIVE11 is actor 0x12DD. -/
theorem test_actor : thActor (11 * 64 + 3 * 8 + 5) = 0x12DD := by decide
/-- Chapter 2: core 3 of HIVE5 has its header at 0x0566_0000. -/
theorem test_unitBase : (unitInfo 0x0566_0000).map (fun u => (u.type.code, u.inst)) = some (0x0E, 3) := by decide +kernel
/-- Chapter 3: BOUND after 1 h and after 8 h of HOLDOVER from 38 ns. -/
theorem test_holdover : holdBound 38 10000 1800 3_600_000 = 86 ∧ holdBound 38 10000 1800 28_800_000 = 1073 := by decide
/-- Chapter 3: a word clock of 48 kHz is a valid CLOCK output with a width of half its period. -/
theorem test_wordClock : ffValid 2 0x5161_5555 0 0 = true := by decide +kernel
/-- Chapter 4: comparator 20 fires once across a step of 600,000 ns and covers two instants. -/
theorem test_trigStepped :
    let s := (((timed (fun e => { e with time := (1_750_000_000_000_000_000 + 1_600_100) * nsUnit })).p (TRIG.TIME.NS 20)
      (1_750_000_000_000_000_000 + 1_250_000)).p (TRIG.PERIOD.NS 20) 250_000).trigFire 20 false true
    s.g (TRIG.LAST.NS 20) = 1_750_000_000_000_000_000 + 1_500_000 ∧ s.g (TRIG.LAST_INFO.MISSED 20) = 1 ∧
    s.g (TRIG.TIME.NS 20) = 1_750_000_000_000_000_000 + 1_750_000 := by decide +kernel
/-- Chapter 8: a doorbell 257 past RETIRE of a WQ of 256 entries is an overrun. -/
theorem test_wqOverrun :
    let s := after (exec (.wqDoorbell 7 1 0x81) (rings live [(WQ.state, 1), (WQ.log2, 8), (WQ.retire, 0xFFFF_FF80), (WQ.fetch, 0x18),
      (WQ.prod, 0x80), (WQ.cr, 0)] [(CR.log2, 6)]))
    s.wqg 1 WQ.errProd = 0x81 ∧ s.wqg 1 WQ.errIndex = 0xFFFF_FF80 := by decide +kernel
/-- Chapter 8: a consumer doorbell across the wrap that is past PROD is dropped. -/
theorem test_crWrap :
    let s := rings live [] [(CR.state, 1), (CR.log2, 6), (CR.cons, 0xFFFF_FFF0), (CR.prod, 0x20)]
    (after (exec (.crDoorbell 7 0 false false 0x10) s)).crg 0 CR.cons = 0x10 ∧
    (after (exec (.crDoorbell 7 0 false false 0x30) s)).crg 0 CR.cons = 0xFFFF_FFF0 := by decide +kernel
/-- Chapter 9: the walk of a tagged IPv6 frame with VXLAN whose inner IPv4 total length is 900. -/
theorem test_parse :
    let f : Bytes := List.replicate 12 1 ++ [0x88, 0xA8, 0, 1, 0x81, 0x00, 0, 2, 0x86, 0xDD] ++
      [0x60, 0, 0, 0] ++ beBytes 2 938 ++ [0, 64] ++ List.replicate 32 3 ++ [43, 0, 0, 0, 0, 0, 0, 0] ++
      [60, 2] ++ List.replicate 22 0 ++ [17, 0, 0, 0, 0, 0, 0, 0] ++ beBytes 2 9 ++ beBytes 2 4789 ++ beBytes 2 898 ++ [0, 0] ++
      [8, 0, 0, 0, 0, 0, 7, 0] ++ List.replicate 12 1 ++ [0x81, 0x00, 0, 5, 8, 0] ++ [0x45, 0] ++ beBytes 2 900 ++
      [0, 0, 0, 0, 64, 6, 0, 0] ++ List.replicate 852 0
    let r := parseFrame pcfgDefault f
    f.length = 1000 ∧ r.cls = 2 ∧ r.reason = 0x13 ∧ r.hdrs.map (fun e => e.2) = [0, 14, 18, 22, 62, 70, 94, 102, 110, 118, 132, 136] ∧
    (r.ol3, r.ol4, r.tun, r.il2, r.il3, r.il4, r.payOff) = (3, 7, 8, 9, 11, 0xFF, 156) ∧ r.flags % 4 = 0 := by decide +kernel
/-- Chapter 11: the buckets of the hash 0x7B3E_91C4. -/
theorem test_buckets : bucket1 0x7B3E_91C4 = 430_532 ∧ bucket2 0x7B3E_91C4 = 252_404 := by decide
/-- Chapter 15: a read of 1,024 blocks over three targets has five parts. -/
theorem test_parts :
    let n : BitVec 1024 := [(NS.lbaLog2, 12), (NS.base, 16_777_216), (NS.next, 12_582_912), (NS.conn 0, 10), (NS.conn 1, 11), (NS.conn 2, 12),
      (NS.rnsid 0, 1), (NS.rnsid 1, 1), (NS.rnsid 2, 1)].foldl (fun r e => rput r e.1 e.2) 0
    let s : State := { State.reset with nsRec := [(40, n)] }
    ((s.splitParts 40 0 ([(SE.opcode, 2), (SE.slba, 1_000_000), (SE.nlb, 1023)].foldl (fun r e => rput r e.1 e.2) 0) []).map
      (fun p => (p.lba, p.nlb, p.off))) =
      [(1_000_000, 192, 0), (1_000_192, 256, 786_432), (1_000_448, 256, 1_835_008), (1_000_704, 256, 2_883_584), (1_000_960, 64, 3_932_160)] := by
  decide +kernel
/-- Chapter 16: an AINTERLEAVE of 48 frames of 40 channels has bursts of 34 and 14 frames; a 24-bit sample loses its low byte. -/
theorem test_interleave :
    let r : BitVec 512 := [(FD.opcode, 6), (FD.fmt, 3), (FD.nch, 40), (FD.len, 48), (FD.stride, 192)].foldl (fun r e => rput r e.1 e.2) 0
    burstLen r 0 = 34 ∧ burstLen r 34 = 14 ∧ sampleOut (audioB r) [0x00, 0xEF, 0xCD, 0xAB] = [0xAB, 0xCD, 0xEF] := by decide +kernel
/-- Chapter 18: BNE at 0x404 with OFF 5 goes to 0x418; LWU reads the INDEX at record bytes 4–7. -/
theorem test_bne : ((after (exec (.bne 3 1 0 5) ((runs 3 1 0).modTh 3 (fun v => { v with pc := 0x404 })))).th 3).pc = 0x418 := by
  decide +kernel
theorem test_lwu : (after (exec (.lwu 3 13 1 4) { runs 3 0x100 0 with store := mwrite [] 0x104 [0x78, 0x56, 0x34, 0xF2] })).qr 3 13 =
    0xF2345678 := by decide +kernel
/-- R370: a sum is modulo 2^64. -/
theorem test_addWraps : ((after (exec (.add 3 4 1 2) (runs 3 (2 ^ 64 - 1) 2))).qr 3 4) = 1 := by decide +kernel
/-- Chapter 21: the eighth corrected error of a row inside one hour is lasting; one at minute 65 is not, as minute 0 has left. -/
theorem test_window :
    let at_ (s : State) (m : Nat) : State := { s with edryn := { s.edryn with time := m * 60 * 10 ^ 9 * nsUnit } }
    let s := [0, 10, 20, 30, 40, 50, 55, 65].foldl (fun s m => (at_ s m).hbmEvent 5) live
    s.repair.hbm = live.repair.hbm ∧ ((at_ s 68).hbmEvent 5).repair.hbm ≠ live.repair.hbm := by decide +kernel
/-- FIPS 180-4: SHA-384 of "abc". -/
theorem test_sha384 : (sha384 [97, 98, 99]).take 8 = [0xCB, 0x00, 0x75, 0x3F, 0x45, 0xA3, 0x5E, 0x8B] := by decide +kernel
/-- FIPS 197, sections 4.2.1 and 5.1.1: 0x57 times x, and the S-box at 0x53. -/
theorem test_aes : Aes.xtime 0x57 = 0xAE ∧ Aes.sub 0x53 = 0xED := by decide +kernel
/-- CRC-32C of "123456789" (RFC 3720). -/
theorem test_crc32c : crc32c 0xFFFF_FFFF ((List.range 9).map (fun k => BitVec.ofNat 8 (49 + k))) = 0xE306_9283 := by decide +kernel

end Sys2Proof.Tests
end

section
/-! PROOFS. Writing a comparator of TRIG (R91): fields of a word whose lowest bit is forced, the frame of register
writes and events, the addresses of a comparator's block, and the cases of a write of `CTLn`. -/

namespace Sys2Proof

open Machine

/-! Fields of words. -/

/-- A field is told by its own bits. -/
theorem getF_congr {v w : Word} {hi lo : Nat} (h : ∀ i, lo ≤ i → v.getLsbD i = w.getLsbD i) :
    getF v hi lo = getF w hi lo := by
  refine Nat.eq_of_testBit_eq fun k => ?_
  have hk : v.toNat.testBit (k + lo) = w.toNat.testBit (k + lo) := h (k + lo) (by omega)
  simp only [getF, bits, Nat.testBit_mod_two_pow, Nat.testBit_div_two_pow, hk]

theorem getF_bit (v : Word) (i : Nat) : getF v i i = (v.getLsbD i).toNat := by
  simp [getF, bits, BitVec.getLsbD, Nat.toNat_testBit]

theorem getF_lt (v : Word) (hi lo : Nat) : getF v hi lo < 2 ^ (hi + 1 - lo) := bits_lt _ _ _

theorem getF_or_one (v : Word) (hi : Nat) {lo : Nat} (h : 1 ≤ lo) : getF (v ||| 1) hi lo = getF v hi lo :=
  getF_congr fun i hi => by
    have : i ≠ 0 := by omega
    simp [BitVec.getLsbD_one, this]

theorem getF_and_not_one (v : Word) (hi : Nat) {lo : Nat} (h : 1 ≤ lo) : getF (v &&& ~~~1) hi lo = getF v hi lo :=
  getF_congr fun i hi => by
    have : i ≠ 0 := by omega
    have h1 : (1 : Word).getLsbD i = false := by simp [BitVec.getLsbD_one, this]
    rw [BitVec.getLsbD_and, BitVec.getLsbD_not, h1]
    by_cases h64 : i < 64
    · simp [h64]
    · simp [BitVec.getLsbD_of_ge v i (by omega)]

theorem getF_or_one_low (v : Word) : getF (v ||| 1) 0 0 = 1 := by simp [getF_bit]

theorem getF_and_not_one_low (v : Word) : getF (v &&& ~~~1) 0 0 = 0 := by simp [getF_bit]

/-! Register writes and events: what they leave alone. -/

/-- `u` is `s` but for the registers of the list and the links on which events are signalled. -/
def Touches (l : List Nat) (s u : State) : Prop :=
  u = { s with regs := u.regs, links := u.links } ∧ ∀ a, a ∉ l → u.reg a = s.reg a

theorem Touches.refl (l : List Nat) (s : State) : Touches l s s := ⟨rfl, fun _ _ => rfl⟩

theorem Touches.p {l : List Nat} {s u : State} (h : Touches l s u) {f : Fld} (v : Nat) (hf : f.reg ∈ l) :
    Touches l s (u.p f v) := by
  refine ⟨?_, fun a ha => ?_⟩
  · rw [h.1]; rfl
  · rw [reg_p_ne _ _ _ _ (ne_of_mem_of_not_mem hf ha).symm, h.2 a ha]

theorem Touches.evt {l : List Nat} {s u : State} (h : Touches l s u) (b k : Nat) (hb : UNIT.EVT.reg b ∈ l) :
    Touches l s (u.evt b k) := by
  refine ⟨?_, fun a ha => ?_⟩
  · rw [evt_links, h.1]
  · rw [evt_reg, if_neg (ne_of_mem_of_not_mem hb ha).symm, h.2 a ha]

theorem Touches.pending {l : List Nat} {s u : State} (h : Touches l s u) : u.pending = s.pending := by rw [h.1]

theorem Touches.ns {l : List Nat} {s u : State} (h : Touches l s u) : u.ns = s.ns := by rw [State.ns, h.1]; rfl

/-- What a command that touches the registers of a list leaves. -/
theorem Touches.sameBut {l : List Nat} {s u t : State} (h : Touches l s u) (ht : Same u t) :
    SameBut l { s with links := t.links } t := by
  have hl : t.links = u.links := same_view ht (fun s => s.links) (fun _ _ _ => rfl)
  refine sameBut_of ht ?_ h.2
  rw [hl]; exact h.1

/-- The same where no event is signalled. -/
theorem Touches.sameBut_of_links {l : List Nat} {s u t : State} (h : Touches l s u) (hl : u.links = s.links)
    (ht : Same u t) : SameBut l s t := by
  refine sameBut_of ht ?_ h.2
  have := h.1
  rwa [hl] at this

theorem p_links (s : State) (f : Fld) (v : Nat) : (s.p f v).links = s.links := rfl

theorem g_evt_ne (s : State) {u : Nat} (b : Nat) {f : Fld} (h : f.reg ≠ UNIT.EVT.reg u) : (s.evt u b).g f = s.g f := by
  simp [State.g, evt_reg, h]

theorem evtErr_bit (s : State) (u : Nat) : ((s.evtErr u).reg (UNIT.EVT.reg u)).getLsbD 6 = true := by
  simp [State.evtErr, evt_reg]

/-! The block of a comparator (R89): its unit, its claim word and its registers. -/

/-- TRIG as the map of units gives it (R40). -/
def trigUnit : UnitInfo := ⟨TRIG.base, .trig, 0, 0, 0, 20⟩

theorem unitAt_trig {off : Nat} (h : off < 0x10_0000) : unitAt (TRIG.base + off) = some trigUnit := by
  have hm : (TRIG.base + off) / 0x10_0000 = 9 := by simp only [TRIG.base]; omega
  simp only [unitAt, hm]
  rfl

/-- The offset of a comparator's register that stands `k` bytes into its block. -/
def blockOff (n k : Nat) : Nat := 0x1000 + 64 * n + k

theorem blockOff_lt {n k : Nat} (hn : n < 256) (hk : k < 64) : blockOff n k < 0x5000 := by
  simp only [blockOff]; omega

theorem unitAt_block {n k : Nat} (hn : n < 256) (hk : k < 64) : unitAt (TRIG.base + blockOff n k) = some trigUnit :=
  unitAt_trig (Nat.lt_trans (blockOff_lt hn hk) (by omega))

/-- Every register of a comparator's block has the comparator's claim word over it (R102). -/
theorem claimOver_block {n k : Nat} (hn : n < 256) (hk : k < 64) :
    claimOver (TRIG.base + blockOff n k) = some (TRIG.CLAIM.reg n, TRIG.base) := by
  have h1 : ¬ blockOff n k < 0x40 := by simp only [blockOff]; omega
  have h2 : 0x1000 ≤ blockOff n k := by simp only [blockOff]; omega
  have h3 : (blockOff n k - 0x1000) / 0x40 = n := by simp only [blockOff]; omega
  simp [claimOver, unitAt_block hn hk, trigUnit, hasTap, h1, h2, h3, blockOff_lt hn hk]

/-- AON is never in SLEEP or DEEP (R42). -/
theorem domDown_aon (s : State) : s.domDown 0 = false := by simp [State.domDown, State.domState]

/-- Of a comparator's registers only `CLAIMn` is a claim word (R57). -/
theorem claimUnit_block {n k : Nat} (hn : n < 256) (hk : k < 64) (h : k ≠ 0x30) :
    claimUnit (TRIG.base + blockOff n k) = none := by
  have h1 : blockOff n k ≠ 0x38 := by simp only [blockOff]; omega
  have h2 : (blockOff n k - 0x1000) % 0x40 ≠ 0x30 := by simp only [blockOff]; omega
  simp [claimUnit, unitAt_block hn hk, trigUnit, h1, h2]

/-- The checks of a write are the same at every register of the block. -/
theorem writeGate_block (s : State) (actor : Nat) {n k : Nat} (hn : n < 256) (hk : k < 64) :
    s.writeGate actor (TRIG.base + blockOff n k) =
      if !s.permits actor .trig then some (s.evtErr TRIG.base)
      else if s.claimAllows (TRIG.CLAIM.reg n) actor then none else some (s.evtConflict TRIG.base) := by
  simp [State.writeGate, unitAt_block hn hk, claimOver_block hn hk, trigUnit, domDown_aon]

theorem ctl_reg_block (n : Nat) : TRIG.CTL.reg n = TRIG.base + blockOff n 0 := by
  simp only [TRIG.CTL.reg, blockOff]; omega
theorem time_reg_block (n : Nat) : TRIG.TIME.reg n = TRIG.base + blockOff n 8 := by
  simp only [TRIG.TIME.reg, blockOff]; omega
theorem period_reg_block (n : Nat) : TRIG.PERIOD.reg n = TRIG.base + blockOff n 16 := by
  simp only [TRIG.PERIOD.reg, blockOff]; omega
theorem arg_reg_block (n : Nat) : TRIG.ARG.reg n = TRIG.base + blockOff n 24 := by
  simp only [TRIG.ARG.reg, blockOff]; omega

/-- Chitin permits no actor of an I/O page to write a unit (R432). -/
theorem permits_inst (s : State) {actor : Nat} (t : UType) (h : isInst actor = true) : s.permits actor t = false := by
  have hr := h
  simp only [isInst, Bool.and_eq_true, decide_eq_true_eq] at hr
  have ho : s.owner < 8 := Nat.mod_lt _ (by omega)
  have h1 : actor ≠ 0x2000 := by omega
  have h2 : actor ≠ s.owner := by omega
  simp [State.permits, h1, h2, h]

theorem notInst_of_mayWrite_ctl {s : State} {actor n : Nat} (hn : n < 256) (h : MayWrite s actor (TRIG.CTL.reg n)) :
    isInst actor = false := by
  have hg := h.2
  rw [ctl_reg_block, writeGate_block s actor hn (by omega)] at hg
  cases hi : isInst actor
  · rfl
  · simp [permits_inst s .trig hi] at hg

/-- The descriptors of `TIMEn`, `PERIODn` and `ARGn`, with their places in the block. -/
def setupRegs : List (Nat × RegDesc) :=
  [(8, ⟨0x1008, 64, 256, [⟨63, 0, .rw, 0, some 0⟩]⟩), (16, ⟨0x1010, 64, 256, [⟨47, 0, .rw, 0, some 0⟩]⟩),
   (24, ⟨0x1018, 64, 256, [⟨63, 0, .rw, 0, some 0⟩]⟩)]

/-- A search that starts at a register of the blocks: it ends there, or goes on behind it. -/
theorem findReg_cons_block {n k o : Nat} (f : List FieldDesc) (l : List RegDesc) (hn : n < 256) (hk : k < 64)
    (ho : 0x1000 ≤ o ∧ o < 0x1040) :
    findReg (⟨o, 64, 256, f⟩ :: l) (blockOff n k) =
      if o = 0x1000 + k then some (⟨o, 64, 256, f⟩, n) else findReg l (blockOff n k) := by
  have covers : (o ≤ blockOff n k ∧ (blockOff n k - o) % 64 = 0 ∧ (blockOff n k - o) / 64 < 256) ↔ o = 0x1000 + k := by
    simp only [blockOff]; omega
  have copy : (blockOff n k - (0x1000 + k)) / 64 = n := by simp only [blockOff]; omega
  simp only [findReg, List.find?_cons, show (64 : Nat) ≠ 0 by omega, if_false, covers]
  by_cases h : o = 0x1000 + k
  · simp [h, copy]
  · simp [h]

theorem findReg_setup {n : Nat} (hn : n < 256) :
    ∀ e ∈ setupRegs, findReg regs_TRIG (blockOff n e.1) = some (e.2, n) := by
  simp [setupRegs, regs_TRIG, findReg_cons_block, hn]

theorem regAt_setup {n : Nat} (hn : n < 256) :
    ∀ e ∈ setupRegs, regAt (TRIG.base + blockOff n e.1) = some (trigUnit, e.2, n) := by
  intro e he
  have hk : e.1 < 64 := by revert e; decide
  have hl : ¬ blockOff n e.1 < 0x40 := by simp only [blockOff]; omega
  have ho : TRIG.base + blockOff n e.1 - TRIG.base = blockOff n e.1 := Nat.add_sub_cancel_left _ _
  have hf := findReg_setup hn e he
  simp only [regAt, unitAt_block hn hk]
  simp only [trigUnit, ho, hasTap, regsOf, hl, if_false, Bool.false_and, Bool.false_eq_true, hf, reduceCtorEq, false_and]

/-- A write of `TIMEn`, `PERIODn` or `ARGn` of an armed comparator is ignored with ERROR (R91). -/
theorem regWrite_setup_armed {s : State} {actor n : Nat} (v : Word) (hn : n < 256)
    (hw : s.writeGate actor (TRIG.CTL.reg n) = none) (ha : s.trigArmed n = true) :
    ∀ e ∈ setupRegs, s.regWrite actor (TRIG.base + blockOff n e.1) true v = (none, s.evtErr TRIG.base) := by
  intro e he
  have hk : e.1 < 64 ∧ e.1 ≠ 0x30 ∧ e.1 % 8 = 0 := by revert e; decide
  have hr : e.2.off ≠ 0x40 ∧ e.2.off ≠ 0x1000 ∧ reach (TRIG.base + blockOff n e.1) true &&&
      accMask e.2 (fun a => a == .rw || a == .w1c || a == .w1s || a == .wo) ≠ 0#64 := by
    simp only [reach, if_true]
    revert e; decide
  obtain ⟨hk, hclaim, hk8⟩ := hk
  obtain ⟨hpend, hctl, hopen⟩ := hr
  have hal : (TRIG.base + blockOff n e.1) / 8 * 8 = TRIG.base + blockOff n e.1 := by
    simp only [TRIG.base, blockOff]; omega
  have hg : s.writeGate actor (TRIG.base + blockOff n e.1) = none := by
    rw [ctl_reg_block, writeGate_block s actor hn (by omega)] at hw
    rw [writeGate_block s actor hn hk, hw]
  have hl : ¬ blockOff n e.1 < 0x40 := by simp only [blockOff]; omega
  simp [State.regWrite, hal, regAt_setup hn e he, inChan, State.writeListed, claimUnit_block hn hk hclaim, trigUnit,
    hl, domDown_aon, inTap, hasTap, gated_eq _ hg, hopen, State.writeUnit, State.writeTrig, hpend, hctl, ha]

/-! The cases of a write of `CTLn` (R91). -/

/-- What a write sets while ARM is 1. -/
def ctlArmed (s : State) (n : Nat) (v : Word) : State :=
  (s.p (TRIG.CTL.NOTIFY n) (getF v 1 1)).p (TRIG.CTL.ARM n) (getF v 0 0)

/-- What a write sets while ARM is 0, apart from arming. -/
def ctlIdle (s : State) (n : Nat) (v : Word) : State :=
  (s.p (TRIG.CTL.NOTIFY n) (getF v 1 1)).p (TRIG.CTL.ACTION n) (getF v 15 8)

/-- What arming adds. -/
def ctlArms (s : State) (actor n : Nat) : State :=
  (((s.pb (TRIG.CTL.ARM n) true).p (TRIG.CTL.ARMED_BY n) actor).p (TRIG.CTL.COUNT n) 0).p (TRIG.LAST_INFO.MISSED n) 0

/-- The fields of `CTLn` after a write of an armed comparator. -/
theorem ctlArmed_fields (s : State) (n : Nat) (v : Word) :
    (ctlArmed s n v).g (TRIG.CTL.ARM n) = getF v 0 0 ∧ (ctlArmed s n v).g (TRIG.CTL.NOTIFY n) = getF v 1 1 ∧
    (ctlArmed s n v).g (TRIG.CTL.ACTION n) = s.g (TRIG.CTL.ACTION n) ∧
    (ctlArmed s n v).g (TRIG.CTL.ARMED_BY n) = s.g (TRIG.CTL.ARMED_BY n) ∧
    (ctlArmed s n v).g (TRIG.CTL.COUNT n) = s.g (TRIG.CTL.COUNT n) := by
  have h0 : getF v 0 0 % 2 = getF v 0 0 := Nat.mod_eq_of_lt (getF_lt v 0 0)
  have h1 : getF v 1 1 % 2 = getF v 1 1 := Nat.mod_eq_of_lt (getF_lt v 1 1)
  simp [ctlArmed, TRIG.CTL.ARM, TRIG.CTL.NOTIFY, TRIG.CTL.ACTION, TRIG.CTL.ARMED_BY, TRIG.CTL.COUNT, g_p_same,
    g_p_disjoint, h0, h1]

theorem ctlIdle_fields (s : State) (n : Nat) (v : Word) :
    (ctlIdle s n v).g (TRIG.CTL.NOTIFY n) = getF v 1 1 ∧ (ctlIdle s n v).g (TRIG.CTL.ACTION n) = getF v 15 8 ∧
    (ctlIdle s n v).g (TRIG.CTL.ARM n) = s.g (TRIG.CTL.ARM n) := by
  have h1 : getF v 1 1 % 2 = getF v 1 1 := Nat.mod_eq_of_lt (getF_lt v 1 1)
  have h8 : getF v 15 8 % 256 = getF v 15 8 := Nat.mod_eq_of_lt (getF_lt v 15 8)
  simp [ctlIdle, TRIG.CTL.ARM, TRIG.CTL.NOTIFY, TRIG.CTL.ACTION, g_p_same, g_p_disjoint, h1, h8]

theorem ctlArms_fields (s : State) {actor : Nat} (n : Nat) (ha : actor < 2 ^ 16) :
    (ctlArms s actor n).g (TRIG.CTL.ARM n) = 1 ∧ (ctlArms s actor n).g (TRIG.CTL.ARMED_BY n) = actor ∧
    (ctlArms s actor n).g (TRIG.CTL.COUNT n) = 0 ∧ (ctlArms s actor n).g (TRIG.LAST_INFO.MISSED n) = 0 ∧
    (ctlArms s actor n).g (TRIG.CTL.ACTION n) = s.g (TRIG.CTL.ACTION n) ∧
    (ctlArms s actor n).g (TRIG.CTL.NOTIFY n) = s.g (TRIG.CTL.NOTIFY n) := by
  have hr : TRIG.CTL.reg n ≠ TRIG.LAST_INFO.reg n := by simp only [TRIG.CTL.reg, TRIG.LAST_INFO.reg]; omega
  have hact : actor % 65536 = actor := Nat.mod_eq_of_lt ha
  simp [ctlArms, State.pb, b2n, TRIG.CTL.ARM, TRIG.CTL.NOTIFY, TRIG.CTL.ACTION, TRIG.CTL.ARMED_BY, TRIG.CTL.COUNT,
    TRIG.LAST_INFO.MISSED, g_p_same, g_p_disjoint, g_p_reg_ne, hr, hact]

theorem ctlArmed_touches (s : State) (n : Nat) (v : Word) {l : List Nat} (h : TRIG.CTL.reg n ∈ l) :
    Touches l s (ctlArmed s n v) := ((Touches.refl l s).p _ h).p _ h

theorem ctlIdle_touches (s : State) (n : Nat) (v : Word) {l : List Nat} (h : TRIG.CTL.reg n ∈ l) :
    Touches l s (ctlIdle s n v) := ((Touches.refl l s).p _ h).p _ h

theorem ctlArms_ctlIdle_touches (s : State) (actor n : Nat) (v : Word) :
    Touches [TRIG.CTL.reg n, TRIG.LAST_INFO.reg n] s (ctlArms (ctlIdle s n v) actor n) := by
  have hc : TRIG.CTL.reg n ∈ [TRIG.CTL.reg n, TRIG.LAST_INFO.reg n] := by simp
  have hi : TRIG.LAST_INFO.reg n ∈ [TRIG.CTL.reg n, TRIG.LAST_INFO.reg n] := by simp
  exact ((((ctlIdle_touches s n v hc).p _ hc).p _ hc).p _ hc).p _ hi

/-- A write of an armed comparator that is not due. -/
theorem trigCtl_armed {s : State} {n : Nat} (actor : Nat) (v : Word) (ha : s.trigArmed n = true) (hd : s.trigDue n = false) :
    s.trigCtl actor n v =
      if getF v 15 8 = s.g (TRIG.CTL.ACTION n) then ctlArmed s n v else (ctlArmed s n v).evtErr TRIG.base := by
  obtain ⟨-, -, hact, -, -⟩ := ctlArmed_fields s n v
  simp only [ctlArmed] at hact
  simp [State.trigCtl, ha, hd, ctlArmed, hact]

theorem trigDue_unarmed {s : State} {n : Nat} (h : s.trigArmed n = false) : s.trigDue n = false := by
  simp [State.trigDue, h]

/-- Another register than `CTLn` and `LAST_INFOn` is as it was. -/
theorem ctlIdle_g {s : State} {n : Nat} (v : Word) {f : Fld} (h : f.reg ≠ TRIG.CTL.reg n) : (ctlIdle s n v).g f = s.g f := by
  rw [ctlIdle, g_p_reg_ne _ _ _ _ h, g_p_reg_ne _ _ _ _ h]

theorem ctlArms_g {s : State} {n : Nat} (actor : Nat) {f : Fld} (hc : f.reg ≠ TRIG.CTL.reg n)
    (hi : f.reg ≠ TRIG.LAST_INFO.reg n) : (ctlArms s actor n).g f = s.g f := by
  rw [ctlArms, State.pb, g_p_reg_ne _ _ _ _ hi, g_p_reg_ne _ _ _ _ hc, g_p_reg_ne _ _ _ _ hc, g_p_reg_ne _ _ _ _ hc]

/-- What R91 asks of a write that arms: an action and argument of the action table, no period or one of at least 1,000. -/
def ArmOk (s : State) (n : Nat) (v : Word) : Prop :=
  trigArgOk (getF v 15 8) (s.g (TRIG.ARG.ARG n)) = true ∧ (s.g (TRIG.PERIOD.NS n) = 0 ∨ 1000 ≤ s.g (TRIG.PERIOD.NS n))

/-- The model's test for a refusal, on the state in which it stands. -/
theorem refusal_iff_not_armOk (s : State) (n : Nat) (v : Word) :
    ((!trigArgOk (getF v 15 8) ((ctlIdle s n v).g (TRIG.ARG.ARG n))) = true ∨
      (ctlIdle s n v).g (TRIG.PERIOD.NS n) ≠ 0 ∧ (ctlIdle s n v).g (TRIG.PERIOD.NS n) < 1000) ↔ ¬ ArmOk s n v := by
  have harg : (ctlIdle s n v).g (TRIG.ARG.ARG n) = s.g (TRIG.ARG.ARG n) :=
    ctlIdle_g v (by simp only [TRIG.ARG.ARG, TRIG.ARG.reg, TRIG.CTL.reg]; omega)
  have hper : (ctlIdle s n v).g (TRIG.PERIOD.NS n) = s.g (TRIG.PERIOD.NS n) :=
    ctlIdle_g v (by simp only [TRIG.PERIOD.NS, TRIG.PERIOD.reg, TRIG.CTL.reg]; omega)
  rw [harg, hper, ArmOk]
  cases trigArgOk (getF v 15 8) (s.g (TRIG.ARG.ARG n)) with
  | false => simp only [Bool.not_false, true_or, Bool.false_eq_true, false_and, not_false_eq_true]
  | true => simp only [Bool.not_true, Bool.false_eq_true, false_or, true_and]; omega

/-- A write that sets ARM while it is 0 and that R91 refuses. -/
theorem trigCtl_refused {s : State} {n : Nat} (actor : Nat) {v : Word} (ha : s.trigArmed n = false) (hv : getF v 0 0 = 1)
    (h : ¬ ArmOk s n v) : s.trigCtl actor n v = (ctlIdle s n v).evtErr TRIG.base := by
  have hr := (refusal_iff_not_armOk s n v).mpr h
  simp only [ctlIdle] at hr ⊢
  simp only [State.trigCtl, trigDue_unarmed ha, ha, hv, Bool.false_eq_true, if_false, Nat.one_ne_zero, if_pos hr]

/-- One that R91 accepts, for a future instant. -/
theorem trigCtl_arms {s : State} {n : Nat} (actor : Nat) {v : Word} (ha : s.trigArmed n = false) (hv : getF v 0 0 = 1)
    (h : ArmOk s n v) (ht : s.ns < s.g (TRIG.TIME.NS n)) : s.trigCtl actor n v = ctlArms (ctlIdle s n v) actor n := by
  have hr := (not_congr (refusal_iff_not_armOk s n v)).mpr (not_not_intro h)
  have hns : (ctlArms (ctlIdle s n v) actor n).ns = s.ns := (ctlArms_ctlIdle_touches s actor n v).ns
  have hfut : ¬ (ctlArms (ctlIdle s n v) actor n).g (TRIG.TIME.NS n) ≤ (ctlArms (ctlIdle s n v) actor n).ns := by
    rw [hns, ctlArms_g, ctlIdle_g, Nat.not_le]
    · exact ht
    all_goals simp only [TRIG.TIME.NS, TRIG.TIME.reg, TRIG.CTL.reg, TRIG.LAST_INFO.reg]; omega
  simp only [ctlIdle, ctlArms] at hr hfut ⊢
  simp only [State.trigCtl, trigDue_unarmed ha, ha, hv, Bool.false_eq_true, if_false, Nat.one_ne_zero]
  split
  · contradiction
  · split
    · exact absurd ‹_ ∧ _›.1 hfut
    · rfl

/-! The commands that write a comparator. -/

theorem exec_trigArm {s : State} {actor n : Nat} (v : Word) (hn : n < 256) (h : MayWrite s actor (TRIG.CTL.reg n)) :
    exec (.trigArm actor n v) s = done s (s.trigCtl actor n (v ||| 1)) := by
  have hn' : ¬ 256 ≤ n := by omega
  simp only [exec, execTrigArm, if_neg hn', act_gated _ h]

theorem exec_trigDisarm {s : State} {actor n : Nat} (v : Word) (hn : n < 256) (h : MayWrite s actor (TRIG.CTL.reg n)) :
    exec (.trigDisarm actor n v) s = done s (s.trigCtl actor n (v &&& ~~~1)) := by
  have hn' : ¬ 256 ≤ n := by omega
  simp only [exec, execTrigDisarm, if_neg hn', act_gated _ h]

theorem exec_writeSetup_armed {s : State} {actor n : Nat} (v : Word) (hn : n < 256) (h : MayWrite s actor (TRIG.CTL.reg n))
    (ha : s.trigArmed n = true) :
    ∀ e ∈ setupRegs, exec (.registerWrite actor (TRIG.base + blockOff n e.1) true v) s = done s (s.evtErr TRIG.base) := by
  intro e he
  have hk : e.1 % 8 = 0 := by revert e; decide
  have hal : aligned (TRIG.base + blockOff n e.1) true = true := by
    simp only [aligned, TRIG.base, blockOff, if_true, beq_iff_eq]; omega
  simp [exec, execRegisterWrite, act_eq _ h.1, hal, State.actorWrite, notInst_of_mayWrite_ctl hn h,
    regWrite_setup_armed v hn h.2 ha e he]

/-- What a write of `CTLn` of an armed comparator gives, `arm` being its ARM bit. -/
def CtlApplied (s : State) (n : Nat) (v : Word) (arm : Nat) (t : State) : Prop :=
  let evt := UNIT.EVT.reg TRIG.base
  SameBut [TRIG.CTL.reg n, evt] { s with links := t.links } t ∧ t.g (TRIG.CTL.ARM n) = arm ∧
    t.g (TRIG.CTL.NOTIFY n) = getF v 1 1 ∧ t.g (TRIG.CTL.ACTION n) = s.g (TRIG.CTL.ACTION n) ∧
    t.g (TRIG.CTL.ARMED_BY n) = s.g (TRIG.CTL.ARMED_BY n) ∧ t.g (TRIG.CTL.COUNT n) = s.g (TRIG.CTL.COUNT n) ∧
    (if getF v 15 8 = s.g (TRIG.CTL.ACTION n) then t.reg evt = s.reg evt else (t.reg evt).getLsbD 6 = true)

theorem derivedRegs_below_trig : ∀ a ∈ derivedRegs, a < TRIG.base := by decide

/-- No register of TRIG is one that follows the state. -/
theorem trig_not_derived (off : Nat) : TRIG.base + off ∉ derivedRegs :=
  fun h => absurd (derivedRegs_below_trig _ h) (by omega)

theorem ctl_not_derived (n : Nat) : TRIG.CTL.reg n ∉ derivedRegs := by
  rw [ctl_reg_block]; exact trig_not_derived _

theorem trigEvt_not_derived : UNIT.EVT.reg TRIG.base ∉ derivedRegs := trig_not_derived 0x18

theorem lastInfo_not_derived (n : Nat) : TRIG.LAST_INFO.reg n ∉ derivedRegs := by
  rw [TRIG.LAST_INFO.reg, Nat.add_assoc]; exact trig_not_derived (0x1028 + 64 * n)

theorem ctl_ne_trigEvt (n : Nat) : TRIG.CTL.reg n ≠ UNIT.EVT.reg TRIG.base := by
  simp only [TRIG.CTL.reg, UNIT.EVT.reg]; omega

/-- A field of `CTLn` when the pins have settled, also after an ERROR of TRIG. -/
theorem same_ctl {u t : State} (h : Same u t) {n : Nat} {f : Fld} (hf : f.reg = TRIG.CTL.reg n) : t.g f = u.g f :=
  same_g h (hf ▸ ctl_not_derived n)
theorem same_evtErr_ctl {u t : State} (h : Same (u.evtErr TRIG.base) t) {n : Nat} {f : Fld} (hf : f.reg = TRIG.CTL.reg n) :
    t.g f = u.g f := (same_ctl h hf).trans (g_evt_ne u 6 (hf ▸ ctl_ne_trigEvt n))

/-- ERROR shows when the pins have settled. -/
theorem same_evtErr_bit {u t : State} (h : Same (u.evtErr TRIG.base) t) :
    (t.reg (UNIT.EVT.reg TRIG.base)).getLsbD 6 = true := by
  rw [same_reg h trigEvt_not_derived]; exact evtErr_bit _ _

/-- A command that ends in a write of `CTLn` of an armed comparator that is not due. -/
theorem completes_ctlArmed {c : Instr} {s : State} {actor n : Nat} {v w : Word}
    (he : exec c s = done s (s.trigCtl actor n w)) (hw : ∀ hi lo, 1 ≤ lo → getF w hi lo = getF v hi lo)
    (ha : s.trigArmed n = true) (hd : s.trigDue n = false) : Completes c s (CtlApplied s n v (getF w 0 0)) := by
  have hl : TRIG.CTL.reg n ∈ [TRIG.CTL.reg n, UNIT.EVT.reg TRIG.base] := by simp
  have touch := ctlArmed_touches s n w hl
  obtain ⟨harm, hnot, hact, hby, hcount⟩ := ctlArmed_fields s n w
  rw [trigCtl_armed actor w ha hd, hw _ _ (by omega)] at he
  rw [hw _ _ (by omega)] at hnot
  by_cases hsame : getF v 15 8 = s.g (TRIG.CTL.ACTION n)
  · rw [if_pos hsame] at he
    refine completes_of he touch.pending fun t ht => ⟨touch.sameBut ht, (same_ctl ht rfl).trans harm,
      (same_ctl ht rfl).trans hnot, (same_ctl ht rfl).trans hact, (same_ctl ht rfl).trans hby,
      (same_ctl ht rfl).trans hcount, ?_⟩
    rw [if_pos hsame, same_reg ht trigEvt_not_derived, (ctlArmed_touches s n w (List.mem_singleton_self _)).2]
    simpa using (ctl_ne_trigEvt n).symm
  · rw [if_neg hsame] at he
    have touchEvt := touch.evt TRIG.base 6 (by simp)
    refine completes_of he touchEvt.pending fun t ht => ⟨touchEvt.sameBut ht, (same_evtErr_ctl ht rfl).trans harm,
      (same_evtErr_ctl ht rfl).trans hnot, (same_evtErr_ctl ht rfl).trans hact, (same_evtErr_ctl ht rfl).trans hby,
      (same_evtErr_ctl ht rfl).trans hcount, ?_⟩
    rw [if_neg hsame]
    exact same_evtErr_bit ht

/-- A write of `TIMEn`, `PERIODn` or `ARGn` of an armed comparator. -/
theorem completes_setup_armed {s : State} {actor n : Nat} (v : Word) (hn : n < 256) (h : MayWrite s actor (TRIG.CTL.reg n))
    (ha : s.trigArmed n = true) {a : Nat} (hm : a ∈ [TRIG.TIME.reg n, TRIG.PERIOD.reg n, TRIG.ARG.reg n]) :
    Completes (.registerWrite actor a true v) s (fun t =>
      SameBut [UNIT.EVT.reg TRIG.base] { s with links := t.links } t ∧ (t.reg (UNIT.EVT.reg TRIG.base)).getLsbD 6 = true) := by
  have touch : Touches [UNIT.EVT.reg TRIG.base] s (s.evtErr TRIG.base) := (Touches.refl _ s).evt TRIG.base 6 (by simp)
  obtain ⟨e, hmem, rfl⟩ : ∃ e ∈ setupRegs, a = TRIG.base + blockOff n e.1 := by
    simpa [setupRegs, time_reg_block, period_reg_block, arg_reg_block] using hm
  exact completes_of (exec_writeSetup_armed v hn h ha e hmem) touch.pending fun t ht => ⟨touch.sameBut ht, same_evtErr_bit ht⟩

theorem arm_of_unarmed {s : State} {n : Nat} (h : s.trigArmed n = false) : s.g (TRIG.CTL.ARM n) = 0 := by
  have hlt : s.g (TRIG.CTL.ARM n) < 2 := getF_lt _ 0 0
  have hne : s.g (TRIG.CTL.ARM n) ≠ 1 := by simpa [State.trigArmed, State.gb] using h
  omega

/-- What a write sets apart from arming, and R91's tests, do not depend on its ARM bit. -/
theorem ctlIdle_or_one (s : State) (n : Nat) (v : Word) : ctlIdle s n (v ||| 1) = ctlIdle s n v := by
  simp only [ctlIdle, getF_or_one v 1 (Nat.le_refl 1), getF_or_one v 15 (show 1 ≤ 8 by omega)]
theorem armOk_or_one (s : State) (n : Nat) (v : Word) : ArmOk s n (v ||| 1) ↔ ArmOk s n v := by
  simp only [ArmOk, getF_or_one v 15 (show 1 ≤ 8 by omega)]

/-- A refused arming. -/
theorem completes_arm_refused {s : State} {actor n : Nat} {v : Word} (hn : n < 256) (h : MayWrite s actor (TRIG.CTL.reg n))
    (ha : s.trigArmed n = false) (hok : ¬ ArmOk s n v) :
    Completes (.trigArm actor n v) s (fun t => t.g (TRIG.CTL.ARM n) = 0 ∧ (t.reg (UNIT.EVT.reg TRIG.base)).getLsbD 6 = true ∧
      SameBut [TRIG.CTL.reg n, UNIT.EVT.reg TRIG.base] { s with links := t.links } t) := by
  have he := exec_trigArm v hn h
  rw [trigCtl_refused actor ha (getF_or_one_low v) ((not_congr (armOk_or_one s n v)).mpr hok), ctlIdle_or_one] at he
  obtain ⟨-, -, harm⟩ := ctlIdle_fields s n v
  have touch : Touches [TRIG.CTL.reg n, UNIT.EVT.reg TRIG.base] s ((ctlIdle s n v).evtErr TRIG.base) :=
    (ctlIdle_touches s n v (by simp)).evt TRIG.base 6 (by simp)
  exact completes_of he touch.pending fun t ht =>
    ⟨((same_evtErr_ctl ht rfl).trans harm).trans (arm_of_unarmed ha), same_evtErr_bit ht, touch.sameBut ht⟩

theorem actorOk_lt {actor : Nat} (h : actorOk actor = true) : actor < 2 ^ 16 := by
  simp only [actorOk, Bool.or_eq_true, Bool.and_eq_true, decide_eq_true_eq, beq_iff_eq] at h
  omega

/-- An arming for a future instant. -/
theorem completes_arm_future {s : State} {actor n : Nat} {v : Word} (hn : n < 256) (h : MayWrite s actor (TRIG.CTL.reg n))
    (ha : s.trigArmed n = false) (hok : ArmOk s n v) (hfut : s.ns < s.g (TRIG.TIME.NS n)) :
    Completes (.trigArm actor n v) s (fun t =>
      t.g (TRIG.CTL.ARM n) = 1 ∧ t.g (TRIG.CTL.ACTION n) = getF v 15 8 ∧ t.g (TRIG.CTL.NOTIFY n) = getF v 1 1 ∧
      t.g (TRIG.CTL.ARMED_BY n) = actor ∧ t.g (TRIG.CTL.COUNT n) = 0 ∧ t.g (TRIG.LAST_INFO.MISSED n) = 0 ∧
      SameBut [TRIG.CTL.reg n, TRIG.LAST_INFO.reg n] s t) := by
  have he := exec_trigArm v hn h
  rw [trigCtl_arms actor ha (getF_or_one_low v) ((armOk_or_one s n v).mpr hok) hfut, ctlIdle_or_one] at he
  obtain ⟨hnot, hact, -⟩ := ctlIdle_fields s n v
  obtain ⟨harm, hby, hcount, hmissed, hact', hnot'⟩ := ctlArms_fields (ctlIdle s n v) n (actorOk_lt h.1)
  have touch := ctlArms_ctlIdle_touches s actor n v
  have hlinks : (ctlArms (ctlIdle s n v) actor n).links = s.links := by
    rw [ctlArms, ctlIdle, State.pb]
    iterate 6 rw [p_links]
  exact completes_of he touch.pending fun t ht => ⟨(same_ctl ht rfl).trans harm, (same_ctl ht rfl).trans (hact'.trans hact),
    (same_ctl ht rfl).trans (hnot'.trans hnot), (same_ctl ht rfl).trans hby, (same_ctl ht rfl).trans hcount,
    (same_g ht (lastInfo_not_derived n)).trans hmissed, touch.sameBut_of_links hlinks ht⟩

/-- Settles O16: a write of `CTLn` by the state of ARM and by R91's three tests, and one of the registers that an
armed comparator keeps. -/
theorem trigControl : Obligations.TrigControl := by
  intro s actor n v hn hw
  refine ⟨fun ha hok => completes_arm_refused hn hw ha hok, fun ha hok ht => completes_arm_future hn hw ha hok ht,
    fun ha hd => ⟨?_, ?_, fun a hm => completes_setup_armed v hn hw ha hm⟩⟩
  · have := completes_ctlArmed (exec_trigArm v hn hw) (fun hi _ => getF_or_one v hi) ha hd
    rwa [getF_or_one_low] at this
  · have := completes_ctlArmed (exec_trigDisarm v hn hw) (fun hi _ => getF_and_not_one v hi) ha hd
    rwa [getF_and_not_one_low] at this

end Sys2Proof
end

section
/-! PROOFS. A write to a mailbox (R381): what the notification of the reading end (R384) leaves alone, the fields of
`CH_STAT`, and the write by the end that owns the mailbox. -/

namespace Sys2Proof

open Machine

/-! Notifying an end of a channel: threads, links and registers of units below the first WAGGLE change. -/

/-- `t` has the queue of `s` and the registers of `s` from the first WAGGLE upwards. -/
structure KeepsWaggles (s t : State) : Prop where
  pending : t.pending = s.pending
  reg : ∀ a, WAGGLE.base 0 ≤ a → t.reg a = s.reg a

namespace KeepsWaggles

theorem refl (s : State) : KeepsWaggles s s := ⟨rfl, fun _ _ => rfl⟩

theorem trans {s t u : State} (h : KeepsWaggles s t) (k : KeepsWaggles t u) : KeepsWaggles s u :=
  ⟨k.pending.trans h.pending, fun a ha => (k.reg a ha).trans (h.reg a ha)⟩

theorem g {s t : State} (h : KeepsWaggles s t) (f : Fld) (hf : WAGGLE.base 0 ≤ f.reg) : t.g f = s.g f := by
  rw [State.g, h.reg _ hf]; rfl

/-- What changes neither registers nor the queue. -/
theorem of_regs {s t : State} (hp : t.pending = s.pending) (hr : t.regs = s.regs) : KeepsWaggles s t :=
  ⟨hp, fun a _ => by rw [State.reg, hr]; rfl⟩

theorem p (s : State) (f : Fld) (v : Nat) (hf : f.reg < WAGGLE.base 0) : KeepsWaggles s (s.p f v) :=
  ⟨rfl, fun a ha => reg_p_ne s f v a (by omega)⟩

theorem inc (s : State) (f : Fld) (hf : f.reg < WAGGLE.base 0) : KeepsWaggles s (s.inc f) := p s f _ hf

theorem evt (s : State) (u b : Nat) (hu : UNIT.EVT.reg u < WAGGLE.base 0) : KeepsWaggles s (s.evt u b) :=
  ⟨by rw [evt_links], fun a ha => by rw [evt_reg, if_neg (by omega)]⟩

theorem signal (s : State) (l v : Nat) : KeepsWaggles s (s.signal l v) := by
  refine of_regs ?_ ?_ <;> rw [signal_links]

theorem thEvent (s : State) (t b : Nat) : KeepsWaggles s (s.thEvent t b) := by
  refine of_regs ?_ ?_ <;> rw [thEvent_frame]

theorem modLink (s : State) (l : Nat) (f : Link → Link) : KeepsWaggles s (s.modLink l f) := of_regs rfl rfl

theorem setInt (s : State) (e : Nat) (x : Word) : KeepsWaggles s (s.setInt e x) := of_regs rfl rfl

theorem foldl {α : Type} (l : List α) (f : State → α → State) (h : ∀ s x, x ∈ l → KeepsWaggles s (f s x)) (s : State) :
    KeepsWaggles s (l.foldl f s) := by
  induction l generalizing s with
  | nil => exact refl s
  | cons x r ih =>
    exact (h s x List.mem_cons_self).trans (ih (fun s y hy => h s y (List.mem_cons_of_mem x hy)) (f s x))

/-- The domains of the host links: 3 and 4 (R42). -/
theorem powerEvt_host (s : State) {d : Nat} (hd : d = 3 ∨ d = 4) : KeepsWaggles s (s.powerEvt d) := by
  have hu : ∀ u ∈ domUnits d, UNIT.EVT.reg u < WAGGLE.base 0 := by
    rcases hd with rfl | rfl <;> decide
  exact foldl _ _ (fun s u hm => evt s u 4 (hu u hm)) s

theorem setDomState_host (s : State) {d : Nat} (st step : Nat) (hd : d = 3 ∨ d = 4) :
    KeepsWaggles s (s.setDomState d st step) := by
  have hreg : PWR.DOM_STAT.reg d < WAGGLE.base 0 := by rcases hd with rfl | rfl <;> decide
  have hd1 : d ≠ 1 := by omega
  have hp := (p s (PWR.DOM_STAT.STATE d) st hreg).trans (p _ (PWR.DOM_STAT.STEP d) step hreg)
  simp only [State.setDomState, hd1, false_and, if_false]
  split
  · exact hp
  · exact hp.trans (powerEvt_host _ hd)

theorem wakeLink (s : State) (l : Nat) : KeepsWaggles s (s.wakeLink l) := by
  unfold State.wakeLink
  extract_lets d
  have hd : d = 3 ∨ d = 4 := by simp only [d]; split <;> simp
  split
  · exact setDomState_host s 0 0 hd
  · exact refl s

/-- A posted interrupt message: sent, or held behind earlier writes (R127). -/
theorem post_vector (s : State) (l : Nat) {q : Posted} {v : Nat} (hq : q.vector = some v) :
    KeepsWaggles s (s.post l q) := by
  unfold State.post
  extract_lets q' s' held
  have hs : KeepsWaggles s s' := (wakeLink s l).trans (modLink _ l _)
  split
  · simp only [State.sendPosted, q', hq]
    exact hs.trans (signal s' l v)
  · simp only [State.requestMiss, q', hq, Option.isSome_some, Bool.true_or, if_true]
    exact hs.trans (modLink s' l _)

theorem raiseEntry (s : State) (e : Nat) : KeepsWaggles s (s.raiseEntry e).2 := by
  unfold State.raiseEntry
  extract_lets w i l s'
  have hs : KeepsWaggles s s' := setInt s e _
  split
  · exact (inc s RING.INT_INVALID.COUNT (by decide)).trans (evt _ RING.base 10 (by decide))
  split
  · exact setInt s e _
  split
  · split
    · exact hs.trans (post_vector s' l rfl)
    · exact hs.trans (signal s' l _)
  · exact hs.trans (signal s' l _)

theorem ring (s : State) (w d : Nat) : KeepsWaggles s (s.ring w d) := by
  unfold State.ring
  split
  · split
    · exact signal _ _ _
    · exact refl s
  · refine foldl _ _ (fun s k _ => ?_) s
    split
    · exact thEvent _ _ _
    · exact refl s

theorem chNotify (s : State) (w c : Nat) (b force : Bool) : KeepsWaggles s (s.chNotify w c b force) := by
  unfold State.chNotify
  extract_lets k e en
  split
  · exact refl s
  split
  · exact ring s _ _
  split
  · exact refl s
  split
  · exact raiseEntry s _
  split
  · exact ring s 0 _
  · exact refl s

end KeepsWaggles

/-! Addresses of a channel block (R379). -/

theorem waggleBase_le (w : Nat) : WAGGLE.base 0 ≤ WAGGLE.base w := by
  by_cases h : w = 0
  · exact Nat.le_of_eq (by rw [h])
  · simp only [WAGGLE.base, HIVE.base, h, if_true, if_false]; omega

theorem waggleBase_le_chBlock (w c : Nat) : WAGGLE.base 0 ≤ chBlock w c :=
  Nat.le_trans (waggleBase_le w) (by simp only [chBlock]; omega)

theorem derivedRegs_below_waggle : ∀ a ∈ derivedRegs, a < WAGGLE.base 0 := by decide

theorem waggle_not_derived {a : Nat} (h : WAGGLE.base 0 ≤ a) : a ∉ derivedRegs :=
  fun hd => absurd (derivedRegs_below_waggle a hd) (by omega)

theorem chStat_ne_waggleEvt (w c : Nat) : CH.STAT.reg (chBlock w c) ≠ UNIT.EVT.reg (WAGGLE.base w) := by
  simp only [CH.STAT.reg, UNIT.EVT.reg, chBlock]; omega

theorem mailbox_ne_waggleEvt (w c m : Nat) : chBlock w c + 8 * m ≠ UNIT.EVT.reg (WAGGLE.base w) := by
  simp only [UNIT.EVT.reg, chBlock]; omega

theorem mailbox_ne_chStat (k : Nat) {m : Nat} (hm : m < 4) : k + 8 * m ≠ CH.STAT.reg k := by
  simp only [CH.STAT.reg]; omega

/-! The fields of `CH_STAT`. -/

theorem full_eq_testBit (s : State) (w c m : Nat) :
    s.full w c m = (s.g (CH.STAT.FULL (chBlock w c))).testBit m := bit_eq_testBit _ _

/-- Setting a mailbox's FULL leaves that of the others. -/
theorem setFull_testBit (s : State) (w c m : Nat) {j : Nat} (hj : j < 4) :
    ((s.setFull w c m true).g (CH.STAT.FULL (chBlock w c))).testBit j =
      if j = m then true else (s.g (CH.STAT.FULL (chBlock w c))).testBit j := by
  have e : m ≤ j ∧ j ≤ m ↔ j = m := by omega
  rw [State.setFull, g_p_same _ _ _ (by simp [CH.STAT.FULL]) (by simp [CH.STAT.FULL]), Nat.testBit_mod_two_pow,
    testBit_setBits _ _ _ _ _ (Nat.le_refl m)]
  simp only [CH.STAT.FULL, hj, decide_true, Bool.true_and, e]
  split
  · subst j; simp [b2n]
  · rfl

/-- The sticky OVERRUN bit of a mailbox, set. -/
theorem setOverrun_testBit (s : State) (k : Nat) {m : Nat} (hm : m < 4) :
    ((s.p (CH.STAT.OVERRUN k) (s.g (CH.STAT.OVERRUN k) ||| 2 ^ m)).g (CH.STAT.OVERRUN k)).testBit m = true := by
  rw [g_p_same _ _ _ (by simp [CH.STAT.OVERRUN]) (by simp [CH.STAT.OVERRUN]), Nat.testBit_mod_two_pow]
  simp [CH.STAT.OVERRUN, hm]

theorem setOverrun_full (s : State) (k v : Nat) : (s.p (CH.STAT.OVERRUN k) v).g (CH.STAT.FULL k) = s.g (CH.STAT.FULL k) :=
  g_p_disjoint s _ _ v rfl (by simp [CH.STAT.OVERRUN]) (by simp [CH.STAT.FULL]) (by simp [CH.STAT.FULL])
    (.inl (by simp [CH.STAT.OVERRUN, CH.STAT.FULL]))

/-! A write by the end that owns the mailbox. -/

/-- `REP_BA` answers a request that B has taken: the HIVE reference that it holds is dropped (R393). -/
def requestAnswered (s : State) (w c m : Nat) : State :=
  if m = 1 ∧ w = 0 ∧ c < 2048 ∧ tget 0 s.chOpen c ≠ 0 then
    { s with chOpen := tset 0 s.chOpen c (tget 0 s.chOpen c - 1) }.subRef c IR.refHive 1
  else s

theorem subRef_regs (s : State) (i : Nat) (f : RF) (n : Nat) : (s.subRef i f n).regs = s.regs := by
  unfold State.subRef; split <;> rfl

theorem subRef_pending (s : State) (i : Nat) (f : RF) (n : Nat) : (s.subRef i f n).pending = s.pending := by
  unfold State.subRef; split <;> rfl

theorem requestAnswered_regs (s : State) (w c m : Nat) : (requestAnswered s w c m).regs = s.regs := by
  unfold requestAnswered
  split
  · rw [subRef_regs]
  · rfl

theorem requestAnswered_pending (s : State) (w c m : Nat) : (requestAnswered s w c m).pending = s.pending := by
  unfold requestAnswered
  split
  · rw [subRef_pending]
  · rfl

theorem requestAnswered_reg (s : State) (w c m a : Nat) : (requestAnswered s w c m).reg a = s.reg a := by
  simp only [State.reg, requestAnswered_regs]

theorem requestAnswered_g (s : State) (w c m : Nat) (f : Fld) : (requestAnswered s w c m).g f = s.g f := by
  simp only [State.g, requestAnswered_reg]

/-- An empty mailbox takes the word (R381), and its reading end is notified (R384). -/
def mailboxStored (s : State) (w c m : Nat) (v : Word) : State :=
  (((requestAnswered s w c m).setReg (chBlock w c + 8 * m) v).setFull w c m true).chNotify w c (!mbByB m) false

/-- A full mailbox drops the word (R381). -/
def mailboxOverrun (s : State) (w c m : Nat) : State :=
  let k := chBlock w c
  let s := requestAnswered s w c m
  (s.p (CH.STAT.OVERRUN k) (s.g (CH.STAT.OVERRUN k) ||| 2 ^ m)).evt (WAGGLE.base w) 8

/-- The end of a channel block that writes mailbox m reaches it: R380, and none of the refusals of R385 and R386. -/
structure WritesMailbox (s : State) (actor w c m : Nat) : Prop where
  ok : actorOk actor = true
  page : s.noPage actor = false
  isEnd : s.chEnd w c (mbByB m) = actor
  secure : s.gb (CH.CFG.SECURE (chBlock w c)) = true → s.secure actor = true
  awake : s.domDown (s.chDom w c) = false

theorem actorOk_ne_zero {actor : Nat} (h : actorOk actor = true) : actor ≠ 0 := by
  rintro rfl
  exact absurd h (by decide)

theorem WritesMailbox.chKind {s : State} {actor w c m : Nat} (h : WritesMailbox s actor w c m) :
    s.chKind actor w c (s.chEnd w c (mbByB m) != 0 && s.chEnd w c (mbByB m) == actor) = 0 := by
  have hs : (s.gb (CH.CFG.SECURE (chBlock w c)) && !s.secure actor) = false := by
    cases hg : s.gb (CH.CFG.SECURE (chBlock w c))
    · rfl
    · simp [h.secure hg]
  simp [State.chKind, hs, h.awake, h.isEnd, actorOk_ne_zero h.ok]

/-- What the write gives, by FULL. -/
theorem mbWrite_of_writes {s : State} {actor w c m : Nat} (v : Word) (h : WritesMailbox s actor w c m) :
    s.mbWrite actor w c m v =
      (none, if (s.g (CH.STAT.FULL (chBlock w c))).testBit m then mailboxOverrun s w c m else mailboxStored s w c m v) := by
  unfold State.mbWrite
  simp only [h.chKind]
  change (if (requestAnswered s w c m).full w c m = true then (none, mailboxOverrun s w c m)
    else (none, mailboxStored s w c m v)) = _
  rw [full_eq_testBit, requestAnswered_g]
  split <;> rfl

theorem exec_mailboxWrite {s : State} {actor w c m : Nat} (v : Word) (hw : w ≤ 12) (hc : c < chCount w) (hm : m < 4)
    (h : WritesMailbox s actor w c m) :
    exec (.mailboxWrite actor w c m v) s =
      done s (if (s.g (CH.STAT.FULL (chBlock w c))).testBit m then mailboxOverrun s w c m else mailboxStored s w c m v) := by
  have hr : ¬ (12 < w ∨ chCount w ≤ c ∨ 3 < m ∨ s.noPage actor = true) := by
    simp only [h.page, Bool.false_eq_true, or_false]; omega
  simp only [exec, execMailboxWrite, h.ok, Bool.not_true, Bool.false_eq_true, if_false, if_neg hr, mbWrite_of_writes v h]

/-! What the two outcomes hold. -/

section Stored

variable (s : State) (w c m : Nat) (v : Word)

theorem keepsWaggles_mailboxStored :
    KeepsWaggles (((requestAnswered s w c m).setReg (chBlock w c + 8 * m) v).setFull w c m true) (mailboxStored s w c m v) :=
  KeepsWaggles.chNotify _ w c _ _

theorem mailboxStored_pending : (mailboxStored s w c m v).pending = s.pending :=
  (keepsWaggles_mailboxStored s w c m v).pending.trans (requestAnswered_pending s w c m)

/-- The mailboxes of the block after a word is stored. -/
theorem mailboxStored_mailbox {j : Nat} (hj : j < 4) :
    (mailboxStored s w c m v).reg (chBlock w c + 8 * j) = if j = m then v else s.reg (chBlock w c + 8 * j) := by
  have hb := waggleBase_le_chBlock w c
  rw [(keepsWaggles_mailboxStored s w c m v).reg _ (by omega), State.setFull, reg_p_ne _ _ _ _ (mailbox_ne_chStat _ hj),
    reg_setReg, requestAnswered_reg]
  have e : chBlock w c + 8 * j = chBlock w c + 8 * m ↔ j = m := by omega
  simp only [e]

/-- FULL of the block after a word is stored. -/
theorem mailboxStored_full (hm : m < 4) {j : Nat} (hj : j < 4) :
    ((mailboxStored s w c m v).g (CH.STAT.FULL (chBlock w c))).testBit j =
      if j = m then true else (s.g (CH.STAT.FULL (chBlock w c))).testBit j := by
  have hb : WAGGLE.base 0 ≤ CH.STAT.reg (chBlock w c) := Nat.le_add_right_of_le (waggleBase_le_chBlock w c)
  rw [(keepsWaggles_mailboxStored s w c m v).g _ hb, setFull_testBit _ _ _ _ hj,
    g_setReg_ne _ _ _ _ (mailbox_ne_chStat _ hm).symm, requestAnswered_g]

end Stored

section Overrun

variable (s : State) (w c m : Nat)

theorem mailboxOverrun_pending : (mailboxOverrun s w c m).pending = s.pending := by
  rw [mailboxOverrun, evt_links]; exact requestAnswered_pending s w c m

theorem mailboxOverrun_mailbox (hm : m < 4) :
    (mailboxOverrun s w c m).reg (chBlock w c + 8 * m) = s.reg (chBlock w c + 8 * m) := by
  rw [mailboxOverrun, evt_reg, if_neg (mailbox_ne_waggleEvt w c m), reg_p_ne _ _ _ _ (mailbox_ne_chStat _ hm),
    requestAnswered_reg]

theorem mailboxOverrun_full : (mailboxOverrun s w c m).g (CH.STAT.FULL (chBlock w c)) = s.g (CH.STAT.FULL (chBlock w c)) := by
  rw [mailboxOverrun, g_evt_ne _ _ (chStat_ne_waggleEvt w c), setOverrun_full, requestAnswered_g]

theorem mailboxOverrun_overrun (hm : m < 4) :
    ((mailboxOverrun s w c m).g (CH.STAT.OVERRUN (chBlock w c))).testBit m = true := by
  rw [mailboxOverrun, g_evt_ne _ _ (chStat_ne_waggleEvt w c)]
  exact setOverrun_testBit _ _ hm

theorem mailboxOverrun_event : ((mailboxOverrun s w c m).reg (UNIT.EVT.reg (WAGGLE.base w))).getLsbD 8 = true := by
  simp [mailboxOverrun, evt_reg]

end Overrun

/-- Settles O48: by FULL, the word is stored or dropped; the notification that follows a store changes no register of
a WAGGLE. -/
theorem mailboxStores : Obligations.MailboxStores := by
  intro s actor w c m v hw hc hm hok k full hpage hend hsec hdom
  have hexec := exec_mailboxWrite v hw hc hm ⟨hok, hpage, hend, hsec, hdom⟩
  have hmail : ∀ j, k + 8 * j ∉ derivedRegs := fun j =>
    waggle_not_derived (Nat.le_add_right_of_le (waggleBase_le_chBlock w c))
  have hstat : CH.STAT.reg k ∉ derivedRegs := waggle_not_derived (Nat.le_add_right_of_le (waggleBase_le_chBlock w c))
  have hevt : UNIT.EVT.reg (WAGGLE.base w) ∉ derivedRegs := waggle_not_derived (Nat.le_add_right_of_le (waggleBase_le w))
  constructor
  · intro hempty
    have hfull (j : Nat) (hj : j < 4) := mailboxStored_full s w c m v hm hj
    have hword (j : Nat) (hj : j < 4) := mailboxStored_mailbox s w c m v hj
    rw [if_neg (by simpa [full] using hempty)] at hexec
    refine completes_of hexec (mailboxStored_pending s w c m v) fun t ht => ?_
    have htfull : t.g (CH.STAT.FULL k) = _ := same_g ht hstat
    rw [htfull]
    refine ⟨?_, ?_, fun j hne hj => ⟨?_, ?_⟩⟩
    · rw [same_reg ht (hmail m), hword m hm, if_pos rfl]
    · rw [hfull m hm, if_pos rfl]
    · rw [same_reg ht (hmail j), hword j hj, if_neg hne]
    · rw [hfull j hj, if_neg hne]
  · intro hfull
    rw [if_pos hfull] at hexec
    refine completes_of hexec (mailboxOverrun_pending s w c m) fun t ht => ⟨?_, ?_, ?_, ?_⟩
    · rw [same_reg ht (hmail m), mailboxOverrun_mailbox s w c m hm]
    · rw [same_g ht hstat, mailboxOverrun_full]
    · rw [same_g ht hstat, mailboxOverrun_overrun s w c m hm]
    · rw [same_reg ht hevt, mailboxOverrun_event]

end Sys2Proof
end
